-- ==== Sys2Proof/Word.lean ====
section
/-! DEFINITION. The word types of the Shepin VXS-512 (spec/00_scope.md, R4; spec/03_formats_and_assembly.md, R60). -/

namespace Sys2Proof

/-- One byte of memory. -/
abbrev Byte := BitVec 8

/-- One 32-bit word: an instruction, a register, a control register. -/
abbrev Word := BitVec 32

/-- A 64-bit value: a register pair, a program counter, a time. -/
abbrev DWord := BitVec 64

/-- A set of lanes of a warp: bit i is lane i (R18). -/
abbrev Mask := BitVec 32

/-- A lane of a quad, 0 to 31 (R10). -/
abbrev Lane := Fin 32

/-- Thread register field, v0 to v127 (R64). -/
abbrev VReg := BitVec 7

/-- Uniform register, w0 to w63 (R64). -/
abbrev WReg := BitVec 6

/-- Predicate, p0 to p7; as a guard, 7 means always (R61, R64). -/
abbrev PReg := BitVec 3

/-- Mask register field, m0 to m15 (R64). -/
abbrev MReg := BitVec 4

/-- Capability field, c0 to c63 (R64). -/
abbrev Cap := BitVec 6

/-- Sequencer register, q0 to q31 (R89). -/
abbrev QReg := BitVec 5

/-- Block barrier field of a sequencer word, 0 to 15 (R89). -/
abbrev BarNo := BitVec 4

end Sys2Proof
end

