-- ==== Sys2Proof/Config.lean ====
section
/-! DEFINITION. What an implementation fixes and the spec does not publish, and the free values.  None of these
constants has a body: nothing can be proved about their values.  A free value of a step is one of them applied to
the counter `State.free`, which the step then advances (log 4). -/

namespace Sys2Proof

/-- The approximate functions of FUNA (spec/02_number_formats.md, R47). -/
inductive SpecialFn where
  | rcp | rsq | ex2 | lg2 | sin | cos | tanh | sigm
  deriving DecidableEq, Repr

/-- What an Announce message says of a clock: the default data set of its grandmaster, the steps removed from it, and the
clock that sent the message (IEEE 1588-2019, by R369). -/
structure ClockData where
  prio1 : Nat
  cls : Nat
  accuracy : Nat
  variance : Nat
  prio2 : Nat
  identity : Nat
  steps : Nat
  sender : Nat
  deriving DecidableEq, Repr, Inhabited

/-- The module's own data set but for priority1, which PTP_CTL holds, and the steps, which are 0 (R369, R371; log 18). -/
opaque Config.ownClock : ClockData

/-- The fixed mapping of each approximate function, whose bits the spec does not publish (R47; log 9). -/
opaque Config.specialBits : SpecialFn → Word → Word

/-- A free value of up to 128 bits. -/
opaque Config.freeBits : Nat → BitVec 128

/-- A free choice; it is used modulo the number of the candidates (log 3). -/
opaque Config.freePick : Nat → Nat

/-- Whether a translation that may use an old leaf does: by the counter of free values and the address (R345; log 10). -/
opaque Config.oldLeaf : Nat → Nat → Bool

/-- The set of an RDC that a line goes to, used modulo the number of sets (R257, R261; log 8). -/
opaque Config.rdcSet : Nat → Nat

/-- How many nanoseconds beyond the first pass in the n-th step that takes time (log 2). -/
opaque Config.elapsed : Nat → Nat

/-- The bytes of a save area that a block of given warps, registers per thread and window KiB takes: its layout is not
architectural (R340; log 19). -/
opaque Config.saveBytes : Nat → Nat → Nat → Nat

/-- Iluval's public key, which the boot ROMs hold: the root, then the public seed (R412; log 12). -/
opaque Config.iluvalKey : List Byte

/-- The XMSS signature over a message with the device key, by signature index (R414, R415; log 12). -/
opaque Config.xmssSign : Nat → List Byte → List Byte

/-- The device public key, and Iluval's signature over it, as held on-die (R414, R415; log 12). -/
opaque Config.deviceKey : List Byte
opaque Config.deviceCert : List Byte

/-- Where the firmware of a die's steward core begins (R29, R413; log 12). -/
opaque Config.stewardEntry : Nat → BitVec 64

/-- The bytes of local memory of a steward core (log 12). -/
opaque Config.stewardWindow : Nat

end Sys2Proof
end

