-- ==== Sys2Proof/Syntax.lean ====
section
/-! DEFINITION. The instructions of the Shepin VXS-512: one constructor of `Instr` per row of spec/opcode_table.json,
its fields read out of the word and its codes turned into names (spec/03_formats_and_assembly.md,
spec/04_opcode_map.md).  The rows without an encoding are events of the machine; their arguments say which object
the event happens to and, for an event that comes from outside, what arrives. -/

namespace Sys2Proof

/-- The size field of F.M (R64). -/
inductive Size where
  | b32 | b64 | b128 | b16
  deriving DecidableEq, Repr

/-- The pol field of LD, ST, PREF and DISC (R64). -/
inductive Pol where
  | l1 | l2 | sys | str
  deriving DecidableEq, Repr

/-- The pol field of LDL (R64). -/
inductive LdlMode where
  | plain | fe | fec
  deriving DecidableEq, Repr

/-- The pol field of STL (R64). -/
inductive StlMode where
  | plain | fs
  deriving DecidableEq, Repr

/-- The scope in the pol field of LDA and STRL (R64). -/
inductive AcqScope where
  | clu | die | dev | sys
  deriving DecidableEq, Repr

/-- A scope of FENCE, or of an HPOL override (R63, R68). -/
inductive Scope where
  | blk | clu | die | dev | sys
  deriving DecidableEq, Repr

/-- What a FENCE orders (R63). -/
inductive FenceKind where
  | all | loads | stores
  deriving DecidableEq, Repr

/-- The conditions of kind 0, integer (R65). -/
inductive IntCond where
  | eq | ne | lt | le | gt | ge | ltu | leu | gtu | geu
  deriving DecidableEq, Repr

/-- The conditions of kind 1, FP32 (R65). -/
inductive FloatCond where
  | eq | ne | lt | le | gt | ge | num | nan
  deriving DecidableEq, Repr

/-- The conditions of F.WF (R65). -/
inductive WaitCond where
  | eq | ne | geu | ltu
  deriving DecidableEq, Repr

/-- The rounding modes, in the order of their codes (spec/02_number_formats.md, R41). -/
inductive RMode where
  | rne | rtz | rdn | rup
  deriving DecidableEq, Repr

/-- The floating-point types of a conversion (R85). -/
inductive FType where
  | f64 | f32 | f16 | bf16
  deriving DecidableEq, Repr

/-- The integer types of a conversion (R85). -/
inductive IType where
  | i32 | b32 | i64 | b64
  deriving DecidableEq, Repr

/-- The block formats (R86). -/
inductive BxFmt where
  | bx4 | bx6 | bx8
  deriving DecidableEq, Repr

/-- The operations of REDUX and SCAN (R88). -/
inductive ReduxOp where
  | iadd | imin | imax | iminu | imaxu | and | or | xor | fadd | fmin | fmax
  deriving DecidableEq, Repr

/-- The allocation field of HPOL (R68). -/
inductive Alloc where
  | default | evictFirst | noAllocate
  deriving DecidableEq, Repr

/-- The operations a peer may ask for (spec/19_host_coupling.md, R364, R365). -/
inductive PeerOp where
  | read | write | aadd | amin | amax | aexch | aand | aor | axor | ainc | cas32 | cas64 | cas128
  | faadd | famin | famax | bfaadd2
  deriving DecidableEq, Repr

/-- One inbound peer request: the operation, the device physical address, its size and its operand bytes. -/
structure PeerReq where
  op : PeerOp
  addr : Nat
  size : Nat
  bytes : List Byte
  deriving DecidableEq, Repr

/-- What a PTP message says that the boundary clock acts on (R369, R370). -/
inductive PtpBody where
  | announce (data : ClockData)
  | sync (origin : Nat) (arrival : Nat)
  | delayReq (arrival : Nat)
  | delayResp (sent : Nat) (receipt : Nat)
  deriving DecidableEq, Repr

/-- A PTP message of a domain (R371). -/
structure PtpMsg where
  domain : Nat
  body : PtpBody
  deriving DecidableEq, Repr

/-- What a host port trains at: its lanes, and its rate in GT/s (R354). -/
structure LinkWidth where
  lanes : Nat
  rate : Nat
  deriving DecidableEq, Repr

/-- One constructor per row of spec/opcode_table.json.  Fields: g guard, d destination, a and b sources, i and o
immediates, c capability, m mask register, p pol, s size, j port, as the formats of R62 and R63 name them. -/
inductive Instr where
  -- Warp words (R62, R63, R80)
  /-- IADD, R93. -/
  | iadd (g : PReg) (d a b : VReg)
  /-- ISUB, R93. -/
  | isub (g : PReg) (d a b : VReg)
  /-- IMIN, R93. -/
  | imin (g : PReg) (d a b : VReg)
  /-- IMAX, R93. -/
  | imax (g : PReg) (d a b : VReg)
  /-- IMINU, R93. -/
  | iminu (g : PReg) (d a b : VReg)
  /-- IMAXU, R93. -/
  | imaxu (g : PReg) (d a b : VReg)
  /-- IABS, R94. -/
  | iabs (g : PReg) (d a : VReg)
  /-- INEG, R94. -/
  | ineg (g : PReg) (d a : VReg)
  /-- IMUL, R97. -/
  | imul (g : PReg) (d a b : VReg)
  /-- IMULH, R97. -/
  | imulh (g : PReg) (d a b : VReg)
  /-- IMULHU, R97. -/
  | imulhu (g : PReg) (d a b : VReg)
  /-- IMAD, R97. -/
  | imad (g : PReg) (d a b : VReg)
  /-- IMADW, R97. -/
  | imadw (g : PReg) (d a b : VReg)
  /-- IMADWU, R97. -/
  | imadwu (g : PReg) (d a b : VReg)
  /-- IDIV, R98. -/
  | idiv (g : PReg) (d a b : VReg)
  /-- IDIVU, R98. -/
  | idivu (g : PReg) (d a b : VReg)
  /-- IREM, R98. -/
  | irem (g : PReg) (d a b : VReg)
  /-- IREMU, R98. -/
  | iremu (g : PReg) (d a b : VReg)
  /-- IADD64, R96. -/
  | iadd64 (g : PReg) (d a b : VReg)
  /-- ISUB64, R96. -/
  | isub64 (g : PReg) (d a b : VReg)
  /-- SHL, R99. -/
  | shl (g : PReg) (d a b : VReg)
  /-- SHR, R99. -/
  | shr (g : PReg) (d a b : VReg)
  /-- SAR, R99. -/
  | sar (g : PReg) (d a b : VReg)
  /-- ROTL, R99. -/
  | rotl (g : PReg) (d a b : VReg)
  /-- SHLI, R100. -/
  | shli (g : PReg) (d a : VReg) (i : BitVec 7)
  /-- SHRI, R100. -/
  | shri (g : PReg) (d a : VReg) (i : BitVec 7)
  /-- SARI, R100. -/
  | sari (g : PReg) (d a : VReg) (i : BitVec 7)
  /-- ANDI, R100. -/
  | andi (g : PReg) (d a : VReg) (i : BitVec 7)
  /-- AND, R101. -/
  | and (g : PReg) (d a b : VReg)
  /-- OR, R101. -/
  | or (g : PReg) (d a b : VReg)
  /-- XOR, R101. -/
  | xor (g : PReg) (d a b : VReg)
  /-- ANDN, R101. -/
  | andn (g : PReg) (d a b : VReg)
  /-- ORN, R101. -/
  | orn (g : PReg) (d a b : VReg)
  /-- XNOR, R101. -/
  | xnor (g : PReg) (d a b : VReg)
  /-- NOT, R101. -/
  | not (g : PReg) (d a : VReg)
  /-- POPC, R102. -/
  | popc (g : PReg) (d a : VReg)
  /-- CLZ, R102. -/
  | clz (g : PReg) (d a : VReg)
  /-- CTZ, R102. -/
  | ctz (g : PReg) (d a : VReg)
  /-- BREV, R102. -/
  | brev (g : PReg) (d a : VReg)
  /-- BFE, R103. -/
  | bfe (g : PReg) (d a b : VReg)
  /-- BFEU, R103. -/
  | bfeu (g : PReg) (d a b : VReg)
  /-- BFI, R103. -/
  | bfi (g : PReg) (d a b : VReg)
  /-- IADDI, R95. -/
  | iaddi (g : PReg) (d a : VReg) (i : BitVec 9)
  /-- ISETP, R104. -/
  | isetp (g p : PReg) (c : IntCond) (a b : VReg) (acc : Bool)
  /-- FSETP, R134. -/
  | fsetp (g p : PReg) (c : FloatCond) (a b : VReg) (acc : Bool)
  /-- ISETPI, R104. -/
  | isetpi (g p : PReg) (c : IntCond) (a : VReg) (i : BitVec 7) (acc : Bool)
  /-- PAND, R105. -/
  | pand (g d a b : PReg)
  /-- POR, R105. -/
  | por (g d a b : PReg)
  /-- PXOR, R105. -/
  | pxor (g d a b : PReg)
  /-- PNOT, R105. -/
  | pnot (g d a : PReg)
  /-- SEL, R106. -/
  | sel (g : PReg) (d a b : VReg)
  /-- P2V, R107. -/
  | p2v (g : PReg) (d : VReg)
  /-- V2P, R107. -/
  | v2p (g : PReg) (m : BitVec 7) (a : VReg)
  /-- MOV, R108. -/
  | mov (g : PReg) (d a : VReg)
  /-- MOVW, R109. -/
  | movw (g : PReg) (d : VReg) (a : WReg)
  /-- WMOV, R109. -/
  | wmov (g : PReg) (d : WReg) (a : VReg)
  /-- WMOVW, R109. -/
  | wmovw (g : PReg) (d a : WReg)
  /-- WADD, R109. -/
  | wadd (g : PReg) (d a b : WReg)
  /-- MOVI, R108. -/
  | movi (g : PReg) (d : VReg) (i : BitVec 16)
  /-- LEA, R110. -/
  | lea (g : PReg) (d a b : VReg) (s : BitVec 2)
  /-- RDS, R111. -/
  | rds (d : VReg) (a : BitVec 7)
  /-- WRS, R111. -/
  | wrs (d : BitVec 7) (a : VReg)
  /-- RDGT, R112. -/
  | rdgt (d a : VReg)
  /-- BRA, R114. -/
  | bra (g : PReg) (o : BitVec 23)
  /-- CALL, R114. -/
  | call (g : PReg) (o : BitVec 23)
  /-- BRX, R116. -/
  | brx (g : PReg) (a : VReg) (i : BitVec 12)
  /-- CALLX, R116. -/
  | callx (g : PReg) (a : VReg) (i : BitVec 12)
  /-- RET, R116. -/
  | ret (g : PReg) (a : VReg)
  /-- EXIT, R118. -/
  | exit (g : PReg)
  /-- SPT, R119. -/
  | spt (g : PReg) (i : BitVec 12)
  /-- NOP, R119. -/
  | nop (g : PReg)
  /-- YIELD, R119. -/
  | yield (g : PReg)
  /-- BKPT, R120. -/
  | bkpt (g : PReg) (i : BitVec 12)
  /-- TRAP, R120. -/
  | trap (g : PReg) (i : BitVec 12)
  /-- ERET, R121. -/
  | eret (g : PReg)
  /-- JOIN, R124. -/
  | join (g : PReg) (m : MReg)
  /-- LEAVE, R124. -/
  | leave (g : PReg) (m : MReg)
  /-- WAITM, R125. -/
  | waitm (g : PReg) (m : MReg)
  /-- MSKRD, R126. -/
  | mskrd (g : PReg) (m : MReg) (v : VReg)
  /-- MSKWR, R126. -/
  | mskwr (g : PReg) (m : MReg) (v : VReg)
  /-- MSKACT, R126. -/
  | mskact (g : PReg) (m : MReg) (v : VReg)
  /-- FADD, R129. -/
  | fadd (g : PReg) (d a b : VReg)
  /-- FSUB, R129. -/
  | fsub (g : PReg) (d a b : VReg)
  /-- FMUL, R129. -/
  | fmul (g : PReg) (d a b : VReg)
  /-- FFMA, R129. -/
  | ffma (g : PReg) (d a b : VReg)
  /-- FMIN, R130. -/
  | fmin (g : PReg) (d a b : VReg)
  /-- FMAX, R130. -/
  | fmax (g : PReg) (d a b : VReg)
  /-- FCPYS, R131. -/
  | fcpys (g : PReg) (d a b : VReg)
  /-- FABS, R135. -/
  | fabs (g : PReg) (d a : VReg)
  /-- FNEG, R135. -/
  | fneg (g : PReg) (d a : VReg)
  /-- FRND_RNE, R135. -/
  | frndRne (g : PReg) (d a : VReg)
  /-- FRND_RTZ, R135. -/
  | frndRtz (g : PReg) (d a : VReg)
  /-- FRND_RDN, R135. -/
  | frndRdn (g : PReg) (d a : VReg)
  /-- FRND_RUP, R135. -/
  | frndRup (g : PReg) (d a : VReg)
  /-- FRCP, R136. -/
  | frcp (g : PReg) (d a : VReg)
  /-- FRSQ, R136. -/
  | frsq (g : PReg) (d a : VReg)
  /-- FSQRT, R136. -/
  | fsqrt (g : PReg) (d a : VReg)
  /-- FEX2, R136. -/
  | fex2 (g : PReg) (d a : VReg)
  /-- FLG2, R136. -/
  | flg2 (g : PReg) (d a : VReg)
  /-- FSIN, R136. -/
  | fsin (g : PReg) (d a : VReg)
  /-- FCOS, R136. -/
  | fcos (g : PReg) (d a : VReg)
  /-- FTANH, R136. -/
  | ftanh (g : PReg) (d a : VReg)
  /-- FSIGM, R136. -/
  | fsigm (g : PReg) (d a : VReg)
  /-- DADD, R132. -/
  | dadd (g : PReg) (d a b : VReg)
  /-- DSUB, R132. -/
  | dsub (g : PReg) (d a b : VReg)
  /-- DMUL, R132. -/
  | dmul (g : PReg) (d a b : VReg)
  /-- DFMA, R132. -/
  | dfma (g : PReg) (d a b : VReg)
  /-- BADD2, R133. -/
  | badd2 (g : PReg) (d a b : VReg)
  /-- BMUL2, R133. -/
  | bmul2 (g : PReg) (d a b : VReg)
  /-- BFMA2, R133. -/
  | bfma2 (g : PReg) (d a b : VReg)
  /-- BMAX2, R133. -/
  | bmax2 (g : PReg) (d a b : VReg)
  /-- HADD2, R133. -/
  | hadd2 (g : PReg) (d a b : VReg)
  /-- HMUL2, R133. -/
  | hmul2 (g : PReg) (d a b : VReg)
  /-- HFMA2, R133. -/
  | hfma2 (g : PReg) (d a b : VReg)
  /-- HMAX2, R133. -/
  | hmax2 (g : PReg) (d a b : VReg)
  /-- CVTF, R137. -/
  | cvtf (g : PReg) (d a : VReg) (x : Bool) (r : RMode) (t s : FType)
  /-- F2I, R137. -/
  | f2i (g : PReg) (d a : VReg) (x : Bool) (r : RMode) (t : IType) (s : FType)
  /-- I2F, R137. -/
  | i2f (g : PReg) (d a : VReg) (x : Bool) (r : RMode) (t : FType) (s : IType)
  /-- BXQ, R138. -/
  | bxq (g : PReg) (d a : VReg) (m : BxFmt)
  /-- BXD, R140. -/
  | bxd (g : PReg) (d a : VReg) (m : BxFmt)
  /-- BXPK, R139. -/
  | bxpk (g : PReg) (d a : VReg) (m : BxFmt)
  /-- SHFLI, R142. -/
  | shfli (g : PReg) (d a b : VReg)
  /-- SHFLU, R142. -/
  | shflu (g : PReg) (d a b : VReg)
  /-- SHFLD, R142. -/
  | shfld (g : PReg) (d a b : VReg)
  /-- SHFLX, R142. -/
  | shflx (g : PReg) (d a b : VReg)
  /-- VOTE_ALL, R143. -/
  | voteAll (g d : PReg) (n : Bool) (a : PReg)
  /-- VOTE_ANY, R143. -/
  | voteAny (g d : PReg) (n : Bool) (a : PReg)
  /-- VOTE_UNI, R143. -/
  | voteUni (g d : PReg) (n : Bool) (a : PReg)
  /-- VOTE_BALLOT, R143. -/
  | voteBallot (g : PReg) (d : VReg) (n : Bool) (a : PReg)
  /-- MATCH_ANY, R144. -/
  | matchAny (g : PReg) (d a : VReg) (wide : Bool)
  /-- MATCH_ALL, R144. -/
  | matchAll (g : PReg) (d a : VReg) (wide : Bool)
  /-- REDUX, R145. -/
  | redux (g : PReg) (d a : VReg) (o : ReduxOp)
  /-- SCAN, R146. -/
  | scan (g : PReg) (d a : VReg) (e : Bool) (o : ReduxOp)
  /-- STRB, R148. -/
  | strb (j : BitVec 2) (a : VReg)
  /-- STRU, R149. -/
  | stru (j : BitVec 2)
  /-- STRP, R149. -/
  | strp (d : VReg) (j : BitVec 2)
  /-- STRS, R149. -/
  | strs (j : BitVec 2) (a : VReg)
  /-- LD, R155. -/
  | ld (g : PReg) (d b : VReg) (s : Size) (p : Pol) (o : BitVec 5)
  /-- ST, R155. -/
  | st (g : PReg) (d b : VReg) (s : Size) (p : Pol) (o : BitVec 5)
  /-- LDL, R156. -/
  | ldl (g : PReg) (d b : VReg) (s : Size) (p : LdlMode) (o : BitVec 5)
  /-- STL, R156. -/
  | stl (g : PReg) (d b : VReg) (s : Size) (p : StlMode) (o : BitVec 5)
  /-- LDA, R158. -/
  | lda (g : PReg) (d b : VReg) (s : Size) (p : AcqScope) (o : BitVec 5)
  /-- STRL, R158. -/
  | strl (g : PReg) (d b : VReg) (s : Size) (p : AcqScope) (o : BitVec 5)
  /-- PREF, R159. -/
  | pref (g : PReg) (b : VReg) (e : BitVec 2) (p : Pol) (o : BitVec 5)
  /-- DISC, R159. -/
  | disc (g : PReg) (b : VReg) (e : BitVec 2) (p : Pol) (o : BitVec 5)
  /-- AADD_NEAR, R160. -/
  | aaddNear (g : PReg) (d a b : VReg)
  /-- AMIN_NEAR, R161. -/
  | aminNear (g : PReg) (d a b : VReg)
  /-- AMAX_NEAR, R161. -/
  | amaxNear (g : PReg) (d a b : VReg)
  /-- AEXCH_NEAR, R161. -/
  | aexchNear (g : PReg) (d a b : VReg)
  /-- AADD, R161. -/
  | aadd (g : PReg) (d a b : VReg)
  /-- AMIN, R161. -/
  | amin (g : PReg) (d a b : VReg)
  /-- AMAX, R161. -/
  | amax (g : PReg) (d a b : VReg)
  /-- AEXCH, R161. -/
  | aexch (g : PReg) (d a b : VReg)
  /-- AAND, R161. -/
  | aand (g : PReg) (d a b : VReg)
  /-- AOR, R161. -/
  | aor (g : PReg) (d a b : VReg)
  /-- AXOR, R161. -/
  | axor (g : PReg) (d a b : VReg)
  /-- AINC, R161. -/
  | ainc (g : PReg) (d a b : VReg)
  /-- CAS, R162. -/
  | cas (g : PReg) (d a b : VReg)
  /-- CASH, R162. -/
  | cash (g : PReg) (d a b : VReg)
  /-- CASH64, R162. -/
  | cash64 (g : PReg) (d a b : VReg)
  /-- CAS128, R162. -/
  | cas128 (g : PReg) (d a b : VReg)
  /-- FAADD, R163. -/
  | faadd (g : PReg) (d a b : VReg)
  /-- FAMIN, R163. -/
  | famin (g : PReg) (d a b : VReg)
  /-- FAMAX, R163. -/
  | famax (g : PReg) (d a b : VReg)
  /-- BFAADD2, R163. -/
  | bfaadd2 (g : PReg) (d a b : VReg)
  /-- CASC, R165. -/
  | casc (g : PReg) (a b : VReg) (c : Cap)
  /-- INCC, R165. -/
  | incc (g : PReg) (a b : VReg) (c : Cap)
  /-- MINC, R165. -/
  | minc (g : PReg) (a b : VReg) (c : Cap)
  /-- RLOCK, R167. -/
  | rlock (g : PReg) (c : Cap)
  /-- WLOCK, R167. -/
  | wlock (g : PReg) (c : Cap)
  /-- RUNLK, R167. -/
  | runlk (g : PReg) (c : Cap)
  /-- WUNLK, R167. -/
  | wunlk (g : PReg) (c : Cap)
  /-- RTRY, R167. -/
  | rtry (g : PReg) (d : VReg) (c : Cap)
  /-- WTRY, R167. -/
  | wtry (g : PReg) (d : VReg) (c : Cap)
  /-- FENCE, R168. -/
  | fence (s : Scope) (k : FenceKind)
  /-- WAITC, R169. -/
  | waitc (l s c m : BitVec 4)
  /-- WAITF, R171. -/
  | waitf (g : PReg) (a b : VReg) (c : Cap) (np : Bool) (k : WaitCond)
  /-- POLL, R171. -/
  | poll (g : PReg) (a b : VReg) (c : Cap) (np : Bool) (k : WaitCond)
  /-- BARA, R173. -/
  | bara (g : PReg) (d a : VReg) (c : Cap)
  /-- BARW, R173. -/
  | barw (g : PReg) (d a : VReg) (c : Cap)
  /-- BARAW, R173. -/
  | baraw (g : PReg) (d a : VReg) (c : Cap)
  /-- BARST, R173. -/
  | barst (g : PReg) (d a : VReg) (c : Cap)
  /-- BARX, R173. -/
  | barx (g : PReg) (d a : VReg) (c : Cap)
  /-- BARXW, R173. -/
  | barxw (g : PReg) (d a : VReg) (c : Cap)
  /-- ENQ, R175. -/
  | enq (g : PReg) (d a : VReg) (c : Cap)
  /-- DEQ, R175. -/
  | deq (g : PReg) (d : VReg) (c : Cap)
  /-- ENQT, R175. -/
  | enqt (g : PReg) (d a : VReg) (c : Cap)
  /-- DEQT, R175. -/
  | deqt (g : PReg) (d a : VReg) (c : Cap)
  /-- QLEN, R175. -/
  | qlen (g : PReg) (d : VReg) (c : Cap)
  /-- CPY, R179. -/
  | cpy (g : PReg) (d a : VReg) (c : Cap)
  /-- CPYT, R179. -/
  | cpyt (g : PReg) (d a : VReg) (c : Cap)
  /-- CPYIM, R179. -/
  | cpyim (g : PReg) (d a : VReg) (c : Cap)
  /-- CPYG, R179. -/
  | cpyg (g : PReg) (d a : VReg) (c : Cap)
  /-- CTOK, R181. -/
  | ctok (g : PReg) (d a : VReg) (c : Cap)
  /-- CSLEEP, R181. -/
  | csleep (g : PReg) (d a : VReg) (c : Cap)
  /-- CARD, R183. -/
  | card (g : PReg) (d a : VReg) (c : Cap)
  /-- DEAL, R184. -/
  | deal (g : PReg) (d : VReg) (c : Cap)
  /-- REORD, R185. -/
  | reord (g : PReg) (a : VReg) (c : Cap)
  /-- SQRUN, R187. -/
  | sqrun (g : PReg) (d a : VReg)
  /-- SQST, R188. -/
  | sqst (g : PReg) (d : VReg)
  /-- SQSTOP, R188. -/
  | sqstop (g : PReg) (d : VReg)
  /-- CSRR, R196. -/
  | csrr (d : VReg) (i : BitVec 14)
  /-- CSRW, R196. -/
  | csrw (d : VReg) (i : BitVec 14)
  /-- RDWR, R197. -/
  | rdwr (d a b : VReg)
  /-- WRWR, R197. -/
  | wrwr (d a b : VReg)
  /-- HALTW, R198. -/
  | haltw (a : VReg)
  /-- RESW, R199. -/
  | resw (a b : VReg)
  /-- STEP, R200. -/
  | step (d a b : VReg)
  /-- TLBINV, R201. -/
  | tlbinv (a b : VReg)
  /-- QSC, R202. -/
  | qsc (d a : VReg)
  /-- CAPW, R203. -/
  | capw (a b : VReg)
  /-- GRPW, R204. -/
  | grpw (d a b : VReg)
  /-- HIMM, R66. -/
  | himm (p : BitVec 22)
  /-- HGRD, R68. -/
  | hgrd (n : Bool) (p : PReg)
  /-- HFMD, R128. -/
  | hfmd (f s : Bool) (r : RMode)
  /-- HPOL, R68. -/
  | hpol (n : Bool) (s : Option Scope) (a : Alloc)
  /-- HSCH, R206. -/
  | hsch (p : BitVec 22)
  /-- HPRD, R68. -/
  | hprd (n : Bool) (p : PReg)
  -- Sequencer words (R89)
  /-- MXLDS, R192. -/
  | mxlds (q : QReg) (b : BarNo)
  /-- MXSTR, R192. -/
  | mxstr (q : QReg) (b : BarNo)
  /-- MXSPR, R192. -/
  | mxspr (q : QReg) (b : BarNo)
  /-- MXDRN, R192. -/
  | mxdrn (q : QReg) (b : BarNo)
  /-- MXSWP, R192. -/
  | mxswp
  /-- MXZ, R192. -/
  | mxz
  /-- QEND, R194. -/
  | qend
  /-- MXCK, R194. -/
  | mxck (b : BarNo) (d : QReg)
  /-- QMOVI, R194. -/
  | qmovi (d : QReg) (i : BitVec 22)
  /-- QADD, R194. -/
  | qadd (d a : QReg) (i : BitVec 17)
  /-- QLOOP, R194. -/
  | qloop (c : QReg) (o : BitVec 22)
  /-- QBAR, R194. -/
  | qbar (b : BarNo)
  /-- QWAIT, R194. -/
  | qwait (b : BarNo)
  -- Events (no encoding)
  /-- ILLEGAL_WORD, R81. -/
  | illegalWord (w : Word)
  /-- SEQ_WORD_UNALLOCATED, R90. -/
  | seqWordUnallocated (w : Word)
  /-- MODULE_RESET, R417. -/
  | moduleReset
  /-- FIRMWARE_VERIFY, R413. -/
  | firmwareVerify (die : Nat) (image : List Byte)
  /-- LQ_BELL, R332. -/
  | lqBell (die queue : Nat)
  /-- LAUNCH_READY, R218. -/
  | launchReady (launch : Nat)
  /-- DISPATCH, R221. -/
  | dispatch (pn : Nat)
  /-- STOP_DEADLINE, R210. -/
  | stopDeadline (bid : Nat)
  /-- EVICTION_SAVE_COMPLETE, R246. -/
  | evictionSaveComplete (bid : Nat)
  /-- WARP_SLOT_RELEASE, R118. -/
  | warpSlotRelease (bid warp : Nat)
  /-- ORDERED_ATOMIC_APPLY, R58. -/
  | orderedAtomicApply (launch : Nat)
  /-- LAUNCH_END, R335. -/
  | launchEnd (launch : Nat)
  /-- CHURN_TICK, R319. -/
  | churnTick (island : Nat)
  /-- CHURN_MOVE_TRANSFER, R322. -/
  | churnMoveTransfer (island : Nat)
  /-- CHURN_MOVE_COMPLETE, R322. -/
  | churnMoveComplete (island : Nat)
  /-- SLICE_TICK, R341. -/
  | sliceTick (pn : Nat)
  /-- CONTEXT_SWITCH_COMPLETE, R342. -/
  | contextSwitchComplete (core : Nat)
  /-- LEASE_EXPIRE, R259. -/
  | leaseExpire (place line : Nat)
  /-- EXCLUSIVE_LEASE_END, R259. -/
  | exclusiveLeaseEnd (line : Nat)
  /-- STORE_PERFORMED_AT_HOME, R260. -/
  | storePerformedAtHome (op : Nat)
  /-- STORE_ACK, R153. -/
  | storeAck (op : Nat)
  /-- LOAD_RETURN, R153. -/
  | loadReturn (op : Nat)
  /-- WAITF_WAKE, R171. -/
  | waitfWake (bid warp : Nat) (lane : Lane)
  /-- QUEUE_ELEMENT_READY, R174. -/
  | queueElementReady (bid warp : Nat) (lane : Lane)
  /-- DEQT_DEADLINE, R175. -/
  | deqtDeadline (bid warp : Nat) (lane : Lane)
  /-- RDGT_WAKE, R112. -/
  | rdgtWake (bid warp : Nat) (lane : Lane)
  /-- CSLEEP_WAKE, R181. -/
  | csleepWake (bid warp : Nat) (lane : Lane)
  /-- HANG_WATCHDOG_EXPIRE, R255. -/
  | hangWatchdogExpire (bid warp : Nat) (lane : Lane)
  /-- SLICE_FORWARD, R282. -/
  | sliceForward (slice : Nat)
  /-- RING_TASK_LAUNCH, R283. -/
  | ringTaskLaunch (card : Nat)
  /-- REORDER_BIN_DEPART, R240. -/
  | reorderBinDepart (cluster bin : Nat)
  /-- COPY_BEGIN, R289. -/
  | copyBegin (copy : Nat)
  /-- COPY_COMPLETE, R300. -/
  | copyComplete (copy : Nat)
  /-- COPY_FAULT, R301. -/
  | copyFault (copy : Nat)
  /-- MATRIX_GRANT, R310. -/
  | matrixGrant (cluster : Nat)
  /-- MATRIX_RUN_COMPLETE, R315. -/
  | matrixRunComplete (cluster : Nat) (residueOk : Bool)
  /-- TOKEN_REFILL, R404. -/
  | tokenRefill (die : Nat)
  /-- TOKEN_GRANT, R405. -/
  | tokenGrant (cluster : Nat)
  /-- DROOP_DETECT, R406. -/
  | droopDetect (cluster : Nat)
  /-- DROOP_RECOVER, R406. -/
  | droopRecover (cluster : Nat)
  /-- RAIL_SWITCH, R403. -/
  | railSwitch (cluster : Nat)
  /-- TEMP_SAMPLE, R411. -/
  | tempSample (cluster : Nat) (temp : Int)
  /-- HANDLER_INVOCATION_START, R347. -/
  | handlerInvocationStart (core quad : Nat)
  /-- NOTIFICATION_DELIVER, R351. -/
  | notificationDeliver (bid warp : Nat)
  /-- TRACE_PERIOD, R379. -/
  | tracePeriod (core : Nat)
  /-- CTX_CREATE, R340. -/
  | ctxCreate (pn ctx : Nat)
  /-- CTX_TEARDOWN, R340. -/
  | ctxTeardown (pn ctx : Nat)
  /-- CTX_SUSPEND, R330. -/
  | ctxSuspend (pn ctx : Nat) (on : Bool)
  /-- NOTE_SEND, R351. -/
  | noteSend (core : Nat) (handle : Word)
  /-- PART_MAP_WRITE, R384. -/
  | partMapWrite (v : Word)
  /-- MEM_IVL_WRITE, R389. -/
  | memIvlWrite (region : Nat) (v : Word)
  /-- WELT_OPEN_WRITE, R391. -/
  | weltOpenWrite (v : Word)
  /-- FW_SVN_WRITE, R413. -/
  | fwSvnWrite (die : Nat) (v : Word)
  /-- PEER_WTAB_LATCH, R367. -/
  | peerWtabLatch (die : Nat) (v : Word)
  /-- TRIG_STAT_WRITE, R372. -/
  | trigStatWrite (core : Nat) (v : Word)
  /-- ATT_CMD, R415. -/
  | attCmd (die : Nat) (v : Word)
  /-- ATTESTATION_REPORT_DONE, R415. -/
  | attestationReportDone (die : Nat)
  /-- QUIET_REACHED, R394. -/
  | quietReached (die : Nat)
  /-- SCRUB_COMPLETE, R396. -/
  | scrubComplete (region : Nat)
  /-- HPORT_CTL_WRITE, R354. -/
  | hportCtlWrite (die : Nat) (v : Word)
  /-- HOST_LINK_TRAIN, R354. -/
  | hostLinkTrain (port : Nat) (width : LinkWidth) (cxl : Bool)
  /-- HOST_LINK_DOWN, R359. -/
  | hostLinkDown (link : Nat)
  /-- HOST_MEMRD, R361. -/
  | hostMemrd (addr size : Nat)
  /-- HOST_MEMWR, R361. -/
  | hostMemwr (addr : Nat) (bytes : List Byte)
  /-- BISNP_COMPLETE, R361. -/
  | bisnpComplete (line : Nat) (dirty : List Byte)
  /-- HOST_WINDOW_ACCESS, R362. -/
  | hostWindowAccess (addr : Nat) (write : Bool) (v : Word)
  /-- HOST_SNOOP, R357. -/
  | hostSnoop (line : Nat) (bytes : List Byte)
  /-- HOST_COMPLETION, R358. -/
  | hostCompletion (op : Nat) (ok : Bool)
  /-- PEER_REQUEST_INBOUND, R367. -/
  | peerRequestInbound (src : Nat) (req : PeerReq)
  /-- PEER_RESPONSE, R359. -/
  | peerResponse (op : Nat) (ok : Bool)
  /-- PEER_FLIT_RECEIVE, R368. -/
  | peerFlitReceive (link : Nat) (seq : Nat) (crcOk : Bool)
  /-- PEER_LINK_TRAIN, R409. -/
  | peerLinkTrain (link width nbr : Nat)
  /-- PTP_MESSAGE, R369. -/
  | ptpMessage (port : Nat) (msg : PtpMsg)
  /-- PTP_SOURCE_LOST, R370. -/
  | ptpSourceLost
  /-- COPY_GRANULE_FILLED, R298. -/
  | copyGranuleFilled (copy granule : Nat)
  /-- MATRIX_OPERATION_COMPLETE, R190. -/
  | matrixOperationComplete (cluster : Nat)
  deriving DecidableEq, Repr

end Sys2Proof
end

