-- ==== Sys2Proof/WellFormed.lean ====
section
/-! DEFINITION. Which instructions have an encoding the spec allocates: the limits that the field types of `Instr` do
not already say (spec/04_opcode_map.md, R85, R88; spec/07_isa_memory_sync.md, R159). -/

namespace Sys2Proof

/-- CVT: a rounding mode in the code only with X set (R85). -/
def cvtModeOk (x : Bool) (r : RMode) : Bool := x || r == .rne

/-- SCAN: the exclusive mode only with IADD and FADD (R88). -/
def scanOk (e : Bool) (o : ReduxOp) : Bool := !e || o == .iadd || o == .fadd

/-- The instruction is one the opcode map allocates. -/
def Instr.wf : Instr → Bool
  | .cvtf _ _ _ x r t s => cvtModeOk x r && t != s
  | .f2i _ _ _ x r _ _ => cvtModeOk x r
  | .i2f _ _ _ x r _ _ => cvtModeOk x r
  | .scan _ _ _ e o => scanOk e o
  | .pref _ _ _ p _ => p != .str
  | _ => true

end Sys2Proof
end

