-- ==== Sys2Proof/Decode.lean ====
section
/-! DEFINITION. Decoding and encoding (spec/03_formats_and_assembly.md, R60 to R70; spec/04_opcode_map.md, R80 to
R90).  Each format has a record of its fields with `pack` (fields to word) and `unpack` (word to fields); `decode`
reads a warp word, `decodeSeq` a sequencer word, and both name the failing step of R70. -/

namespace Sys2Proof

/-- Why a word is no instruction, in the order of R70; the ILLEGAL sub-code is `DecErr.sub`. -/
inductive DecErr where
  /-- Sub-code 2: a hint of kind 6 to 15, or a nonzero payload bit that R68 marks zero. -/
  | hintMisuse
  /-- Sub-code 0: an unallocated major, minor, subop or code, or a reserved field value. -/
  | unallocated
  /-- Sub-code 1: a nonzero zero field. -/
  | zeroField
  deriving DecidableEq, Repr

def DecErr.sub : DecErr → BitVec 8
  | .hintMisuse => 2
  | .unallocated => 0
  | .zeroField => 1

abbrev Decoded := Except DecErr Instr

/-! ### Formats (R62, R63) -/

/-- The major opcode, bits [31:26] (R60). -/
def majorOf (w : Word) : BitVec 6 := w.extractLsb' 26 6

/-- The guard, bits [25:23] of a guarded format (R61). -/
def guardOf (w : Word) : PReg := w.extractLsb' 23 3

structure FR where
  g : PReg
  d : VReg
  a : VReg
  b : VReg
  f : BitVec 2
  deriving DecidableEq, Repr

def FR.pack (maj : BitVec 6) (r : FR) : Word := maj ++ r.g ++ r.d ++ r.a ++ r.b ++ r.f
def FR.unpack (w : Word) : FR :=
  ⟨guardOf w, w.extractLsb' 16 7, w.extractLsb' 9 7, w.extractLsb' 2 7, w.extractLsb' 0 2⟩

structure FI where
  g : PReg
  d : VReg
  a : VReg
  i : BitVec 9
  deriving DecidableEq, Repr

def FI.pack (maj : BitVec 6) (r : FI) : Word := maj ++ r.g ++ r.d ++ r.a ++ r.i
def FI.unpack (w : Word) : FI := ⟨guardOf w, w.extractLsb' 16 7, w.extractLsb' 9 7, w.extractLsb' 0 9⟩

structure FI2 where
  g : PReg
  d : VReg
  a : VReg
  f : BitVec 2
  i : BitVec 7
  deriving DecidableEq, Repr

def FI2.pack (maj : BitVec 6) (r : FI2) : Word := maj ++ r.g ++ r.d ++ r.a ++ r.f ++ r.i
def FI2.unpack (w : Word) : FI2 :=
  ⟨guardOf w, w.extractLsb' 16 7, w.extractLsb' 9 7, w.extractLsb' 7 2, w.extractLsb' 0 7⟩

structure FL where
  g : PReg
  d : VReg
  i : BitVec 16
  deriving DecidableEq, Repr

def FL.pack (maj : BitVec 6) (r : FL) : Word := maj ++ r.g ++ r.d ++ r.i
def FL.unpack (w : Word) : FL := ⟨guardOf w, w.extractLsb' 16 7, w.extractLsb' 0 16⟩

structure FM where
  g : PReg
  d : VReg
  b : VReg
  s : BitVec 2
  p : BitVec 2
  o : BitVec 5
  deriving DecidableEq, Repr

def FM.pack (maj : BitVec 6) (r : FM) : Word := maj ++ r.g ++ r.d ++ r.b ++ r.s ++ r.p ++ r.o
def FM.unpack (w : Word) : FM :=
  ⟨guardOf w, w.extractLsb' 16 7, w.extractLsb' 9 7, w.extractLsb' 7 2, w.extractLsb' 5 2, w.extractLsb' 0 5⟩

structure FB where
  g : PReg
  o : BitVec 23
  deriving DecidableEq, Repr

def FB.pack (maj : BitVec 6) (r : FB) : Word := maj ++ r.g ++ r.o
def FB.unpack (w : Word) : FB := ⟨guardOf w, w.extractLsb' 0 23⟩

structure FG where
  g : PReg
  f : BitVec 4
  a : VReg
  i : BitVec 12
  deriving DecidableEq, Repr

def FG.pack (maj : BitVec 6) (r : FG) : Word := maj ++ r.g ++ r.f ++ r.a ++ r.i
def FG.unpack (w : Word) : FG := ⟨guardOf w, w.extractLsb' 19 4, w.extractLsb' 12 7, w.extractLsb' 0 12⟩

structure FK where
  g : PReg
  m : MReg
  f : BitVec 3
  v : VReg
  z : BitVec 9
  deriving DecidableEq, Repr

def FK.pack (maj : BitVec 6) (r : FK) : Word := maj ++ r.g ++ r.m ++ r.f ++ r.v ++ r.z
def FK.unpack (w : Word) : FK :=
  ⟨guardOf w, w.extractLsb' 19 4, w.extractLsb' 16 3, w.extractLsb' 9 7, w.extractLsb' 0 9⟩

/-- F.P and F.PI, whose b field is a register or an immediate. -/
structure FP where
  g : PReg
  p : PReg
  c : BitVec 4
  a : VReg
  b : BitVec 7
  kind : Bool
  acc : Bool
  deriving DecidableEq, Repr

def FP.pack (maj : BitVec 6) (r : FP) : Word :=
  maj ++ r.g ++ r.p ++ r.c ++ r.a ++ r.b ++ BitVec.ofBool r.kind ++ BitVec.ofBool r.acc
def FP.unpack (w : Word) : FP :=
  ⟨guardOf w, w.extractLsb' 20 3, w.extractLsb' 16 4, w.extractLsb' 9 7, w.extractLsb' 2 7, w.getLsbD 1, w.getLsbD 0⟩

/-- F.C; F.AC has the same layout with an address pair in d and b in a. -/
structure FC where
  g : PReg
  d : VReg
  a : VReg
  c : Cap
  f : BitVec 3
  deriving DecidableEq, Repr

def FC.pack (maj : BitVec 6) (r : FC) : Word := maj ++ r.g ++ r.d ++ r.a ++ r.c ++ r.f
def FC.unpack (w : Word) : FC :=
  ⟨guardOf w, w.extractLsb' 16 7, w.extractLsb' 9 7, w.extractLsb' 3 6, w.extractLsb' 0 3⟩

structure FWF where
  g : PReg
  a : VReg
  b : VReg
  c : Cap
  np : Bool
  k : BitVec 2
  deriving DecidableEq, Repr

def FWF.pack (maj : BitVec 6) (r : FWF) : Word :=
  maj ++ r.g ++ r.a ++ r.b ++ r.c ++ BitVec.ofBool r.np ++ r.k
def FWF.unpack (w : Word) : FWF :=
  ⟨guardOf w, w.extractLsb' 16 7, w.extractLsb' 9 7, w.extractLsb' 3 6, w.getLsbD 2, w.extractLsb' 0 2⟩

structure FX where
  d : VReg
  a : VReg
  b : VReg
  f : BitVec 5
  deriving DecidableEq, Repr

def FX.pack (maj : BitVec 6) (r : FX) : Word := maj ++ r.d ++ r.a ++ r.b ++ r.f
def FX.unpack (w : Word) : FX :=
  ⟨w.extractLsb' 19 7, w.extractLsb' 12 7, w.extractLsb' 5 7, w.extractLsb' 0 5⟩

/-- F.W: the 26 bits below the major, bit 25 telling FENCE from WAITC. -/
def FW.pack (x : BitVec 26) : Word := (0x32 : BitVec 6) ++ x
def FW.unpack (w : Word) : BitVec 26 := w.extractLsb' 0 26

structure FH where
  k : BitVec 4
  p : BitVec 22
  deriving DecidableEq, Repr

def FH.pack (r : FH) : Word := (0x3F : BitVec 6) ++ r.k ++ r.p
def FH.unpack (w : Word) : FH := ⟨w.extractLsb' 22 4, w.extractLsb' 0 22⟩

/-! ### Codes and composed fields -/

def Size.code : Size → BitVec 2
  | .b32 => 0 | .b64 => 1 | .b128 => 2 | .b16 => 3
def Size.ofCode (c : BitVec 2) : Size :=
  match c.toNat with | 0 => .b32 | 1 => .b64 | 2 => .b128 | _ => .b16
def Pol.code : Pol → BitVec 2
  | .l1 => 0 | .l2 => 1 | .sys => 2 | .str => 3
def Pol.ofCode (c : BitVec 2) : Pol :=
  match c.toNat with | 0 => .l1 | 1 => .l2 | 2 => .sys | _ => .str
def LdlMode.code : LdlMode → BitVec 2
  | .plain => 0 | .fe => 1 | .fec => 2
def LdlMode.ofCode (c : BitVec 2) : Option LdlMode :=
  match c.toNat with | 0 => some .plain | 1 => some .fe | 2 => some .fec | _ => none
def StlMode.code : StlMode → BitVec 2
  | .plain => 0 | .fs => 1
def StlMode.ofCode (c : BitVec 2) : Option StlMode :=
  match c.toNat with | 0 => some .plain | 1 => some .fs | _ => none
def AcqScope.code : AcqScope → BitVec 2
  | .clu => 0 | .die => 1 | .dev => 2 | .sys => 3
def AcqScope.ofCode (c : BitVec 2) : AcqScope :=
  match c.toNat with | 0 => .clu | 1 => .die | 2 => .dev | _ => .sys
def Scope.code : Scope → BitVec 3
  | .blk => 0 | .clu => 1 | .die => 2 | .dev => 3 | .sys => 4
def Scope.ofCode (c : BitVec 3) : Option Scope :=
  match c.toNat with
  | 0 => some .blk | 1 => some .clu | 2 => some .die | 3 => some .dev | 4 => some .sys | _ => none
def FenceKind.code : FenceKind → BitVec 2
  | .all => 0 | .loads => 1 | .stores => 2
def FenceKind.ofCode (c : BitVec 2) : Option FenceKind :=
  match c.toNat with | 0 => some .all | 1 => some .loads | 2 => some .stores | _ => none
def IntCond.code : IntCond → BitVec 4
  | .eq => 0 | .ne => 1 | .lt => 2 | .le => 3 | .gt => 4 | .ge => 5 | .ltu => 6 | .leu => 7 | .gtu => 8 | .geu => 9
def IntCond.ofCode (c : BitVec 4) : Option IntCond :=
  match c.toNat with
  | 0 => some .eq | 1 => some .ne | 2 => some .lt | 3 => some .le | 4 => some .gt | 5 => some .ge
  | 6 => some .ltu | 7 => some .leu | 8 => some .gtu | 9 => some .geu | _ => none
def FloatCond.code : FloatCond → BitVec 4
  | .eq => 0 | .ne => 1 | .lt => 2 | .le => 3 | .gt => 4 | .ge => 5 | .num => 6 | .nan => 7
def FloatCond.ofCode (c : BitVec 4) : Option FloatCond :=
  match c.toNat with
  | 0 => some .eq | 1 => some .ne | 2 => some .lt | 3 => some .le | 4 => some .gt | 5 => some .ge
  | 6 => some .num | 7 => some .nan | _ => none
def WaitCond.code : WaitCond → BitVec 2
  | .eq => 0 | .ne => 1 | .geu => 2 | .ltu => 3
def WaitCond.ofCode (c : BitVec 2) : WaitCond :=
  match c.toNat with | 0 => .eq | 1 => .ne | 2 => .geu | _ => .ltu
def RMode.code : RMode → BitVec 2
  | .rne => 0 | .rtz => 1 | .rdn => 2 | .rup => 3
def RMode.ofCode (c : BitVec 2) : RMode :=
  match c.toNat with | 0 => .rne | 1 => .rtz | 2 => .rdn | _ => .rup
def FType.code : FType → BitVec 2
  | .f64 => 0 | .f32 => 1 | .f16 => 2 | .bf16 => 3
def FType.ofCode (c : BitVec 2) : FType :=
  match c.toNat with | 0 => .f64 | 1 => .f32 | 2 => .f16 | _ => .bf16
def IType.code : IType → BitVec 2
  | .i32 => 0 | .b32 => 1 | .i64 => 2 | .b64 => 3
def IType.ofCode (c : BitVec 2) : IType :=
  match c.toNat with | 0 => .i32 | 1 => .b32 | 2 => .i64 | _ => .b64
/-- The format code of R86: the format in bits [1:0], zero above. -/
def BxFmt.code : BxFmt → BitVec 7
  | .bx4 => 1 | .bx6 => 2 | .bx8 => 3
def BxFmt.ofCode (c : BitVec 2) : Option BxFmt :=
  match c.toNat with | 1 => some .bx4 | 2 => some .bx6 | 3 => some .bx8 | _ => none
def ReduxOp.code : ReduxOp → BitVec 4
  | .iadd => 0 | .imin => 1 | .imax => 2 | .iminu => 3 | .imaxu => 4 | .and => 5 | .or => 6 | .xor => 7
  | .fadd => 8 | .fmin => 9 | .fmax => 10
def ReduxOp.ofCode (c : BitVec 4) : Option ReduxOp :=
  match c.toNat with
  | 0 => some .iadd | 1 => some .imin | 2 => some .imax | 3 => some .iminu | 4 => some .imaxu | 5 => some .and
  | 6 => some .or | 7 => some .xor | 8 => some .fadd | 9 => some .fmin | 10 => some .fmax | _ => none
def Alloc.code : Alloc → BitVec 2
  | .default => 0 | .evictFirst => 1 | .noAllocate => 2
def Alloc.ofCode (c : BitVec 2) : Option Alloc :=
  match c.toNat with | 0 => some .default | 1 => some .evictFirst | 2 => some .noAllocate | _ => none

/-- A predicate number in bits [2:0] of a register field (R105). -/
def predField (p : PReg) : VReg := (0 : BitVec 4) ++ p
/-- A uniform register number in a register field (R64). -/
def wField (w : WReg) : VReg := (0 : BitVec 1) ++ w
/-- The source predicate of VOTE: number in [2:0], negation in [3] (spec/06_isa_float_lanes.md, R143). -/
def voteField (n : Bool) (p : PReg) : VReg := (0 : BitVec 3) ++ BitVec.ofBool n ++ p
/-- The mode of MATCH (R87). -/
def matchField (wide all : Bool) : VReg := (0 : BitVec 5) ++ BitVec.ofBool wide ++ BitVec.ofBool all
/-- The operation of REDUX and SCAN with the exclusive bit (R88). -/
def reduxField (e : Bool) (o : ReduxOp) : VReg := BitVec.ofBool e ++ (0 : BitVec 2) ++ o.code
/-- The conversion code X, RM, DST, SRC (R85). -/
def cvtCode (x : Bool) (r : RMode) (t s : BitVec 2) : VReg := BitVec.ofBool x ++ r.code ++ t ++ s
/-- A stream port number in bits [1:0] of a register field (R148, R149). -/
def portField (j : BitVec 2) : VReg := (0 : BitVec 5) ++ j
/-- CSRR and CSRW: the 14-bit index lies in the a and b fields (spec/08_isa_engines_system.md, R196). -/
def csrField (d : VReg) (i : BitVec 14) (f : BitVec 5) : FX := ⟨d, i.extractLsb' 7 7, i.extractLsb' 0 7, f⟩
def fenceField (s : Scope) (k : FenceKind) : BitVec 26 := (0 : BitVec 1) ++ s.code ++ k.code ++ (0 : BitVec 20)
def waitcField (l s c m : BitVec 4) : BitVec 26 := (1 : BitVec 1) ++ l ++ s ++ c ++ m ++ (0 : BitVec 9)
def predHint (n : Bool) (p : PReg) : BitVec 22 := (0 : BitVec 18) ++ BitVec.ofBool n ++ p
def modeHint (f s : Bool) (r : RMode) : BitVec 22 := (0 : BitVec 18) ++ BitVec.ofBool f ++ BitVec.ofBool s ++ r.code
/-- The scope override of HPOL: 0 none, 1 blk to 5 sys (R68). -/
def overrideCode : Option Scope → BitVec 3
  | none => 0 | some .blk => 1 | some .clu => 2 | some .die => 3 | some .dev => 4 | some .sys => 5
def overrideOfCode (c : BitVec 3) : Option (Option Scope) :=
  match c.toNat with
  | 0 => some none | 1 => some (some .blk) | 2 => some (some .clu) | 3 => some (some .die)
  | 4 => some (some .dev) | 5 => some (some .sys) | _ => none
def polHint (n : Bool) (s : Option Scope) (a : Alloc) : BitVec 22 :=
  (0 : BitVec 16) ++ BitVec.ofBool n ++ overrideCode s ++ a.code

/-! ### Sequencer layouts (R89) -/

def seqQB (op : BitVec 5) (q : QReg) (b : BarNo) : Word := op ++ q ++ b ++ (0 : BitVec 18)
def seqBQ (op : BitVec 5) (b : BarNo) (q : QReg) : Word := op ++ b ++ q ++ (0 : BitVec 18)
def seqB (op : BitVec 5) (b : BarNo) : Word := op ++ b ++ (0 : BitVec 23)
def seqZ (op : BitVec 5) : Word := op ++ (0 : BitVec 27)
def seqQI (op : BitVec 5) (q : QReg) (i : BitVec 22) : Word := op ++ q ++ i
def seqQQI (op : BitVec 5) (d a : QReg) (i : BitVec 17) : Word := op ++ d ++ a ++ i

/-! ### Decoding a warp word (R70, steps 1 to 3) -/

/-- Step 3 of R70: a zero field that is nonzero refuses the word. -/
def needZero {n : Nat} (z : BitVec n) (r : Decoded) : Decoded := if z = 0 then r else .error .zeroField

/-- A register field read as a uniform register (R64). -/
def needW (r : VReg) (k : WReg → Decoded) : Decoded :=
  needZero (r.extractLsb' 6 1) (k (r.extractLsb' 0 6))

/-- A register field that carries a predicate number in [2:0] and zeros above (R105). -/
def needP (r : VReg) (k : PReg → Decoded) : Decoded :=
  needZero (r.extractLsb' 3 4) (k (r.extractLsb' 0 3))

/-- A reserved code refuses the word at step 2 of R70. -/
def needSome {α : Type} (o : Option α) (k : α → Decoded) : Decoded :=
  match o with
  | some x => k x
  | none => .error .unallocated

def bad : Decoded := .error .unallocated

def decR4 (r : FR) (i0 i1 i2 i3 : PReg → VReg → VReg → VReg → Instr) : Decoded :=
  match r.f.toNat with
  | 0 => .ok (i0 r.g r.d r.a r.b)
  | 1 => .ok (i1 r.g r.d r.a r.b)
  | 2 => .ok (i2 r.g r.d r.a r.b)
  | _ => .ok (i3 r.g r.d r.a r.b)

def decIntB (r : FR) : Decoded :=
  match r.f.toNat with
  | 0 => .ok (.iminu r.g r.d r.a r.b)
  | 1 => .ok (.imaxu r.g r.d r.a r.b)
  | 2 => needZero r.b (.ok (.iabs r.g r.d r.a))
  | _ => needZero r.b (.ok (.ineg r.g r.d r.a))

def decImmOp (r : FI2) : Decoded :=
  match r.f.toNat with
  | 0 => .ok (.shli r.g r.d r.a r.i)
  | 1 => .ok (.shri r.g r.d r.a r.i)
  | 2 => .ok (.sari r.g r.d r.a r.i)
  | _ => .ok (.andi r.g r.d r.a r.i)

def decLogB (r : FR) : Decoded :=
  match r.f.toNat with
  | 0 => .ok (.orn r.g r.d r.a r.b)
  | 1 => .ok (.xnor r.g r.d r.a r.b)
  | 2 => needZero r.b (.ok (.not r.g r.d r.a))
  | _ => bad

def decBitA (r : FR) : Decoded :=
  match r.f.toNat with
  | 0 => needZero r.b (.ok (.popc r.g r.d r.a))
  | 1 => needZero r.b (.ok (.clz r.g r.d r.a))
  | 2 => needZero r.b (.ok (.ctz r.g r.d r.a))
  | _ => needZero r.b (.ok (.brev r.g r.d r.a))

def decBitB (r : FR) : Decoded :=
  match r.f.toNat with
  | 0 => .ok (.bfe r.g r.d r.a r.b)
  | 1 => .ok (.bfeu r.g r.d r.a r.b)
  | 2 => .ok (.bfi r.g r.d r.a r.b)
  | _ => bad

/-- SETP: the condition is read according to kind (R65). -/
def decSetp (r : FP) : Decoded :=
  if r.kind then needSome (FloatCond.ofCode r.c) fun c => .ok (.fsetp r.g r.p c r.a r.b r.acc)
  else needSome (IntCond.ofCode r.c) fun c => .ok (.isetp r.g r.p c r.a r.b r.acc)

/-- SETPI: kind 1 traps with sub-code 1, after a condition reserved for its kind with sub-code 0 (R65, R70). -/
def decSetpi (r : FP) : Decoded :=
  if r.kind then needSome (FloatCond.ofCode r.c) fun _ => .error .zeroField
  else needSome (IntCond.ofCode r.c) fun c => .ok (.isetpi r.g r.p c r.a r.b r.acc)

def decPred (r : FR) : Decoded :=
  needP r.d fun d => needP r.a fun a => needP r.b fun b =>
    match r.f.toNat with
    | 0 => .ok (.pand r.g d a b)
    | 1 => .ok (.por r.g d a b)
    | 2 => .ok (.pxor r.g d a b)
    | _ => needZero b (.ok (.pnot r.g d a))

def decSelMov (r : FR) : Decoded :=
  match r.f.toNat with
  | 0 => .ok (.sel r.g r.d r.a r.b)
  | 1 => needZero r.a (needZero r.b (.ok (.p2v r.g r.d)))
  | 2 => needZero r.b (.ok (.v2p r.g r.d r.a))
  | _ => needZero r.b (.ok (.mov r.g r.d r.a))

def decUnif (r : FR) : Decoded :=
  match r.f.toNat with
  | 0 => needW r.a fun a => needZero r.b (.ok (.movw r.g r.d a))
  | 1 => needW r.d fun d => needZero r.b (.ok (.wmov r.g d r.a))
  | 2 => needW r.d fun d => needW r.a fun a => needZero r.b (.ok (.wmovw r.g d a))
  | _ => needW r.d fun d => needW r.a fun a => needW r.b fun b => .ok (.wadd r.g d a b)

/-- SPEC: a special-register index outside R26 is found before a nonzero zero field (R70, R111). -/
def decSpec (r : FX) : Decoded :=
  match r.f.toNat with
  | 0 => if r.b ≠ 0 ∧ 20 ≤ r.a.toNat then bad else needZero r.b (.ok (.rds r.d r.a))
  | 1 => if r.b ≠ 0 ∧ 20 ≤ r.d.toNat then bad else needZero r.b (.ok (.wrs r.d r.a))
  | 2 => needZero r.b (.ok (.rdgt r.d r.a))
  | _ => bad

def decCtrl (r : FG) : Decoded :=
  match r.f.toNat with
  | 0 => .ok (.brx r.g r.a r.i)
  | 1 => .ok (.callx r.g r.a r.i)
  | 2 => needZero r.i (.ok (.ret r.g r.a))
  | 3 => needZero r.a (needZero r.i (.ok (.exit r.g)))
  | 4 => needZero r.a (.ok (.spt r.g r.i))
  | 5 => needZero r.a (needZero r.i (.ok (.nop r.g)))
  | 6 => needZero r.a (needZero r.i (.ok (.yield r.g)))
  | 7 => needZero r.a (.ok (.bkpt r.g r.i))
  | 8 => needZero r.a (.ok (.trap r.g r.i))
  | 9 => needZero r.a (needZero r.i (.ok (.eret r.g)))
  | _ => bad

def decMask (r : FK) : Decoded :=
  match r.f.toNat with
  | 0 => needZero r.z (needZero r.v (.ok (.join r.g r.m)))
  | 1 => needZero r.z (needZero r.v (.ok (.leave r.g r.m)))
  | 2 => needZero r.z (needZero r.v (.ok (.waitm r.g r.m)))
  | 3 => needZero r.z (.ok (.mskrd r.g r.m r.v))
  | 4 => needZero r.z (.ok (.mskwr r.g r.m r.v))
  | 5 => needZero r.z (.ok (.mskact r.g r.m r.v))
  | _ => bad

def decFpb (r : FR) : Decoded :=
  match r.f.toNat with
  | 0 => .ok (.fmin r.g r.d r.a r.b)
  | 1 => .ok (.fmax r.g r.d r.a r.b)
  | 2 => .ok (.fcpys r.g r.d r.a r.b)
  | _ => bad

def decFuna (r : FR) : Decoded :=
  if r.f ≠ 0 then bad else
  match r.b.toNat with
  | 0 => .ok (.fabs r.g r.d r.a)
  | 1 => .ok (.fneg r.g r.d r.a)
  | 2 => .ok (.frndRne r.g r.d r.a)
  | 3 => .ok (.frndRtz r.g r.d r.a)
  | 4 => .ok (.frndRdn r.g r.d r.a)
  | 5 => .ok (.frndRup r.g r.d r.a)
  | 6 => .ok (.frcp r.g r.d r.a)
  | 7 => .ok (.frsq r.g r.d r.a)
  | 8 => .ok (.fsqrt r.g r.d r.a)
  | 9 => .ok (.fex2 r.g r.d r.a)
  | 10 => .ok (.flg2 r.g r.d r.a)
  | 11 => .ok (.fsin r.g r.d r.a)
  | 12 => .ok (.fcos r.g r.d r.a)
  | 13 => .ok (.ftanh r.g r.d r.a)
  | 14 => .ok (.fsigm r.g r.d r.a)
  | _ => bad

/-- CVT: RM must be 0 when X is 0 (sub-code 1), and CVTF needs two different types (R85). -/
def decCvt (r : FR) : Decoded :=
  let x := r.b.getLsbD 6
  let rm := r.b.extractLsb' 4 2
  let t := r.b.extractLsb' 2 2
  let s := r.b.extractLsb' 0 2
  let rmOk (i : Decoded) : Decoded := if x = false ∧ rm ≠ 0 then .error .zeroField else i
  match r.f.toNat with
  | 0 => if t = s then bad
         else rmOk (.ok (.cvtf r.g r.d r.a x (RMode.ofCode rm) (FType.ofCode t) (FType.ofCode s)))
  | 1 => rmOk (.ok (.f2i r.g r.d r.a x (RMode.ofCode rm) (IType.ofCode t) (FType.ofCode s)))
  | 2 => rmOk (.ok (.i2f r.g r.d r.a x (RMode.ofCode rm) (FType.ofCode t) (IType.ofCode s)))
  | _ => bad

/-- BX: a format code of 0 in bits [1:0] is unallocated, bits [6:2] are a zero field (R86). -/
def decBx (r : FR) : Decoded :=
  needSome (BxFmt.ofCode (r.b.extractLsb' 0 2)) fun m =>
    let z := r.b.extractLsb' 2 5
    match r.f.toNat with
    | 0 => needZero z (.ok (.bxq r.g r.d r.a m))
    | 1 => needZero z (.ok (.bxd r.g r.d r.a m))
    | 2 => needZero z (.ok (.bxpk r.g r.d r.a m))
    | _ => bad

def decVote (r : FR) : Decoded :=
  let n := r.a.getLsbD 3
  let p := r.a.extractLsb' 0 3
  let z := r.a.extractLsb' 4 3
  match r.b.toNat with
  | 0 => needZero z (needP r.d fun d => .ok (.voteAll r.g d n p))
  | 1 => needZero z (needP r.d fun d => .ok (.voteAny r.g d n p))
  | 2 => needZero z (needP r.d fun d => .ok (.voteUni r.g d n p))
  | 3 => needZero z (.ok (.voteBallot r.g r.d n p))
  | _ => bad

/-- REDUX and SCAN (R88): `e` is bit 6 of b, the exclusive mode of SCAN and a zero field of REDUX. -/
def decRedux (scan : Bool) (r : FR) : Decoded :=
  let e := r.b.getLsbD 6
  needSome (ReduxOp.ofCode (r.b.extractLsb' 0 4)) fun o =>
    if scan then
      if e = true ∧ o ≠ .iadd ∧ o ≠ .fadd then bad
      else needZero (r.b.extractLsb' 4 2) (.ok (.scan r.g r.d r.a e o))
    else needZero (r.b.extractLsb' 4 3) (.ok (.redux r.g r.d r.a o))

def decLaneB (r : FR) : Decoded :=
  match r.f.toNat with
  | 0 => decVote r
  | 1 => if r.b.extractLsb' 2 5 ≠ 0 then bad
         else if r.b.getLsbD 0 then .ok (.matchAll r.g r.d r.a (r.b.getLsbD 1))
         else .ok (.matchAny r.g r.d r.a (r.b.getLsbD 1))
  | 2 => decRedux false r
  | _ => decRedux true r

def decStrm (r : FX) : Decoded :=
  match r.f.toNat with
  | 0 => needZero (r.d.extractLsb' 2 5) (needZero r.b (.ok (.strb (r.d.extractLsb' 0 2) r.a)))
  | 1 => needZero (r.d.extractLsb' 2 5) (needZero r.a (needZero r.b (.ok (.stru (r.d.extractLsb' 0 2)))))
  | 2 => needZero (r.a.extractLsb' 2 5) (needZero r.b (.ok (.strp r.d (r.a.extractLsb' 0 2))))
  | 3 => needZero (r.d.extractLsb' 2 5) (needZero r.b (.ok (.strs (r.d.extractLsb' 0 2) r.a)))
  | _ => bad

/-- PDSC: the subop lies in d (R80); PREF.str is reserved (spec/07_isa_memory_sync.md, R159). -/
def decPdsc (r : FM) : Decoded :=
  match r.d.toNat with
  | 0 => if Pol.ofCode r.p = .str then bad else .ok (.pref r.g r.b r.s (Pol.ofCode r.p) r.o)
  | 1 => .ok (.disc r.g r.b r.s (Pol.ofCode r.p) r.o)
  | _ => bad

def decAtomC (r : FC) : Decoded :=
  match r.f.toNat with
  | 0 => .ok (.casc r.g r.d r.a r.c)
  | 1 => .ok (.incc r.g r.d r.a r.c)
  | 2 => .ok (.minc r.g r.d r.a r.c)
  | _ => bad

def decRwl (r : FC) : Decoded :=
  match r.f.toNat with
  | 0 => needZero r.d (needZero r.a (.ok (.rlock r.g r.c)))
  | 1 => needZero r.d (needZero r.a (.ok (.wlock r.g r.c)))
  | 2 => needZero r.d (needZero r.a (.ok (.runlk r.g r.c)))
  | 3 => needZero r.d (needZero r.a (.ok (.wunlk r.g r.c)))
  | 4 => needZero r.a (.ok (.rtry r.g r.d r.c))
  | 5 => needZero r.a (.ok (.wtry r.g r.d r.c))
  | _ => bad

def decOrder (x : BitVec 26) : Decoded :=
  if x.getLsbD 25 then
    needZero (x.extractLsb' 0 9)
      (.ok (.waitc (x.extractLsb' 21 4) (x.extractLsb' 17 4) (x.extractLsb' 13 4) (x.extractLsb' 9 4)))
  else
    needSome (Scope.ofCode (x.extractLsb' 22 3)) fun s =>
      needSome (FenceKind.ofCode (x.extractLsb' 20 2)) fun k =>
        needZero (x.extractLsb' 0 20) (.ok (.fence s k))

def decBar (r : FC) : Decoded :=
  match r.f.toNat with
  | 0 => .ok (.bara r.g r.d r.a r.c)
  | 1 => .ok (.barw r.g r.d r.a r.c)
  | 2 => .ok (.baraw r.g r.d r.a r.c)
  | 3 => .ok (.barst r.g r.d r.a r.c)
  | 4 => .ok (.barx r.g r.d r.a r.c)
  | 5 => .ok (.barxw r.g r.d r.a r.c)
  | _ => bad

def decQueue (r : FC) : Decoded :=
  match r.f.toNat with
  | 0 => .ok (.enq r.g r.d r.a r.c)
  | 1 => needZero r.a (.ok (.deq r.g r.d r.c))
  | 2 => .ok (.enqt r.g r.d r.a r.c)
  | 3 => .ok (.deqt r.g r.d r.a r.c)
  | 4 => needZero r.a (.ok (.qlen r.g r.d r.c))
  | _ => bad

def decCopy (r : FC) : Decoded :=
  match r.f.toNat with
  | 0 => .ok (.cpy r.g r.d r.a r.c)
  | 1 => .ok (.cpyt r.g r.d r.a r.c)
  | 2 => .ok (.cpyim r.g r.d r.a r.c)
  | 3 => .ok (.cpyg r.g r.d r.a r.c)
  | 4 => .ok (.ctok r.g r.d r.a r.c)
  | 5 => .ok (.csleep r.g r.d r.a r.c)
  | _ => bad

def decTask (r : FC) : Decoded :=
  match r.f.toNat with
  | 0 => .ok (.card r.g r.d r.a r.c)
  | 1 => needZero r.a (.ok (.deal r.g r.d r.c))
  | 2 => needZero r.d (.ok (.reord r.g r.a r.c))
  | _ => bad

def decSeqCtl (r : FC) : Decoded :=
  match r.f.toNat with
  | 0 => needZero r.c (.ok (.sqrun r.g r.d r.a))
  | 1 => needZero r.a (needZero r.c (.ok (.sqst r.g r.d)))
  | 2 => needZero r.a (needZero r.c (.ok (.sqstop r.g r.d)))
  | _ => bad

def decSys (r : FX) : Decoded :=
  match r.f.toNat with
  | 0 => .ok (.csrr r.d (r.a ++ r.b))
  | 1 => .ok (.csrw r.d (r.a ++ r.b))
  | 2 => .ok (.rdwr r.d r.a r.b)
  | 3 => .ok (.wrwr r.d r.a r.b)
  | 4 => needZero r.d (needZero r.b (.ok (.haltw r.a)))
  | 5 => needZero r.d (.ok (.resw r.a r.b))
  | 6 => .ok (.step r.d r.a r.b)
  | 7 => needZero r.d (.ok (.tlbinv r.a r.b))
  | 8 => needZero r.b (.ok (.qsc r.d r.a))
  | 9 => needZero r.d (.ok (.capw r.a r.b))
  | 10 => .ok (.grpw r.d r.a r.b)
  | _ => bad

/-- A payload bit R68 marks zero, or a value it never accepts, is a hint misuse (R69). -/
def hintZero {n : Nat} (z : BitVec n) (r : Decoded) : Decoded := if z = 0 then r else .error .hintMisuse

def decHint (r : FH) : Decoded :=
  match r.k.toNat with
  | 0 => .ok (.himm r.p)
  | 1 => hintZero (r.p.extractLsb' 4 18) (.ok (.hgrd (r.p.getLsbD 3) (r.p.extractLsb' 0 3)))
  | 2 => hintZero (r.p.extractLsb' 4 18)
           (.ok (.hfmd (r.p.getLsbD 3) (r.p.getLsbD 2) (RMode.ofCode (r.p.extractLsb' 0 2))))
  | 3 => hintZero (r.p.extractLsb' 6 16)
           (match overrideOfCode (r.p.extractLsb' 2 3), Alloc.ofCode (r.p.extractLsb' 0 2) with
            | some s, some a => .ok (.hpol (r.p.getLsbD 5) s a)
            | _, _ => .error .hintMisuse)
  | 4 => .ok (.hsch r.p)
  | 5 => hintZero (r.p.extractLsb' 4 18) (.ok (.hprd (r.p.getLsbD 3) (r.p.extractLsb' 0 3)))
  | _ => .error .hintMisuse

/-- The warp instruction a word is (R80), or the failing step of R70. -/
def decode (w : Word) : Decoded :=
  match (majorOf w).toNat with
  | 0x01 => decR4 (FR.unpack w) .iadd .isub .imin .imax
  | 0x02 => decIntB (FR.unpack w)
  | 0x03 => decR4 (FR.unpack w) .imul .imulh .imulhu .imad
  | 0x04 => decR4 (FR.unpack w) .imadw .imadwu .idiv .idivu
  | 0x05 => decR4 (FR.unpack w) .irem .iremu .iadd64 .isub64
  | 0x06 => decR4 (FR.unpack w) .shl .shr .sar .rotl
  | 0x07 => decImmOp (FI2.unpack w)
  | 0x08 => decR4 (FR.unpack w) .and .or .xor .andn
  | 0x09 => decLogB (FR.unpack w)
  | 0x0A => decBitA (FR.unpack w)
  | 0x0B => decBitB (FR.unpack w)
  | 0x0C => let r := FI.unpack w; .ok (.iaddi r.g r.d r.a r.i)
  | 0x0D => decSetp (FP.unpack w)
  | 0x0E => decSetpi (FP.unpack w)
  | 0x0F => decPred (FR.unpack w)
  | 0x10 => decSelMov (FR.unpack w)
  | 0x11 => decUnif (FR.unpack w)
  | 0x12 => let r := FL.unpack w; .ok (.movi r.g r.d r.i)
  | 0x13 => let r := FR.unpack w; .ok (.lea r.g r.d r.a r.b r.f)
  | 0x14 => decSpec (FX.unpack w)
  | 0x15 => let r := FB.unpack w; .ok (.bra r.g r.o)
  | 0x16 => let r := FB.unpack w; .ok (.call r.g r.o)
  | 0x17 => decCtrl (FG.unpack w)
  | 0x18 => decMask (FK.unpack w)
  | 0x19 => decR4 (FR.unpack w) .fadd .fsub .fmul .ffma
  | 0x1A => decFpb (FR.unpack w)
  | 0x1B => decFuna (FR.unpack w)
  | 0x1C => decR4 (FR.unpack w) .dadd .dsub .dmul .dfma
  | 0x1D => decR4 (FR.unpack w) .badd2 .bmul2 .bfma2 .bmax2
  | 0x1E => decR4 (FR.unpack w) .hadd2 .hmul2 .hfma2 .hmax2
  | 0x1F => decCvt (FR.unpack w)
  | 0x20 => decBx (FR.unpack w)
  | 0x21 => decR4 (FR.unpack w) .shfli .shflu .shfld .shflx
  | 0x22 => decLaneB (FR.unpack w)
  | 0x23 => decStrm (FX.unpack w)
  | 0x24 => let r := FM.unpack w; .ok (.ld r.g r.d r.b (Size.ofCode r.s) (Pol.ofCode r.p) r.o)
  | 0x25 => let r := FM.unpack w; .ok (.st r.g r.d r.b (Size.ofCode r.s) (Pol.ofCode r.p) r.o)
  | 0x26 => let r := FM.unpack w
            needSome (LdlMode.ofCode r.p) fun p => .ok (.ldl r.g r.d r.b (Size.ofCode r.s) p r.o)
  | 0x27 => let r := FM.unpack w
            needSome (StlMode.ofCode r.p) fun p => .ok (.stl r.g r.d r.b (Size.ofCode r.s) p r.o)
  | 0x28 => let r := FM.unpack w; .ok (.lda r.g r.d r.b (Size.ofCode r.s) (AcqScope.ofCode r.p) r.o)
  | 0x29 => let r := FM.unpack w; .ok (.strl r.g r.d r.b (Size.ofCode r.s) (AcqScope.ofCode r.p) r.o)
  | 0x2A => decPdsc (FM.unpack w)
  | 0x2B => decR4 (FR.unpack w) .aaddNear .aminNear .amaxNear .aexchNear
  | 0x2C => decR4 (FR.unpack w) .aadd .amin .amax .aexch
  | 0x2D => decR4 (FR.unpack w) .aand .aor .axor .ainc
  | 0x2E => decR4 (FR.unpack w) .cas .cash .cash64 .cas128
  | 0x2F => decR4 (FR.unpack w) .faadd .famin .famax .bfaadd2
  | 0x30 => decAtomC (FC.unpack w)
  | 0x31 => decRwl (FC.unpack w)
  | 0x32 => decOrder (FW.unpack w)
  | 0x33 => let r := FWF.unpack w; .ok (.waitf r.g r.a r.b r.c r.np (WaitCond.ofCode r.k))
  | 0x34 => let r := FWF.unpack w; .ok (.poll r.g r.a r.b r.c r.np (WaitCond.ofCode r.k))
  | 0x35 => decBar (FC.unpack w)
  | 0x36 => decQueue (FC.unpack w)
  | 0x37 => decCopy (FC.unpack w)
  | 0x38 => decTask (FC.unpack w)
  | 0x39 => decSeqCtl (FC.unpack w)
  | 0x3A => decSys (FX.unpack w)
  | 0x3F => decHint (FH.unpack w)
  | _ => bad

/-! ### Decoding a sequencer word (R89, R90) -/

def seqOp (w : Word) : BitVec 5 := w.extractLsb' 27 5

/-- The sequencer instruction a word is; `none` where R90 stops the sequencer with SEQ. -/
def decodeSeq (w : Word) : Option Instr :=
  let q := w.extractLsb' 22 5
  let b18 := w.extractLsb' 18 4
  let b23 := w.extractLsb' 23 4
  let zero (z : Bool) (i : Instr) : Option Instr := if z then some i else none
  let z18 := (w.extractLsb' 0 18 : BitVec 18) == 0
  let z23 := (w.extractLsb' 0 23 : BitVec 23) == 0
  let z27 := (w.extractLsb' 0 27 : BitVec 27) == 0
  match (seqOp w).toNat with
  | 0 => zero z18 (.mxlds q b18)
  | 1 => zero z27 .mxswp
  | 2 => zero z18 (.mxstr q b18)
  | 3 => zero z18 (.mxspr q b18)
  | 4 => zero z18 (.mxdrn q b18)
  | 5 => zero z27 .mxz
  | 6 => zero z18 (.mxck b23 (w.extractLsb' 18 5))
  | 7 => some (.qmovi q (w.extractLsb' 0 22))
  | 8 => some (.qadd q (w.extractLsb' 17 5) (w.extractLsb' 0 17))
  | 9 => some (.qloop q (w.extractLsb' 0 22))
  | 10 => zero z23 (.qbar b23)
  | 11 => zero z23 (.qwait b23)
  | 12 => zero z27 .qend
  | _ => none

/-- The instruction of an opcode-table word: a warp word where it decodes as one, else a sequencer word (the two
instruction spaces overlap, R89; log 13). -/
def decodeTableWord (nbits w : Nat) : Option Instr :=
  if nbits ≤ 32 then
    match decode (BitVec.ofNat 32 w) with
    | .ok i => some i
    | .error _ => decodeSeq (BitVec.ofNat 32 w)
  else none

/-! ### Encoding -/

/-- The word of an instruction, from the encoding tables of R62, R63, R80 and R89; an event has none. -/
def encode : Instr → Option Word
  | .iadd g d a b => some (FR.pack 0x01 ⟨g, d, a, b, 0⟩)
  | .isub g d a b => some (FR.pack 0x01 ⟨g, d, a, b, 1⟩)
  | .imin g d a b => some (FR.pack 0x01 ⟨g, d, a, b, 2⟩)
  | .imax g d a b => some (FR.pack 0x01 ⟨g, d, a, b, 3⟩)
  | .iminu g d a b => some (FR.pack 0x02 ⟨g, d, a, b, 0⟩)
  | .imaxu g d a b => some (FR.pack 0x02 ⟨g, d, a, b, 1⟩)
  | .iabs g d a => some (FR.pack 0x02 ⟨g, d, a, 0, 2⟩)
  | .ineg g d a => some (FR.pack 0x02 ⟨g, d, a, 0, 3⟩)
  | .imul g d a b => some (FR.pack 0x03 ⟨g, d, a, b, 0⟩)
  | .imulh g d a b => some (FR.pack 0x03 ⟨g, d, a, b, 1⟩)
  | .imulhu g d a b => some (FR.pack 0x03 ⟨g, d, a, b, 2⟩)
  | .imad g d a b => some (FR.pack 0x03 ⟨g, d, a, b, 3⟩)
  | .imadw g d a b => some (FR.pack 0x04 ⟨g, d, a, b, 0⟩)
  | .imadwu g d a b => some (FR.pack 0x04 ⟨g, d, a, b, 1⟩)
  | .idiv g d a b => some (FR.pack 0x04 ⟨g, d, a, b, 2⟩)
  | .idivu g d a b => some (FR.pack 0x04 ⟨g, d, a, b, 3⟩)
  | .irem g d a b => some (FR.pack 0x05 ⟨g, d, a, b, 0⟩)
  | .iremu g d a b => some (FR.pack 0x05 ⟨g, d, a, b, 1⟩)
  | .iadd64 g d a b => some (FR.pack 0x05 ⟨g, d, a, b, 2⟩)
  | .isub64 g d a b => some (FR.pack 0x05 ⟨g, d, a, b, 3⟩)
  | .shl g d a b => some (FR.pack 0x06 ⟨g, d, a, b, 0⟩)
  | .shr g d a b => some (FR.pack 0x06 ⟨g, d, a, b, 1⟩)
  | .sar g d a b => some (FR.pack 0x06 ⟨g, d, a, b, 2⟩)
  | .rotl g d a b => some (FR.pack 0x06 ⟨g, d, a, b, 3⟩)
  | .shli g d a i => some (FI2.pack 0x07 ⟨g, d, a, 0, i⟩)
  | .shri g d a i => some (FI2.pack 0x07 ⟨g, d, a, 1, i⟩)
  | .sari g d a i => some (FI2.pack 0x07 ⟨g, d, a, 2, i⟩)
  | .andi g d a i => some (FI2.pack 0x07 ⟨g, d, a, 3, i⟩)
  | .and g d a b => some (FR.pack 0x08 ⟨g, d, a, b, 0⟩)
  | .or g d a b => some (FR.pack 0x08 ⟨g, d, a, b, 1⟩)
  | .xor g d a b => some (FR.pack 0x08 ⟨g, d, a, b, 2⟩)
  | .andn g d a b => some (FR.pack 0x08 ⟨g, d, a, b, 3⟩)
  | .orn g d a b => some (FR.pack 0x09 ⟨g, d, a, b, 0⟩)
  | .xnor g d a b => some (FR.pack 0x09 ⟨g, d, a, b, 1⟩)
  | .not g d a => some (FR.pack 0x09 ⟨g, d, a, 0, 2⟩)
  | .popc g d a => some (FR.pack 0x0A ⟨g, d, a, 0, 0⟩)
  | .clz g d a => some (FR.pack 0x0A ⟨g, d, a, 0, 1⟩)
  | .ctz g d a => some (FR.pack 0x0A ⟨g, d, a, 0, 2⟩)
  | .brev g d a => some (FR.pack 0x0A ⟨g, d, a, 0, 3⟩)
  | .bfe g d a b => some (FR.pack 0x0B ⟨g, d, a, b, 0⟩)
  | .bfeu g d a b => some (FR.pack 0x0B ⟨g, d, a, b, 1⟩)
  | .bfi g d a b => some (FR.pack 0x0B ⟨g, d, a, b, 2⟩)
  | .iaddi g d a i => some (FI.pack 0x0C ⟨g, d, a, i⟩)
  | .isetp g p c a b acc => some (FP.pack 0x0D ⟨g, p, c.code, a, b, false, acc⟩)
  | .fsetp g p c a b acc => some (FP.pack 0x0D ⟨g, p, c.code, a, b, true, acc⟩)
  | .isetpi g p c a i acc => some (FP.pack 0x0E ⟨g, p, c.code, a, i, false, acc⟩)
  | .pand g d a b => some (FR.pack 0x0F ⟨g, predField d, predField a, predField b, 0⟩)
  | .por g d a b => some (FR.pack 0x0F ⟨g, predField d, predField a, predField b, 1⟩)
  | .pxor g d a b => some (FR.pack 0x0F ⟨g, predField d, predField a, predField b, 2⟩)
  | .pnot g d a => some (FR.pack 0x0F ⟨g, predField d, predField a, 0, 3⟩)
  | .sel g d a b => some (FR.pack 0x10 ⟨g, d, a, b, 0⟩)
  | .p2v g d => some (FR.pack 0x10 ⟨g, d, 0, 0, 1⟩)
  | .v2p g m a => some (FR.pack 0x10 ⟨g, m, a, 0, 2⟩)
  | .mov g d a => some (FR.pack 0x10 ⟨g, d, a, 0, 3⟩)
  | .movw g d a => some (FR.pack 0x11 ⟨g, d, wField a, 0, 0⟩)
  | .wmov g d a => some (FR.pack 0x11 ⟨g, wField d, a, 0, 1⟩)
  | .wmovw g d a => some (FR.pack 0x11 ⟨g, wField d, wField a, 0, 2⟩)
  | .wadd g d a b => some (FR.pack 0x11 ⟨g, wField d, wField a, wField b, 3⟩)
  | .movi g d i => some (FL.pack 0x12 ⟨g, d, i⟩)
  | .lea g d a b s => some (FR.pack 0x13 ⟨g, d, a, b, s⟩)
  | .rds d a => some (FX.pack 0x14 ⟨d, a, 0, 0⟩)
  | .wrs d a => some (FX.pack 0x14 ⟨d, a, 0, 1⟩)
  | .rdgt d a => some (FX.pack 0x14 ⟨d, a, 0, 2⟩)
  | .bra g o => some (FB.pack 0x15 ⟨g, o⟩)
  | .call g o => some (FB.pack 0x16 ⟨g, o⟩)
  | .brx g a i => some (FG.pack 0x17 ⟨g, 0, a, i⟩)
  | .callx g a i => some (FG.pack 0x17 ⟨g, 1, a, i⟩)
  | .ret g a => some (FG.pack 0x17 ⟨g, 2, a, 0⟩)
  | .exit g => some (FG.pack 0x17 ⟨g, 3, 0, 0⟩)
  | .spt g i => some (FG.pack 0x17 ⟨g, 4, 0, i⟩)
  | .nop g => some (FG.pack 0x17 ⟨g, 5, 0, 0⟩)
  | .yield g => some (FG.pack 0x17 ⟨g, 6, 0, 0⟩)
  | .bkpt g i => some (FG.pack 0x17 ⟨g, 7, 0, i⟩)
  | .trap g i => some (FG.pack 0x17 ⟨g, 8, 0, i⟩)
  | .eret g => some (FG.pack 0x17 ⟨g, 9, 0, 0⟩)
  | .join g m => some (FK.pack 0x18 ⟨g, m, 0, 0, 0⟩)
  | .leave g m => some (FK.pack 0x18 ⟨g, m, 1, 0, 0⟩)
  | .waitm g m => some (FK.pack 0x18 ⟨g, m, 2, 0, 0⟩)
  | .mskrd g m v => some (FK.pack 0x18 ⟨g, m, 3, v, 0⟩)
  | .mskwr g m v => some (FK.pack 0x18 ⟨g, m, 4, v, 0⟩)
  | .mskact g m v => some (FK.pack 0x18 ⟨g, m, 5, v, 0⟩)
  | .fadd g d a b => some (FR.pack 0x19 ⟨g, d, a, b, 0⟩)
  | .fsub g d a b => some (FR.pack 0x19 ⟨g, d, a, b, 1⟩)
  | .fmul g d a b => some (FR.pack 0x19 ⟨g, d, a, b, 2⟩)
  | .ffma g d a b => some (FR.pack 0x19 ⟨g, d, a, b, 3⟩)
  | .fmin g d a b => some (FR.pack 0x1A ⟨g, d, a, b, 0⟩)
  | .fmax g d a b => some (FR.pack 0x1A ⟨g, d, a, b, 1⟩)
  | .fcpys g d a b => some (FR.pack 0x1A ⟨g, d, a, b, 2⟩)
  | .fabs g d a => some (FR.pack 0x1B ⟨g, d, a, 0, 0⟩)
  | .fneg g d a => some (FR.pack 0x1B ⟨g, d, a, 1, 0⟩)
  | .frndRne g d a => some (FR.pack 0x1B ⟨g, d, a, 2, 0⟩)
  | .frndRtz g d a => some (FR.pack 0x1B ⟨g, d, a, 3, 0⟩)
  | .frndRdn g d a => some (FR.pack 0x1B ⟨g, d, a, 4, 0⟩)
  | .frndRup g d a => some (FR.pack 0x1B ⟨g, d, a, 5, 0⟩)
  | .frcp g d a => some (FR.pack 0x1B ⟨g, d, a, 6, 0⟩)
  | .frsq g d a => some (FR.pack 0x1B ⟨g, d, a, 7, 0⟩)
  | .fsqrt g d a => some (FR.pack 0x1B ⟨g, d, a, 8, 0⟩)
  | .fex2 g d a => some (FR.pack 0x1B ⟨g, d, a, 9, 0⟩)
  | .flg2 g d a => some (FR.pack 0x1B ⟨g, d, a, 10, 0⟩)
  | .fsin g d a => some (FR.pack 0x1B ⟨g, d, a, 11, 0⟩)
  | .fcos g d a => some (FR.pack 0x1B ⟨g, d, a, 12, 0⟩)
  | .ftanh g d a => some (FR.pack 0x1B ⟨g, d, a, 13, 0⟩)
  | .fsigm g d a => some (FR.pack 0x1B ⟨g, d, a, 14, 0⟩)
  | .dadd g d a b => some (FR.pack 0x1C ⟨g, d, a, b, 0⟩)
  | .dsub g d a b => some (FR.pack 0x1C ⟨g, d, a, b, 1⟩)
  | .dmul g d a b => some (FR.pack 0x1C ⟨g, d, a, b, 2⟩)
  | .dfma g d a b => some (FR.pack 0x1C ⟨g, d, a, b, 3⟩)
  | .badd2 g d a b => some (FR.pack 0x1D ⟨g, d, a, b, 0⟩)
  | .bmul2 g d a b => some (FR.pack 0x1D ⟨g, d, a, b, 1⟩)
  | .bfma2 g d a b => some (FR.pack 0x1D ⟨g, d, a, b, 2⟩)
  | .bmax2 g d a b => some (FR.pack 0x1D ⟨g, d, a, b, 3⟩)
  | .hadd2 g d a b => some (FR.pack 0x1E ⟨g, d, a, b, 0⟩)
  | .hmul2 g d a b => some (FR.pack 0x1E ⟨g, d, a, b, 1⟩)
  | .hfma2 g d a b => some (FR.pack 0x1E ⟨g, d, a, b, 2⟩)
  | .hmax2 g d a b => some (FR.pack 0x1E ⟨g, d, a, b, 3⟩)
  | .cvtf g d a x r t s => some (FR.pack 0x1F ⟨g, d, a, cvtCode x r t.code s.code, 0⟩)
  | .f2i g d a x r t s => some (FR.pack 0x1F ⟨g, d, a, cvtCode x r t.code s.code, 1⟩)
  | .i2f g d a x r t s => some (FR.pack 0x1F ⟨g, d, a, cvtCode x r t.code s.code, 2⟩)
  | .bxq g d a m => some (FR.pack 0x20 ⟨g, d, a, m.code, 0⟩)
  | .bxd g d a m => some (FR.pack 0x20 ⟨g, d, a, m.code, 1⟩)
  | .bxpk g d a m => some (FR.pack 0x20 ⟨g, d, a, m.code, 2⟩)
  | .shfli g d a b => some (FR.pack 0x21 ⟨g, d, a, b, 0⟩)
  | .shflu g d a b => some (FR.pack 0x21 ⟨g, d, a, b, 1⟩)
  | .shfld g d a b => some (FR.pack 0x21 ⟨g, d, a, b, 2⟩)
  | .shflx g d a b => some (FR.pack 0x21 ⟨g, d, a, b, 3⟩)
  | .voteAll g d n a => some (FR.pack 0x22 ⟨g, predField d, voteField n a, 0, 0⟩)
  | .voteAny g d n a => some (FR.pack 0x22 ⟨g, predField d, voteField n a, 1, 0⟩)
  | .voteUni g d n a => some (FR.pack 0x22 ⟨g, predField d, voteField n a, 2, 0⟩)
  | .voteBallot g d n a => some (FR.pack 0x22 ⟨g, d, voteField n a, 3, 0⟩)
  | .matchAny g d a wide => some (FR.pack 0x22 ⟨g, d, a, matchField wide false, 1⟩)
  | .matchAll g d a wide => some (FR.pack 0x22 ⟨g, d, a, matchField wide true, 1⟩)
  | .redux g d a o => some (FR.pack 0x22 ⟨g, d, a, reduxField false o, 2⟩)
  | .scan g d a e o => some (FR.pack 0x22 ⟨g, d, a, reduxField e o, 3⟩)
  | .strb j a => some (FX.pack 0x23 ⟨portField j, a, 0, 0⟩)
  | .stru j => some (FX.pack 0x23 ⟨portField j, 0, 0, 1⟩)
  | .strp d j => some (FX.pack 0x23 ⟨d, portField j, 0, 2⟩)
  | .strs j a => some (FX.pack 0x23 ⟨portField j, a, 0, 3⟩)
  | .ld g d b s p o => some (FM.pack 0x24 ⟨g, d, b, s.code, p.code, o⟩)
  | .st g d b s p o => some (FM.pack 0x25 ⟨g, d, b, s.code, p.code, o⟩)
  | .ldl g d b s p o => some (FM.pack 0x26 ⟨g, d, b, s.code, p.code, o⟩)
  | .stl g d b s p o => some (FM.pack 0x27 ⟨g, d, b, s.code, p.code, o⟩)
  | .lda g d b s p o => some (FM.pack 0x28 ⟨g, d, b, s.code, p.code, o⟩)
  | .strl g d b s p o => some (FM.pack 0x29 ⟨g, d, b, s.code, p.code, o⟩)
  | .pref g b e p o => some (FM.pack 0x2A ⟨g, 0, b, e, p.code, o⟩)
  | .disc g b e p o => some (FM.pack 0x2A ⟨g, 1, b, e, p.code, o⟩)
  | .aaddNear g d a b => some (FR.pack 0x2B ⟨g, d, a, b, 0⟩)
  | .aminNear g d a b => some (FR.pack 0x2B ⟨g, d, a, b, 1⟩)
  | .amaxNear g d a b => some (FR.pack 0x2B ⟨g, d, a, b, 2⟩)
  | .aexchNear g d a b => some (FR.pack 0x2B ⟨g, d, a, b, 3⟩)
  | .aadd g d a b => some (FR.pack 0x2C ⟨g, d, a, b, 0⟩)
  | .amin g d a b => some (FR.pack 0x2C ⟨g, d, a, b, 1⟩)
  | .amax g d a b => some (FR.pack 0x2C ⟨g, d, a, b, 2⟩)
  | .aexch g d a b => some (FR.pack 0x2C ⟨g, d, a, b, 3⟩)
  | .aand g d a b => some (FR.pack 0x2D ⟨g, d, a, b, 0⟩)
  | .aor g d a b => some (FR.pack 0x2D ⟨g, d, a, b, 1⟩)
  | .axor g d a b => some (FR.pack 0x2D ⟨g, d, a, b, 2⟩)
  | .ainc g d a b => some (FR.pack 0x2D ⟨g, d, a, b, 3⟩)
  | .cas g d a b => some (FR.pack 0x2E ⟨g, d, a, b, 0⟩)
  | .cash g d a b => some (FR.pack 0x2E ⟨g, d, a, b, 1⟩)
  | .cash64 g d a b => some (FR.pack 0x2E ⟨g, d, a, b, 2⟩)
  | .cas128 g d a b => some (FR.pack 0x2E ⟨g, d, a, b, 3⟩)
  | .faadd g d a b => some (FR.pack 0x2F ⟨g, d, a, b, 0⟩)
  | .famin g d a b => some (FR.pack 0x2F ⟨g, d, a, b, 1⟩)
  | .famax g d a b => some (FR.pack 0x2F ⟨g, d, a, b, 2⟩)
  | .bfaadd2 g d a b => some (FR.pack 0x2F ⟨g, d, a, b, 3⟩)
  | .casc g a b c => some (FC.pack 0x30 ⟨g, a, b, c, 0⟩)
  | .incc g a b c => some (FC.pack 0x30 ⟨g, a, b, c, 1⟩)
  | .minc g a b c => some (FC.pack 0x30 ⟨g, a, b, c, 2⟩)
  | .rlock g c => some (FC.pack 0x31 ⟨g, 0, 0, c, 0⟩)
  | .wlock g c => some (FC.pack 0x31 ⟨g, 0, 0, c, 1⟩)
  | .runlk g c => some (FC.pack 0x31 ⟨g, 0, 0, c, 2⟩)
  | .wunlk g c => some (FC.pack 0x31 ⟨g, 0, 0, c, 3⟩)
  | .rtry g d c => some (FC.pack 0x31 ⟨g, d, 0, c, 4⟩)
  | .wtry g d c => some (FC.pack 0x31 ⟨g, d, 0, c, 5⟩)
  | .fence s k => some (FW.pack (fenceField s k))
  | .waitc l s c m => some (FW.pack (waitcField l s c m))
  | .waitf g a b c np k => some (FWF.pack 0x33 ⟨g, a, b, c, np, k.code⟩)
  | .poll g a b c np k => some (FWF.pack 0x34 ⟨g, a, b, c, np, k.code⟩)
  | .bara g d a c => some (FC.pack 0x35 ⟨g, d, a, c, 0⟩)
  | .barw g d a c => some (FC.pack 0x35 ⟨g, d, a, c, 1⟩)
  | .baraw g d a c => some (FC.pack 0x35 ⟨g, d, a, c, 2⟩)
  | .barst g d a c => some (FC.pack 0x35 ⟨g, d, a, c, 3⟩)
  | .barx g d a c => some (FC.pack 0x35 ⟨g, d, a, c, 4⟩)
  | .barxw g d a c => some (FC.pack 0x35 ⟨g, d, a, c, 5⟩)
  | .enq g d a c => some (FC.pack 0x36 ⟨g, d, a, c, 0⟩)
  | .deq g d c => some (FC.pack 0x36 ⟨g, d, 0, c, 1⟩)
  | .enqt g d a c => some (FC.pack 0x36 ⟨g, d, a, c, 2⟩)
  | .deqt g d a c => some (FC.pack 0x36 ⟨g, d, a, c, 3⟩)
  | .qlen g d c => some (FC.pack 0x36 ⟨g, d, 0, c, 4⟩)
  | .cpy g d a c => some (FC.pack 0x37 ⟨g, d, a, c, 0⟩)
  | .cpyt g d a c => some (FC.pack 0x37 ⟨g, d, a, c, 1⟩)
  | .cpyim g d a c => some (FC.pack 0x37 ⟨g, d, a, c, 2⟩)
  | .cpyg g d a c => some (FC.pack 0x37 ⟨g, d, a, c, 3⟩)
  | .ctok g d a c => some (FC.pack 0x37 ⟨g, d, a, c, 4⟩)
  | .csleep g d a c => some (FC.pack 0x37 ⟨g, d, a, c, 5⟩)
  | .card g d a c => some (FC.pack 0x38 ⟨g, d, a, c, 0⟩)
  | .deal g d c => some (FC.pack 0x38 ⟨g, d, 0, c, 1⟩)
  | .reord g a c => some (FC.pack 0x38 ⟨g, 0, a, c, 2⟩)
  | .sqrun g d a => some (FC.pack 0x39 ⟨g, d, a, 0, 0⟩)
  | .sqst g d => some (FC.pack 0x39 ⟨g, d, 0, 0, 1⟩)
  | .sqstop g d => some (FC.pack 0x39 ⟨g, d, 0, 0, 2⟩)
  | .csrr d i => some (FX.pack 0x3A (csrField d i 0))
  | .csrw d i => some (FX.pack 0x3A (csrField d i 1))
  | .rdwr d a b => some (FX.pack 0x3A ⟨d, a, b, 2⟩)
  | .wrwr d a b => some (FX.pack 0x3A ⟨d, a, b, 3⟩)
  | .haltw a => some (FX.pack 0x3A ⟨0, a, 0, 4⟩)
  | .resw a b => some (FX.pack 0x3A ⟨0, a, b, 5⟩)
  | .step d a b => some (FX.pack 0x3A ⟨d, a, b, 6⟩)
  | .tlbinv a b => some (FX.pack 0x3A ⟨0, a, b, 7⟩)
  | .qsc d a => some (FX.pack 0x3A ⟨d, a, 0, 8⟩)
  | .capw a b => some (FX.pack 0x3A ⟨0, a, b, 9⟩)
  | .grpw d a b => some (FX.pack 0x3A ⟨d, a, b, 10⟩)
  | .himm p => some (FH.pack ⟨0, p⟩)
  | .hgrd n p => some (FH.pack ⟨1, predHint n p⟩)
  | .hfmd f s r => some (FH.pack ⟨2, modeHint f s r⟩)
  | .hpol n s a => some (FH.pack ⟨3, polHint n s a⟩)
  | .hsch p => some (FH.pack ⟨4, p⟩)
  | .hprd n p => some (FH.pack ⟨5, predHint n p⟩)
  | .mxlds q b => some (seqQB 0 q b)
  | .mxstr q b => some (seqQB 2 q b)
  | .mxspr q b => some (seqQB 3 q b)
  | .mxdrn q b => some (seqQB 4 q b)
  | .mxswp => some (seqZ 1)
  | .mxz => some (seqZ 5)
  | .qend => some (seqZ 12)
  | .mxck b d => some (seqBQ 6 b d)
  | .qmovi d i => some (seqQI 7 d i)
  | .qadd d a i => some (seqQQI 8 d a i)
  | .qloop c o => some (seqQI 9 c o)
  | .qbar b => some (seqB 10 b)
  | .qwait b => some (seqB 11 b)
  | .illegalWord _ => none
  | .seqWordUnallocated _ => none
  | .moduleReset => none
  | .firmwareVerify _ _ => none
  | .lqBell _ _ => none
  | .launchReady _ => none
  | .dispatch _ => none
  | .stopDeadline _ => none
  | .evictionSaveComplete _ => none
  | .warpSlotRelease _ _ => none
  | .orderedAtomicApply _ => none
  | .launchEnd _ => none
  | .churnTick _ => none
  | .churnMoveTransfer _ => none
  | .churnMoveComplete _ => none
  | .sliceTick _ => none
  | .contextSwitchComplete _ => none
  | .leaseExpire _ _ => none
  | .exclusiveLeaseEnd _ => none
  | .storePerformedAtHome _ => none
  | .storeAck _ => none
  | .loadReturn _ => none
  | .waitfWake _ _ _ => none
  | .queueElementReady _ _ _ => none
  | .deqtDeadline _ _ _ => none
  | .rdgtWake _ _ _ => none
  | .csleepWake _ _ _ => none
  | .hangWatchdogExpire _ _ _ => none
  | .sliceForward _ => none
  | .ringTaskLaunch _ => none
  | .reorderBinDepart _ _ => none
  | .copyBegin _ => none
  | .copyComplete _ => none
  | .copyFault _ => none
  | .matrixGrant _ => none
  | .matrixRunComplete _ _ => none
  | .tokenRefill _ => none
  | .tokenGrant _ => none
  | .droopDetect _ => none
  | .droopRecover _ => none
  | .railSwitch _ => none
  | .tempSample _ _ => none
  | .handlerInvocationStart _ _ => none
  | .notificationDeliver _ _ => none
  | .tracePeriod _ => none
  | .ctxCreate _ _ => none
  | .ctxTeardown _ _ => none
  | .ctxSuspend _ _ _ => none
  | .noteSend _ _ => none
  | .partMapWrite _ => none
  | .memIvlWrite _ _ => none
  | .weltOpenWrite _ => none
  | .fwSvnWrite _ _ => none
  | .peerWtabLatch _ _ => none
  | .trigStatWrite _ _ => none
  | .attCmd _ _ => none
  | .attestationReportDone _ => none
  | .quietReached _ => none
  | .scrubComplete _ => none
  | .hportCtlWrite _ _ => none
  | .hostLinkTrain _ _ _ => none
  | .hostLinkDown _ => none
  | .hostMemrd _ _ => none
  | .hostMemwr _ _ => none
  | .bisnpComplete _ _ => none
  | .hostWindowAccess _ _ _ => none
  | .hostSnoop _ _ => none
  | .hostCompletion _ _ => none
  | .peerRequestInbound _ _ => none
  | .peerResponse _ _ => none
  | .peerFlitReceive _ _ _ => none
  | .peerLinkTrain _ _ _ => none
  | .ptpMessage _ _ => none
  | .ptpSourceLost => none
  | .copyGranuleFilled _ _ => none
  | .matrixOperationComplete _ => none

end Sys2Proof
end

