-- ==== Sys2Proof/Machine/Flags.lean ====
section
/-! DEFINITION. The sticky flags of sr.fpflags (spec/01_machine_state.md, R16; spec/02_number_formats.md, R44, R45).
No integer word sets a flag (R37, R92); what each floating-point word raises is computed with its result in
Sys2Proof/Machine/Fp.lean. -/

namespace Sys2Proof.Machine

/-- The sticky flags of sr.fpflags (R16). -/
structure Flags where
  nv : Bool := false
  dz : Bool := false
  of : Bool := false
  uf : Bool := false
  nx : Bool := false
  deriving DecidableEq, Repr

def Flags.or (a b : Flags) : Flags :=
  ⟨a.nv || b.nv, a.dz || b.dz, a.of || b.of, a.uf || b.uf, a.nx || b.nx⟩

/-- sr.fpflags bits [4:0]: NV, DZ, OF, UF, NX (R16). -/
def Flags.bits (a : Flags) : BitVec 5 :=
  BitVec.ofBool a.nv ++ BitVec.ofBool a.dz ++ BitVec.ofBool a.of ++ BitVec.ofBool a.uf ++ BitVec.ofBool a.nx

def Flags.ofNv (b : Bool) : Flags := { nv := b }

/-- Raising flags: sticky, never cleared by raising (R16). -/
def raiseFlags (old : BitVec 5) (f : Flags) : BitVec 5 := old ||| f.bits

end Sys2Proof.Machine
end

