-- ==== Sys2Proof/Machine/Fp.lean ====
section
/-! DEFINITION. Floating point (spec/02_number_formats.md, R38 to R48, R54 to R56; spec/06_isa_float_lanes.md, R127 to
R137).  A number is taken apart into sign, integer significand and binary exponent, every operation is exact on those,
and one rounding puts the result into its format. -/

namespace Sys2Proof.Machine

/-- A binary format: exponent bits and fraction bits (R38). -/
structure Fmt where
  eb : Nat
  fb : Nat
  deriving DecidableEq, Repr

def fp64 : Fmt := ⟨11, 52⟩
def fp32 : Fmt := ⟨8, 23⟩
def fp16 : Fmt := ⟨5, 10⟩
def bf16 : Fmt := ⟨8, 7⟩

def Fmt.bias (f : Fmt) : Nat := 2 ^ (f.eb - 1) - 1
/-- The bit pattern of infinity, without sign. -/
def Fmt.infBits (f : Fmt) : Nat := (2 ^ f.eb - 1) * 2 ^ f.fb
def Fmt.signBit (f : Fmt) : Nat := 2 ^ (f.eb + f.fb)
/-- The canonical NaN (R38). -/
def Fmt.nan (f : Fmt) : Nat := f.infBits + 2 ^ (f.fb - 1)
/-- The exponent of the least significand bit of a subnormal. -/
def Fmt.qmin (f : Fmt) : Int := 1 - (f.bias : Int) - f.fb
/-- The largest finite magnitude. -/
def Fmt.maxBits (f : Fmt) : Nat := f.infBits - 1

/-- A floating-point value: a NaN, an infinity, or sign, significand and exponent of an exact number. -/
inductive Num where
  | nan (signalling : Bool)
  | inf (s : Bool)
  | fin (s : Bool) (m : Nat) (e : Int)
  deriving DecidableEq, Repr

def Num.isNaN : Num → Bool
  | .nan _ => true
  | _ => false
def Num.isSNaN : Num → Bool
  | .nan q => q
  | _ => false
def Num.isInf : Num → Bool
  | .inf _ => true
  | _ => false
def Num.isZero : Num → Bool
  | .fin _ m _ => m == 0
  | _ => false
def Num.sign : Num → Bool
  | .nan _ => false
  | .inf s => s
  | .fin s _ _ => s
def Num.neg : Num → Num
  | .nan q => .nan q
  | .inf s => .inf (!s)
  | .fin s m e => .fin (!s) m e

/-- The value a bit pattern stands for (R38). -/
def Fmt.decode (f : Fmt) (x : Nat) : Num :=
  let s := x / f.signBit % 2 == 1
  let e := x / 2 ^ f.fb % 2 ^ f.eb
  let m := x % 2 ^ f.fb
  if e = 2 ^ f.eb - 1 then
    if m = 0 then .inf s else .nan (m / 2 ^ (f.fb - 1) == 0)
  else if e = 0 then .fin s m f.qmin
  else .fin s (m + 2 ^ f.fb) (f.qmin + ((e : Int) - 1))

def Fmt.isSubnormal (f : Fmt) (x : Nat) : Bool :=
  x / 2 ^ f.fb % 2 ^ f.eb == 0 && x % 2 ^ f.fb != 0

def Fmt.withSign (f : Fmt) (s : Bool) (mag : Nat) : Nat := if s then f.signBit + mag else mag

/-- Whether a truncated significand goes up: `odd` its last bit, `rem` and `half` the cut-off part and half its
weight (R41). -/
def roundsUp (mode : RMode) (s odd : Bool) (rem half : Nat) : Bool :=
  match mode with
  | .rne => rem > half || (rem == half && odd)
  | .rtz => false
  | .rdn => s && rem != 0
  | .rup => !s && rem != 0

/-- m · 2^e rounded to a multiple of 2^q: the multiple, and whether it is exact. -/
def roundTo (mode : RMode) (s : Bool) (m : Nat) (e q : Int) : Nat × Bool :=
  if q ≤ e then (m * 2 ^ (e - q).toNat, true)
  else
    let k := (q - e).toNat
    let n := m / 2 ^ k
    let rem := m % 2 ^ k
    (if roundsUp mode s (n % 2 == 1) rem (2 ^ (k - 1)) then n + 1 else n, rem == 0)

/-- What overflow delivers in each mode (R41). -/
def Fmt.overflow (f : Fmt) (mode : RMode) (s : Bool) : Nat :=
  match mode with
  | .rne => f.withSign s f.infBits
  | .rtz => f.withSign s f.maxBits
  | .rdn => f.withSign s (if s then f.infBits else f.maxBits)
  | .rup => f.withSign s (if s then f.maxBits else f.infBits)

/-- Round of R40 and R41 with the flags OF, UF and NX of R44; underflow is tininess after rounding. -/
def Fmt.round (f : Fmt) (mode : RMode) (s : Bool) (m : Nat) (e : Int) : Nat × Flags :=
  if m = 0 then (f.withSign s 0, {})
  else
    let top : Int := (Nat.log2 m : Int) + e
    let q := max (top - f.fb) f.qmin
    let (n, exact) := roundTo mode s m e q
    let mag := n + (q - f.qmin).toNat * 2 ^ f.fb
    if mag ≥ f.infBits then (f.overflow mode s, { of := true, nx := true })
    else
      let emin := f.qmin + f.fb
      let tiny := top < emin &&
        !(top = emin - 1 && (roundTo mode s m e (top - f.fb)).1 == 2 ^ (f.fb + 1))
      (f.withSign s mag, { nx := !exact, uf := tiny && !exact })

/-- The settings of an HFMD hint (R128). -/
structure FpMode where
  mode : RMode := .rne
  sat : Bool := false
  ftz : Bool := false
  deriving DecidableEq, Repr

/-- Fin of R128: the operand, and NV for a signalling NaN. -/
def fpIn (f : Fmt) (c : FpMode) (x : Nat) : Num × Flags :=
  let v := f.decode x
  (if c.ftz && f.isSubnormal x then .fin v.sign 0 f.qmin else v, Flags.ofNv v.isSNaN)

/-- Saturation (R43): an infinity becomes the largest finite value of its sign. -/
def Fmt.saturate (f : Fmt) (sat : Bool) (x : Nat) : Nat :=
  if sat && x % f.signBit == f.infBits then x - 1 else x

/-- The Ftz and Sat steps of Fout (R128). -/
def Fmt.finish (f : Fmt) (c : FpMode) (r : Nat) (fl : Flags) : Nat × Flags :=
  if c.ftz && f.isSubnormal r then (f.withSign (r / f.signBit % 2 == 1) 0, { fl with uf := true, nx := true })
  else (f.saturate c.sat r, fl)

/-- Fout of R128. -/
def fpOut (f : Fmt) (c : FpMode) (x : Num) : Nat × Flags :=
  match x with
  | .nan _ => (f.nan, {})
  | .inf s => f.finish c (f.withSign s f.infBits) {}
  | .fin s m e =>
    let (r, fl) := f.round c.mode s m e
    f.finish c r fl

/-- The exact sum, with the sign of an exact zero sum of R40; NV for ∞ − ∞. -/
def Num.add (mode : RMode) (x y : Num) : Num × Bool :=
  match x, y with
  | .nan _, _ => (.nan false, false)
  | _, .nan _ => (.nan false, false)
  | .inf s, .inf t => if s = t then (.inf s, false) else (.nan false, true)
  | .inf s, .fin _ _ _ => (.inf s, false)
  | .fin _ _ _, .inf t => (.inf t, false)
  | .fin s m e, .fin t n g =>
    let q := min e g
    let a : Int := (m * 2 ^ (e - q).toNat : Nat)
    let b : Int := (n * 2 ^ (g - q).toNat : Nat)
    let r := (if s then -a else a) + (if t then -b else b)
    if r = 0 then
      (.fin (if s = t ∧ m = 0 ∧ n = 0 then s else mode == .rdn) 0 q, false)
    else (.fin (r < 0) r.natAbs q, false)

/-- The exact product; NV for 0 × ∞. -/
def Num.mul (x y : Num) : Num × Bool :=
  match x, y with
  | .inf s, .inf t => (.inf (s != t), false)
  | .inf s, .fin t n _ => if n = 0 then (.nan false, true) else (.inf (s != t), false)
  | .fin s m _, .inf t => if m = 0 then (.nan false, true) else (.inf (s != t), false)
  | .fin s m e, .fin t n g => (.fin (s != t) (m * n) (e + g), false)
  | _, _ => (.nan false, false)

/-- FADD and DADD and the packed forms (R129, R132, R133). -/
def fpAdd (f : Fmt) (c : FpMode) (x y : Nat) : Nat × Flags :=
  let (a, fa) := fpIn f c x
  let (b, fb) := fpIn f c y
  let (r, nv) := Num.add c.mode a b
  let (z, fz) := fpOut f c r
  (z, ((fa.or fb).or fz).or (Flags.ofNv nv))

/-- FSUB and DSUB: the sum with the second operand's sign reversed. -/
def fpSub (f : Fmt) (c : FpMode) (x y : Nat) : Nat × Flags :=
  let (a, fa) := fpIn f c x
  let (b, fb) := fpIn f c y
  let (r, nv) := Num.add c.mode a b.neg
  let (z, fz) := fpOut f c r
  (z, ((fa.or fb).or fz).or (Flags.ofNv nv))

/-- FMUL, DMUL, BMUL2, HMUL2 (R128, R131 to R133).  DESIGN CHOICE: 0 × ∞ sets NV, though R44 lists it only for additions
and fused operations (log 64). -/
def fpMul (f : Fmt) (c : FpMode) (x y : Nat) : Nat × Flags :=
  let (a, fa) := fpIn f c x
  let (b, fb) := fpIn f c y
  let (r, nv) := Num.mul a b
  let (z, fz) := fpOut f c r
  (z, ((fa.or fb).or fz).or (Flags.ofNv nv))

/-- FFMA and DFMA: product and sum exact, one rounding; 0 × ∞ sets NV even with a quiet NaN addend (R129). -/
def fpFma (f : Fmt) (c : FpMode) (x y w : Nat) : Nat × Flags :=
  let (a, fa) := fpIn f c x
  let (b, fb) := fpIn f c y
  let (d, fd) := fpIn f c w
  let (p, nv1) := Num.mul a b
  let (r, nv2) := Num.add c.mode p d
  let (z, fz) := fpOut f c r
  (z, ((((fa.or fb).or fd).or fz).or (Flags.ofNv nv1)).or (Flags.ofNv nv2))

/-- The order of the numbers of a format on its bit patterns, −0 below +0. -/
def Fmt.key (f : Fmt) (x : Nat) : Int :=
  if x / f.signBit % 2 == 1 then -((x % f.signBit : Nat) : Int) - 1 else ((x % f.signBit : Nat) : Int)

def Fmt.ofKey (f : Fmt) (k : Int) : Nat :=
  if k < 0 then f.signBit + (-k - 1).toNat else k.toNat

/-- FMIN and FMAX (R130). -/
def fpMinMax (f : Fmt) (c : FpMode) (isMax : Bool) (x y : Nat) : Nat × Flags :=
  let flush (v : Nat) := if c.ftz && f.isSubnormal v then f.withSign (v / f.signBit % 2 == 1) 0 else v
  let a := flush x
  let b := flush y
  let fl := Flags.ofNv ((f.decode x).isSNaN || (f.decode y).isSNaN)
  let r := if (f.decode x).isNaN && (f.decode y).isNaN then f.nan
    else if (f.decode x).isNaN then b
    else if (f.decode y).isNaN then a
    else if isMax then (if f.key a ≥ f.key b then a else b)
    else (if f.key a ≤ f.key b then a else b)
  (f.saturate c.sat r, fl)

/-- The packed forms: each half separately, flags of both (R133, R45). -/
def packed2 (g : Nat → Nat → Nat × Flags) (x y : Word) : Word × Flags :=
  let (l, fl) := g (x.extractLsb' 0 16).toNat (y.extractLsb' 0 16).toNat
  let (h, fh) := g (x.extractLsb' 16 16).toNat (y.extractLsb' 16 16).toNat
  (BitVec.ofNat 16 h ++ BitVec.ofNat 16 l, fl.or fh)

def packed3 (g : Nat → Nat → Nat → Nat × Flags) (x y z : Word) : Word × Flags :=
  let (l, fl) := g (x.extractLsb' 0 16).toNat (y.extractLsb' 0 16).toNat (z.extractLsb' 0 16).toNat
  let (h, fh) := g (x.extractLsb' 16 16).toNat (y.extractLsb' 16 16).toNat (z.extractLsb' 16 16).toNat
  (BitVec.ofNat 16 h ++ BitVec.ofNat 16 l, fl.or fh)

/-- Which way two numbers compare; none when unordered.  −0 = +0. -/
def Num.compare (x y : Num) : Option Ordering :=
  match x, y with
  | .nan _, _ => none
  | _, .nan _ => none
  | .inf s, .inf t => some (if s = t then .eq else if s then .lt else .gt)
  | .inf s, .fin _ _ _ => some (if s then .lt else .gt)
  | .fin _ _ _, .inf t => some (if t then .gt else .lt)
  | .fin s m e, .fin t n g =>
    let q := min e g
    let a : Int := (m * 2 ^ (e - q).toNat : Nat)
    let b : Int := (n * 2 ^ (g - q).toNat : Nat)
    some (Ord.compare (if s then -a else a) (if t then -b else b))

/-- The conditions of kind 1 (R65). -/
def FloatCond.holds (c : FloatCond) (o : Option Ordering) : Bool :=
  match c with
  | .eq => o == some .eq
  | .ne => o != some .eq
  | .lt => o == some .lt
  | .le => o == some .lt || o == some .eq
  | .gt => o == some .gt
  | .ge => o == some .gt || o == some .eq
  | .num => o.isSome
  | .nan => o.isNone

/-- Compare of FSETP, with NV for a signalling operand under any condition (R134). -/
def fpSetp (c : FpMode) (k : FloatCond) (x y : Word) : Bool × Flags :=
  let (a, fa) := fpIn fp32 c x.toNat
  let (b, fb) := fpIn fp32 c y.toNat
  (FloatCond.holds k (Num.compare a b), fa.or fb)

/-- The integral value of m · 2^e in a mode, and whether it is exact. -/
def integral (mode : RMode) (s : Bool) (m : Nat) (e : Int) : Nat × Bool := roundTo mode s m e 0

/-- FRND: the integral value in the subop's mode; no flag (R135, R45). -/
def fpRound (c : FpMode) (mode : RMode) (x : Word) : Word :=
  match (fpIn fp32 c x.toNat).1 with
  | .nan _ => BitVec.ofNat 32 fp32.nan
  | .inf s => BitVec.ofNat 32 (fp32.saturate c.sat (fp32.withSign s fp32.infBits))
  | .fin s m e => BitVec.ofNat 32 (fp32.round .rtz s (integral mode s m e).1 0).1

/-! ### Square root, reciprocal and the approximate functions (R47, R48, R135, R136) -/

/-- The integer square root, bit by bit from bit k. -/
def isqrtFrom : Nat → Nat → Nat → Nat
  | 0, r, n => if (r + 1) * (r + 1) ≤ n then r + 1 else r
  | k + 1, r, n =>
    let t := r + 2 ^ (k + 1)
    isqrtFrom k (if t * t ≤ n then t else r) n

/-- The largest r with r · r ≤ n, for n below 2^512. -/
def isqrt (n : Nat) : Nat := isqrtFrom 256 0 n

/-- The square root of m · 2^e as a significand with a sticky last bit. -/
def sqrtSticky (m : Nat) (e : Int) : Nat × Int :=
  let k : Nat := if e % 2 = 0 then 64 else 65
  let n := m * 2 ^ k
  let r := isqrt n
  (2 * r + (if r * r = n then 0 else 1), (e - k) / 2 - 1)

/-- FSQRT: correctly rounded in Mode (R47, R48). -/
def fpSqrt (c : FpMode) (x : Word) : Word × Flags :=
  let (v, fv) := fpIn fp32 c x.toNat
  let out (n : Num) (nv : Bool) : Word × Flags :=
    let (r, fl) := fpOut fp32 c n
    (BitVec.ofNat 32 r, (fv.or fl).or (Flags.ofNv nv))
  match v with
  | .nan _ => out (.nan false) false
  | .inf s => if s then out (.nan false) true else out (.inf false) false
  | .fin s m e =>
    if m = 0 then out (.fin s 0 e) false
    else if s then out (.nan false) true
    else
      let (r, q) := sqrtSticky m e
      out (.fin false r q) false

/-- The published bits if they lie within the ordered bounds lo to hi, else the lower bound: a free value under the
limit the spec sets (log 9). -/
def clampKey (lo hi : Int) (w : Word) : Word :=
  let k := fp32.key w.toNat
  if lo ≤ k ∧ k ≤ hi ∧ !(fp32.decode w.toNat).isNaN then w else BitVec.ofNat 32 (fp32.ofKey lo)

/-! Exact results by rational approximation: arguments at scale 2^256, results at scale 2^400, each within 2^-90 of itself
and one unit. -/

/-- ln 2 and π at scale 2^256, rounded down. -/
def ln2Fix : Int := 80260960185991308862233904206310070533990667611589946606122867505419956976171
def piFix : Int := 363771576891766324280234942777729862653393377328392429958772151117938894466185

/-- m · 2^e, negative for s, at scale 2^256. -/
def fixOf (s : Bool) (m : Nat) (e : Int) : Int :=
  let v : Int := m * 2 ^ (e + 256).toNat
  if s then -v else v

/-- The terms r^n / n! from n on, t the first of them. -/
def expTerms (r : Int) : Nat → Nat → Int → List Int
  | 0, _, _ => []
  | k + 1, n, t => t :: expTerms r k (n + 1) (t * r / (2 ^ 256 * (n + 1)))

/-- e^r, sin r and cos r for |r| of at most 1. -/
def expFix (r : Int) : Int := (expTerms r 80 0 (2 ^ 256)).sum
def sinFix (r : Int) : Int :=
  ((expTerms r 80 0 (2 ^ 256)).mapIdx fun n t => if n % 4 = 1 then t else if n % 4 = 3 then -t else 0).sum
def cosFix (r : Int) : Int :=
  ((expTerms r 80 0 (2 ^ 256)).mapIdx fun n t => if n % 4 = 0 then t else if n % 4 = 2 then -t else 0).sum

/-- e^z as 2^k · E for z of at least 0. -/
def expBig (z : Int) : Int := expFix (z % ln2Fix) * 2 ^ (z / ln2Fix).toNat

/-- The terms z^(2k + 1) / (2k + 1), t the power in the first of them. -/
def atanhTerms (z : Int) : Nat → Nat → Int → List Int
  | 0, _, _ => []
  | n + 1, k, t => t / (2 * k + 1) :: atanhTerms z n (k + 1) (t * z / 2 ^ 256 * z / 2 ^ 256)

/-- log2 (m / 2^l) for m from 2^l up to 2^(l + 1). -/
def log2Fix (m l : Nat) : Int :=
  let z : Int := (m - 2 ^ l) * 2 ^ 256 / (m + 2 ^ l)
  2 * (atanhTerms z 90 0 z).sum * 2 ^ 256 / ln2Fix

/-- A result at scale 2^400. -/
def atScale (num den : Int) : Int := num * 2 ^ 400 / den

/-- The key of a value at scale 2^400, rounded. -/
def roundKey (mode : RMode) (s : Bool) (v : Int) : Int := fp32.key (fp32.round mode s v.natAbs (-400)).1

/-- The distance of the FP32 values about a magnitude at scale 2^400. -/
def ulpAt (a : Nat) : Nat := 2 ^ max (Nat.log2 a - 23) 251

/-- A computed magnitude, and its error.  Where it is an FP32 value but for its error, and the exact magnitude is known to
lie on one side of that value, it is the value one unit to that side. -/
def sideOf (side : Int) (a : Nat) : Nat × Nat :=
  let d := a / 2 ^ 90 + 1
  let near := (a + ulpAt a / 2) / ulpAt a * ulpAt a
  if side ≠ 0 ∧ near ≤ a + d ∧ a ≤ near + d then (((near : Int) + side).toNat, 0) else (a, d)

/-- The keys of the results within so many ulp of an exact value y at scale 2^400, or within `slack` units of it (R47): an
ulp is the distance of the FP32 values that enclose y; from 2^128 on the result may be an infinity. -/
def nearKeys (ulps slack : Nat) (side y : Int) : Int × Int :=
  let (a, d) := sideOf side y.natAbs
  let y : Int := if y < 0 then -(a : Int) else a
  let w : Int := max (ulps * ulpAt a) slack + d
  let lo := y - w
  let hi := y + w
  (if lo ≤ -2 ^ 528 then -(fp32.infBits : Int) - 1 else roundKey .rup (lo ≤ 0) lo,
   if 2 ^ 528 ≤ hi then fp32.infBits else roundKey .rdn (hi < 0) hi)

/-- A published result within such bounds. -/
def nearResult (ulps slack : Nat) (side y : Int) (w : Word) : Word :=
  let (lo, hi) := nearKeys ulps slack side y
  clampKey lo hi w

/-- UF, OF and NX of a delivered approximate result (R47, R136). -/
def approxFlags (r : Word) (exact : Bool) : Flags :=
  match fp32.decode r.toNat with
  | .inf _ => { of := !exact, nx := !exact }
  | .fin _ _ _ =>
    { nx := !exact, uf := !exact && (r.toNat % fp32.signBit) < 2 ^ 23 }
  | .nan _ => {}

/-- Delivers an approximate result through the Ftz and Sat steps of Fout (R135). -/
def approxOut (c : FpMode) (fv : Flags) (r : Word) (exact : Bool) : Word × Flags :=
  let (z, fl) := fp32.finish c r.toNat (approxFlags r exact)
  (BitVec.ofNat 32 z, fv.or fl)

/-- A result R48 fixes: exact, so no NX; `nv` and `dz` as its table says. -/
def specialOut (c : FpMode) (fv : Flags) (r : Nat) (nv dz : Bool) : Word × Flags :=
  let (z, fl) := fp32.finish c r {}
  (BitVec.ofNat 32 z, (fv.or fl).or { nv := nv, dz := dz })

def fpOne : Nat := 0x3F800000
def fpHalf : Nat := 0x3F000000

/-- FRCP (R47, R48). -/
def fpRcp (c : FpMode) (x : Word) : Word × Flags :=
  let (v, fv) := fpIn fp32 c x.toNat
  match v with
  | .nan _ => specialOut c fv fp32.nan false false
  | .inf s => specialOut c fv (fp32.withSign s 0) false false
  | .fin s m e =>
    if m = 0 then specialOut c fv (fp32.withSign s fp32.infBits) false true
    else if x.toNat = fpOne then specialOut c fv fpOne false false
    else
      let d := nearResult 1 0 0 (atScale (2 ^ 256) (fixOf s m e)) (Config.specialBits .rcp x)
      let exact := match fp32.decode d.toNat with
        | .fin _ n g => n * m * 2 ^ (g + e + 400).toNat == 2 ^ 400
        | _ => false
      approxOut c fv d exact

/-- FRSQ (R47, R48). -/
def fpRsq (c : FpMode) (x : Word) : Word × Flags :=
  let (v, fv) := fpIn fp32 c x.toNat
  match v with
  | .nan _ => specialOut c fv fp32.nan false false
  | .inf s => if s then specialOut c fv fp32.nan true false else specialOut c fv 0 false false
  | .fin s m e =>
    if m = 0 then specialOut c fv (fp32.withSign s fp32.infBits) false true
    else if s then specialOut c fv fp32.nan true false
    else if x.toNat = fpOne then specialOut c fv fpOne false false
    else
      let d := nearResult 1 0 0 (isqrt (2 ^ 616 / (m * 2 ^ (e + 256).toNat)) * 2 ^ 220) (Config.specialBits .rsq x)
      let exact := match fp32.decode d.toNat with
        | .fin _ n g => n * n * m * 2 ^ (2 * g + e + 400).toNat == 2 ^ 400
        | _ => false
      approxOut c fv d exact

/-- FEX2: 2^x within two ulp (R47, R48). -/
def fpEx2 (c : FpMode) (x : Word) : Word × Flags :=
  let (v, fv) := fpIn fp32 c x.toNat
  match v with
  | .nan _ => specialOut c fv fp32.nan false false
  | .inf s => specialOut c fv (if s then 0 else fp32.infBits) false false
  | .fin s m e =>
    if m = 0 then specialOut c fv fpOne false false
    else if x.toNat = fpOne then specialOut c fv 0x40000000 false false
    else
      let f := fixOf s m e
      let k : Int := max (-1000) (min 1000 (f / 2 ^ 256))
      let y := expFix (f % 2 ^ 256 * ln2Fix / 2 ^ 256) * 2 ^ (k + 1000).toNat / 2 ^ 856
      let d := nearResult 2 0 (if f % 2 ^ 256 = 0 then 0 else if s then -1 else 1) y (Config.specialBits .ex2 x)
      approxOut c fv d (f % 2 ^ 256 == 0 && fp32.decode d.toNat == fp32.decode (fp32.round .rtz false 1 k).1
        && decide (-149 ≤ k ∧ k ≤ 127))

/-- An integer as an ordered FP32 key. -/
def intKey (k : Int) : Int := fp32.key (fp32.round .rne (k < 0) k.natAbs 0).1

/-- FLG2: within two ulp of log2 x, or 2^−22 where x lies in [0.5, 2] (R47, R48). -/
def fpLg2 (c : FpMode) (x : Word) : Word × Flags :=
  let (v, fv) := fpIn fp32 c x.toNat
  match v with
  | .nan _ => specialOut c fv fp32.nan false false
  | .inf s => if s then specialOut c fv fp32.nan true false else specialOut c fv fp32.infBits false false
  | .fin s m e =>
    if m = 0 then specialOut c fv (fp32.signBit + fp32.infBits) false true
    else if s then specialOut c fv fp32.nan true false
    else if x.toNat = fpOne then specialOut c fv 0 false false
    else
      let l := Nat.log2 m
      let k : Int := (l : Int) + e
      let y := (k * 2 ^ 256 + log2Fix m l) * 2 ^ 144
      let near := decide (fpHalf ≤ x.toNat ∧ x.toNat ≤ 0x40000000)
      let d := nearResult (if near then 0 else 2) (if near then 2 ^ 378 else 0) 0 y (Config.specialBits .lg2 x)
      approxOut c fv d (m == 2 ^ l && fp32.key d.toNat == intKey k)

/-- sin (x + q · π/2) at scale 2^400. -/
def sinAt (f : Int) (q : Nat) : Int :=
  let k := (4 * f + piFix) / (2 * piFix)
  let r := (2 * f - k * piFix) / 2
  (match ((k + q) % 4).toNat with
   | 0 => sinFix r
   | 1 => cosFix r
   | 2 => -sinFix r
   | _ => -cosFix r) * 2 ^ 144

/-- FSIN and FCOS: where |x| is at most 2^10 π within two ulp, or 2^-22 of a result below 2^-21; elsewhere within [−1, 1]
(R47, R48).  Where the exact magnitude is nearly an FP32 value, 1 or |x|, it is less. -/
def fpSinCos (c : FpMode) (isCos : Bool) (x : Word) : Word × Flags :=
  let (v, fv) := fpIn fp32 c x.toNat
  match v with
  | .nan _ => specialOut c fv fp32.nan false false
  | .inf _ => specialOut c fv fp32.nan true false
  | .fin s m e =>
    if m = 0 then specialOut c fv (if isCos then fpOne else fp32.withSign s 0) false false
    else
      let bits := Config.specialBits (if isCos then .cos else .sin) x
      let y := sinAt (fixOf s m e) (if isCos then 1 else 0)
      let d :=
        if x.toNat % fp32.signBit ≤ 0x45490FDA then nearResult 2 (if y.natAbs < 2 ^ 379 then 2 ^ 378 else 0) (-1) y bits
        else clampKey (-(fpOne : Int) - 1) fpOne bits
      approxOut c fv d false

/-- FTANH: within two ulp (R47, R48); from 64 on the result is 1 but for 2^-180.  Nearly 1 or nearly |x|, its exact
magnitude is less. -/
def fpTanh (c : FpMode) (x : Word) : Word × Flags :=
  let (v, fv) := fpIn fp32 c x.toNat
  match v with
  | .nan _ => specialOut c fv fp32.nan false false
  | .inf s => specialOut c fv (fp32.withSign s fpOne) false false
  | .fin s m e =>
    if m = 0 then specialOut c fv (fp32.withSign s 0) false false
    else
      let z := expBig (2 * min (fixOf false m e) (2 ^ 262))
      let y := atScale (z - 2 ^ 256) (z + 2 ^ 256)
      approxOut c fv (nearResult 2 0 (-1) (if s then -y else y) (Config.specialBits .tanh x)) false

/-- FSIGM: within two ulp (R47, R48); from 256 on the result is that of 256 but for 2^-360.  Nearly 1, its exact value is
less; nearly 1/2, it is less for a negative argument and more for a positive one. -/
def fpSigm (c : FpMode) (x : Word) : Word × Flags :=
  let (v, fv) := fpIn fp32 c x.toNat
  match v with
  | .nan _ => specialOut c fv fp32.nan false false
  | .inf s => specialOut c fv (if s then 0 else fpOne) false false
  | .fin s m e =>
    if m = 0 then specialOut c fv fpHalf false false
    else
      let z := expBig (min (fixOf false m e) (2 ^ 264))
      let y := atScale (if s then 2 ^ 256 else z) (z + 2 ^ 256)
      approxOut c fv (nearResult 2 0 (if s || decide (3 * 2 ^ 398 < y) then -1 else 1) y (Config.specialBits .sigm x)) false

/-! ### Conversions (R46, R137) -/

/-- CVTF: one rounding from the source format into the destination format. -/
def fpCvt (src dst : Fmt) (c : FpMode) (x : Nat) : Nat × Flags :=
  let (v, fv) := fpIn src c x
  let (r, fl) := fpOut dst c v
  (r, fv.or fl)

/-- The range of an integer type. -/
def intRange : IType → Int × Int
  | .i32 => (-2147483648, 2147483647)
  | .b32 => (0, 4294967295)
  | .i64 => (-9223372036854775808, 9223372036854775807)
  | .b64 => (0, 18446744073709551615)

/-- F2I (R137): the rounded integer, or the bound of the target with NV; a NaN gives 0 with NV. -/
def fpToInt (src : Fmt) (mode : RMode) (t : IType) (x : Nat) : Int × Flags :=
  let (lo, hi) := intRange t
  match src.decode x with
  | .nan _ => (0, { nv := true })
  | .inf s => (if s then lo else hi, { nv := true })
  | .fin s m e =>
    let (n, exact) := integral mode s m e
    let k : Int := if s then -(n : Int) else n
    if k < lo ∨ hi < k then (if s then lo else hi, { nv := true })
    else (k, { nx := !exact })

/-- I2F (R137): the integer rounded into the destination format.  DESIGN CHOICE: a magnitude above 65,504 that rounds to
65,504 of FP16 sets NX and no OF, as R44 has it, where R46 says that a magnitude above 65,504 sets OF (log 64). -/
def intToFp (dst : Fmt) (mode : RMode) (k : Int) : Nat × Flags :=
  dst.round mode (k < 0) k.natAbs 0

/-! ### Sums of a set (R54 to R56) -/

/-- The node of the REDUX tree and the step of SCAN: one rounded addition, NaN canonical. -/
def sumNode (mode : RMode) (x y : Word) : Word × Flags :=
  let (r, fl) := fpAdd fp32 { mode := mode } x.toNat y.toNat
  (BitVec.ofNat 32 r, fl)

/-- The only input of a node passes unchanged, except a NaN, which is delivered canonical (R54). -/
def passNode (x : Word) : Word × Flags :=
  match fp32.decode x.toNat with
  | .nan q => (BitVec.ofNat 32 fp32.nan, Flags.ofNv q)
  | _ => (x, {})

/-- One level of the tree over the lanes: node 2i with node 2i + 1; an absent node is inactive. -/
def treeLevel (mode : RMode) : List (Option Word) → List (Option Word) × Flags
  | a :: b :: rest =>
    let (tail, ft) := treeLevel mode rest
    match a, b with
    | some x, some y => let (r, fl) := sumNode mode x y; (some r :: tail, ft.or fl)
    | some x, none => let (r, fl) := passNode x; (some r :: tail, ft.or fl)
    | none, some y => let (r, fl) := passNode y; (some r :: tail, ft.or fl)
    | none, none => (none :: tail, ft)
  | [a] => ([a], {})
  | [] => ([], {})

/-- The root after five levels (R54). -/
def treeSum (mode : RMode) (xs : List (Option Word)) : Word × Flags :=
  let (l1, f1) := treeLevel mode xs
  let (l2, f2) := treeLevel mode l1
  let (l3, f3) := treeLevel mode l2
  let (l4, f4) := treeLevel mode l3
  let (l5, f5) := treeLevel mode l4
  ((l5.head?.getD none).getD 0, (((f1.or f2).or f3).or f4).or f5)

end Sys2Proof.Machine
end

