-- ==== Sys2Proof/Machine/State.lean ====
section
/-! DEFINITION. The state of the machine: every piece of state the spec names, as plain data (spec/01_machine_state.md
and the chapters that own each part), the reasons to stop, and the machine after reset. -/

namespace Sys2Proof.Machine

/-! ### Reasons to stop -/

/-- Why the machine stops with a fault. -/
inductive Fault where
  /-- A warp word is executed and no warp is issuing (no state that a run reaches).  Safe. -/
  | noIssue
  /-- A sequencer word is executed and no sequencer is issuing (no state that a run reaches).  Safe. -/
  | noSequencer
  deriving DecidableEq, Repr

/-- Why the machine refuses a word. -/
inductive Refusal where
  /-- Raised by the dispatch for an instruction without a meaning.  Safe. -/
  | notModelled (mnemonic : String)
  deriving DecidableEq, Repr

/-! ### Traps (R33, R34, R348) -/

/-- The trap codes of R33. -/
inductive TrapCode where
  | illegal | regRange | maskRange | priv | capInvalid | capPerm | progress | barrierOverrun | copyRights | copyRange
  | xlate | memPerm | memAlign | stream | seq | watchdog | bkpt | watchpt | swtrap | ecc | launch
  deriving DecidableEq, Repr

/-- A condition found on a word in one lane. -/
structure Cause where
  code : TrapCode
  sub : Byte := 0
  addr : DWord := 0
  detail : Word := 0
  deriving DecidableEq, Repr

/-- A trap record (R348); CHK is computed when the record is delivered. -/
structure TrapRecord where
  code : Byte
  sub : Byte
  kind : Byte
  lane : Byte
  handle : Word
  pc : DWord
  addr : DWord
  detail : Word
  lanes : Word
  gt : DWord
  word : Word
  hint : Word
  blk : Word
  kern : Word
  deriving DecidableEq, Repr

/-- A parked warp: the lanes that were issued, the length of the word or pair, and the record (R34, R348). -/
structure Parked where
  lanes : Mask
  len : Nat
  record : TrapRecord
  deriving DecidableEq, Repr

/-! ### Threads and warps (R13 to R20) -/

/-- A bound stream port: the copied descriptor and the position (R15, R147). -/
structure Stream where
  base : Word
  stride : Word
  count : Word
  /-- element size in bytes: 4, 2 or 1 -/
  size : Nat
  out : Bool
  pos : Word
  deriving DecidableEq, Repr

/-- A barrier: of a block or of a group of a launch (R172). -/
inductive BarRef where
  | block (launch : Nat) (blk : Nat) (n : Nat)
  | group (launch : Nat) (g : Nat) (n : Nat)
  deriving DecidableEq, Repr

/-- What a checked word waits on (R247). -/
inductive Target where
  | group (launch : Nat) (g : Nat)
  | block (launch : Nat) (blk : Nat)
  | card (gen : Nat)
  | queue (cls : Nat)
  | lock (launch : Nat) (g : Nat)
  /-- A block of no launch, waiting on itself (R157). -/
  | self (bid : Nat)
  deriving DecidableEq, Repr

/-- What a sleeping thread waits for (R112, R125, R157, R167, R171, R173, R175, R181). -/
inductive SleepKind where
  | mask (k : Nat)
  | time (target : DWord) (d : VReg)
  | full (bid offset size : Nat) (d : VReg) (clear : Bool)
  | lock (loc : Nat) (write counted : Bool)
  | waitf (loc mt : Nat) (cond : WaitCond) (y : Word)
  | bar (b : BarRef) (phase : Word) (d : VReg)
  | deq (hdr : Nat) (d : VReg) (deadline : Option DWord)
  | csleep (slot : Nat) (token : Word) (deadline : DWord) (d : VReg)
  deriving DecidableEq, Repr

/-- A sleep in progress: its kind, where the thread goes on, the word (for traps and re-issue), the target of its
class check with the capability and the no-promote bit, and the hang time in ns (R250, R255). -/
structure Sleep where
  kind : SleepKind
  next : DWord
  word : Word
  hint : Word
  target : Option Target := none
  cap : Nat := 0
  canPromote : Bool := false
  hang : Nat := 0
  order : Nat := 0
  /-- The stream ports as the word leaves them: its pops count once it completes (R150). -/
  ports : Vector (Option Stream) 4 := Vector.replicate 4 none
  deriving DecidableEq, Repr

inductive Life where
  | run
  | asleep (s : Sleep)
  | ended
  deriving DecidableEq, Repr

/-- One thread (R13). -/
structure Thread where
  pc : DWord
  v : Vector Word 128
  p : BitVec 7
  ports : Vector (Option Stream) 4
  fpflags : BitVec 5
  life : Life
  /-- Held at issue until something changes: a mark of the model (log 3). -/
  held : Bool
  /-- The group wait count and the YIELD mark (R227, R119). -/
  gwait : Nat
  yielded : Bool
  /-- Exempt from instruction breakpoints and watchpoints on its next word (RESW mode 0). -/
  exempt : Bool
  /-- The hang time of the sleep a stop has interrupted, while the lane issues its word again (R255, R328). -/
  hangKept : Nat
  /-- The arrival a waiting barrier word has made: the barrier and the phase it arrived in (R173). -/
  kept : Option (BarRef × Word)
  deriving DecidableEq, Repr

/-- How far a stop request has come for a warp: asked, or ended by the stop deadline (R210, R237). -/
inductive StopState where
  | none
  | asked
  | forced
  deriving DecidableEq, Repr

/-- A poisoned register, with the address whose access failed (R348, R359): a general register of a lane, or one of another
file, numbered as in R197: a predicate of a lane, a uniform register, a mask, an arrival set (R33, R329). -/
structure Poison where
  lane : Nat
  reg : Nat
  addr : DWord
  file : Nat := 0
  deriving DecidableEq, Repr

/-- One warp (R18 to R20). -/
structure Warp where
  threads : Vector Thread 32
  w : Vector Word 64
  m : Vector Mask 12
  a : Vector Mask 12
  ldc : Nat
  stc : Nat
  cpc : Nat
  mxc : Nat
  wct : DWord
  backoff : Nat
  /-- The wait count of R224. -/
  wait : Nat
  /-- Register allocation n (R14). -/
  alloc : Nat
  /-- Privilege level: 0 task, 1 partition, 2 steward (R29). -/
  level : Nat
  /-- The warp slot 16 × quad + slot it occupies, and the generation of its handle (R346). -/
  slot : Nat
  gen : BitVec 12
  parked : Option Parked
  /-- A pending notification (R351). -/
  note : Option Word
  stop : StopState
  /-- Lanes that have stopped, with the live-mask index each stopped at (R237). -/
  stopped : Mask
  liveIdx : Vector Nat 32
  /-- Poisoned registers (R329, R359). -/
  poison : List Poison
  /-- A safe-point word has been issued since the notification came (R351). -/
  atSafe : Bool
  /-- The warp has released its slot (R118). -/
  released : Bool
  deriving DecidableEq, Repr

/-! ### Blocks (R21, R22, R245, R246) -/

/-- The states of R245. -/
inductive BlockLife where
  | unlaunched | placed | running | stopped | moving | halted | evicted | switchedOut (halted : Bool) | retired
  deriving DecidableEq, Repr

/-- Why a block was asked to stop. -/
inductive StopCause where
  | eviction | churn | switch | halt
  deriving DecidableEq, Repr

/-- What a block is: a task block, the handler warp of a quad (R347), or a steward core (R29). -/
inductive BlockKind where
  | task
  | handler (core quad : Nat) (serving : Option TrapRecord)
  | steward (die : Nat)
  deriving DecidableEq, Repr

/-- A barrier object (R172). -/
structure Barrier where
  x : Nat
  arrived : Nat
  phase : Word
  ovrc : Nat
  mxst : Nat
  deriving DecidableEq, Repr

/-- A plane of weights: 128 rows of 128 values, held as the FP32 words they stand for (R192, R306). -/
structure Plane where
  fmt : Nat
  rows : List (Nat × List Word)
  /-- It holds an uncorrectable soft error (R315, R329). -/
  bad : Bool
  deriving DecidableEq, Repr

/-- The engine context of a block (R306): the planes, the accumulator rows that are not +0.0, and the rows that hold an
uncorrectable soft error (R315, R329). -/
structure EngineCtx where
  active : Plane
  shadow : Plane
  acc : List (Nat × List Word)
  badAcc : List Nat
  deriving DecidableEq, Repr

/-- An SQSTOP in progress: its warp and address, and the number below which the entries of the stream it stopped lie
(R188). -/
structure SeqStop where
  w : Nat
  pc : DWord
  bound : Nat
  deriving DecidableEq, Repr

/-- The sequencer of a block (R21, R186 to R188). -/
structure Sequencer where
  q : Vector Word 32
  pc : DWord
  start : DWord
  /-- STATE: 0 idle, 1 running, 2 stopped by SQSTOP, 3 stopped by SEQ (R186). -/
  st : Nat
  prio : Nat
  /-- The engine context exists: SQRUN has started the sequencer before (R306). -/
  made : Bool
  /-- The streams that MXC counts: the warp, and once the stream is over the number below which its entries lie (R187). -/
  charges : List (Nat × Option Nat)
  /-- A QWAIT whose arrival is made: its barrier and the phase it waits to pass (R194, R317). -/
  wait : Option (Nat × Word)
  /-- SQSTOPs in progress (R188). -/
  stopping : List SeqStop
  /-- Held on its word until something changes: a mark of the model (log 3). -/
  held : Bool
  deriving DecidableEq, Repr

structure Block where
  bid : Nat
  kind : BlockKind
  pn : Nat
  ctx : Nat
  launch : Nat
  /-- sr.blk (R10). -/
  blk : Nat
  /-- The logical core it is on, or was on last, and the one it was first placed on, whose index sr.lcore reads for the
  life of the block (R10, R26, R28). -/
  core : Nat
  lcore : Nat
  cls : Nat
  life : BlockLife
  resid : Nat
  stopFor : Option StopCause
  deadline : Nat
  marked : Bool
  warps : List Warp
  win : List Host.Cell
  /-- Granules of the window whose full-empty bit is full (R21). -/
  full : List Nat
  /-- Bytes of the window with an uncorrectable soft error; a granule with one is poisoned (R33, R329). -/
  bad : List Nat
  /-- Window size in bytes, sr.lmsize. -/
  lm : Nat
  grps : List Nat
  seq : Sequencer
  eng : EngineCtx
  /-- The rail recorded at first placement: high or low (R403). -/
  rail : Option Bool
  /-- Its place in launch order (R218, R277). -/
  order : Nat
  /-- The card whose task block it is, by binding generation (R277). -/
  card : Option Nat
  /-- The engines begin no copy of the block until its halt is released (R377). -/
  frozen : Bool
  /-- A warp of it has issued since it was first placed (R229). -/
  begun : Bool
  /-- Records to deliver again when an evicted block resumes, by warp (R349). -/
  stash : List (Nat × TrapRecord)
  deriving DecidableEq, Repr

/-! ### Launches, contexts, cards (R330 to R340; spec/14_continuations.md) -/

/-- A group-table entry (R337). -/
structure GroupEntry where
  first : Nat
  count : Nat
  stride : Nat
  x : Nat
  deriving DecidableEq, Repr

inductive LaunchState where
  | known | ready | ended | refused | torn
  deriving DecidableEq, Repr

/-- The operation of an atomic (R161 to R163). -/
inductive AtomOp where
  | add | min | max | exch | and | or | xor | inc
  | cas32 | cas64 | cas128
  | fadd | fmin | fmax | bfadd2
  deriving DecidableEq, Repr

/-- An ordered FP atomic waiting for the end of its launch (R58, R164). -/
structure OrdEntry where
  blk : Nat
  w : Nat
  op : AtomOp
  loc : Nat
  mt : Nat
  y : Word
  /-- The die it was issued on. -/
  die : Nat
  deriving DecidableEq, Repr

/-- How a warp from a reorder bin starts: the cluster, the key, the payloads in deposit order, and the carried time it
waits for (R185, R241, R242). -/
structure BinStart where
  cluster : Nat
  key : Word
  payloads : List DWord
  start : Nat
  deriving DecidableEq, Repr

/-- A block that differs from its launch: its class and its place in launch order until it is placed (R249, R277),
the reorder bin it comes from, and whether it is pending as RESIDENT: promoted before it was placed, or without the room
that was reserved for it (R221, R248, R252). -/
structure Late where
  blk : Nat
  cls : Nat
  order : Nat
  bin : Option BinStart := none
  asRes : Bool := false
  deriving DecidableEq, Repr

/-- A launch: its packet (R334), its tables, and how far it has come. -/
structure Launch where
  lid : Nat
  pn : Nat
  ctx : Nat
  die : Nat
  queue : Nat
  packetAddr : Nat
  guarded : Bool
  entry : DWord
  start : DWord
  args : List Word
  unif : List Word
  lmtab : DWord
  sptab : DWord
  ordbase : DWord
  ecarea : DWord
  done : DWord
  nblk : Nat
  spcount : Nat
  groups : List GroupEntry
  core0 : Nat
  ncore : Nat
  localKb : Nat
  cls : Nat
  warps : Nat
  regs8 : Nat
  flags : Byte
  prodg : Nat
  prodw : Nat
  feedg : Nat
  ordsz : Nat
  kern : Word
  bartab : List Nat
  /-- A reason of R336 found when the packet was read. -/
  fault : Option Nat
  state : LaunchState
  order : Nat
  /-- GT at which it became ready (of a known launch, at which its packet came to the head of its queue, R218), and at
  which it ended. -/
  readyGt : Nat
  endGt : Nat
  late : List Late
  retiredBlks : List Nat
  ords : List OrdEntry
  /-- A card's launch: the binding's generation, the values of v0:v1 and v2:v3 (R277). -/
  card : Option Nat
  /-- The latest completion time among the stores of its retired blocks and its ordered atomics, which its done record
  waits for (R262, R336). -/
  wct : Nat
  deriving DecidableEq, Repr

/-- A capability entry (R23, R339). -/
structure CapEntry where
  type : Nat
  perms : BitVec 5
  pclass : Nat
  allow : Word
  endpoint : DWord
  aux : DWord
  /-- CARD entries: the binding it named when installed (R275). -/
  card : Nat
  deriving DecidableEq, Repr

/-- A chunk dealt from a ring card: its first record, its length, the block that holds it while it does (R279). -/
structure Chunk where
  first : Nat
  count : Nat
  holder : Option Nat
  deriving DecidableEq, Repr

/-- A bound task card (R274, R275), by its binding generation. -/
structure Card where
  gen : Nat
  pn : Nat
  ctx : Nat
  /-- Its address and its location in device memory. -/
  va : DWord
  loc : Nat
  entry : DWord
  ring : Bool
  cls : Nat
  warps : Nat
  regs8 : Nat
  localKb : Nat
  maxblk : Nat
  ringl : Nat
  rbase : DWord
  doff : DWord
  minChunk : Nat
  divisor : Nat
  quota : Nat
  /-- The launch of the batch in progress, or of the ring binding. -/
  launch : Option Nat
  /-- Records of the batch; for a ring, those appended. -/
  total : Nat
  dealt : Nat
  released : Nat
  /-- Ready times of the ring's records, from record `readyFrom` on (R282). -/
  ready : List Nat
  readyFrom : Nat
  chunks : List Chunk
  /-- Live task blocks by index, with whether each has issued a DEAL (R283). -/
  live : List (Nat × Bool)
  deriving DecidableEq, Repr

/-- A bin of a reorder unit: the logical cluster, the card as it was, the depositing launch, the key, the GT of the first
deposit, and each payload with its carried time (R239, R242). -/
structure Bin where
  id : Nat
  cluster : Nat
  card : Card
  launch : Nat
  key : Word
  first : Nat
  deps : List (DWord × Nat)
  deriving DecidableEq, Repr

/-- An entry of a slice's launch queue (R281). -/
structure SliceEntry where
  slice : Nat
  va : DWord
  old : Word
  new : Word
  carried : Nat
  card : Nat
  cardVa : DWord
  loc : Nat
  pn : Nat
  ctx : Nat
  cap : Nat
  deriving DecidableEq, Repr

/-- A place promised to a block: by MakeRoom, for a guarded block, or on a core whose cluster moves: the block, the
core, the class it is placed in, and the blocks whose evictions it counts on (R229, R251, R252, R328). -/
structure Reservation where
  launch : Nat
  blk : Nat
  core : Nat
  cls : Nat
  relies : List Nat
  deriving DecidableEq, Repr

/-- One context of a partition (R330, R340). -/
structure Context where
  pn : Nat
  ctx : Nat
  valid : Bool
  susp : Bool
  ptroot : Nat
  save : Nat
  savesz : Nat
  /-- The capability table; an absent entry is INVALID (R23). -/
  caps : List (Nat × CapEntry)
  /-- A freeze of the trigger sequencer is in force (R377). -/
  frozen : Bool
  deriving DecidableEq, Repr

/-! ### Accesses in flight (R152 to R165, R257 to R268) -/

/-- The continuation atomics (R165). -/
inductive ContOp where
  | casc | incc | minc
  deriving DecidableEq, Repr

/-- The card a continuation atomic names, as its capability was checked: binding, address, location, SQQUOTA (R25, R281). -/
structure CardRef where
  gen : Nat
  va : DWord
  loc : Nat
  quota : Nat
  deriving DecidableEq, Repr

inductive AccKind where
  | load (lvl : Pol) (acquire : Bool) (sysAcquire : Bool)
  | store (lvl : Pol)
  | atomic (op : AtomOp) (near : Bool) (lo hi : BitVec 128)
  | disc (lvl : Pol) (ext : Nat)
  | winLoad (bid : Nat)
  | winStore (bid : Nat) (fs : Bool)
  | cont (op : ContOp) (cmp nv : Word) (cap : Nat) (card : CardRef) (wct0 : DWord)
  deriving DecidableEq, Repr

/-- One lane's access of a memory word: the place it goes to, the bytes it writes, the registers it returns to, and,
once performed at its home, its completion time. -/
structure Access where
  id : Nat
  op : Nat
  bid : Nat
  w : Nat
  lane : Nat
  kind : AccKind
  /-- Location, memory type (R343; 4 for a window), residency class of the page, and size in bytes. -/
  loc : Nat
  mt : Nat
  cls : Nat
  size : Nat
  /-- The virtual address, for the record of a failure (R348). -/
  va : DWord
  cells : List Host.Cell
  /-- First destination register and how many. -/
  dst : Option (Nat × Nat)
  /-- Completion time, once performed. -/
  done : Option Nat
  /-- A .l1 store that was written into the issuer's L1 copy when it was issued (R168, R262). -/
  early : Bool
  /-- Threads that have read such a store in the L1 before it was performed: block, warp, lane (R263). -/
  readers : List (Nat × Nat × Nat)
  deriving DecidableEq, Repr

/-- A word's accesses as one operation of a counter of R19. -/
structure MemOp where
  id : Nat
  bid : Nat
  w : Nat
  isLoad : Bool
  counted : Bool
  tmax : Nat
  deriving DecidableEq, Repr

/-- Where a copied line is held: the L1 of a core, or the RDC of a die (R257). -/
inductive CopyPlace where
  | l1 (core : Nat)
  | rdc (die : Nat)
  deriving DecidableEq, Repr

/-- A copied line: the partition and the residency class it is held for, its 64 bytes, its expiry, its dirty bytes, the
contexts that use it (R257, R259, R261, R357).  The most recently used line comes first. -/
structure CopyLine where
  place : CopyPlace
  line : Nat
  pn : Nat
  cls : Nat
  bytes : List Byte
  expiry : Nat
  dirty : List Bool
  /-- The contexts that use a host line, as 16 × partition + context. -/
  ctxs : List Nat
  /-- Cores whose threads have read a newer value: an RDC line serves them no more (R263). -/
  seen : List Nat
  deriving DecidableEq, Repr

/-- An exclusive lease of a near atomic (R160, R259). -/
structure XLease where
  line : Nat
  core : Nat
  expiry : Nat
  deriving DecidableEq, Repr

/-- A host or peer access to device memory that waits at the home or at a port (R361, R393).  A read that has found the
filter of its die full waits for the line that is back-invalidated for it. -/
inductive HostReq where
  | read (addr size : Nat) (victim : Option Nat)
  | write (addr : Nat) (bytes : List Byte)
  | peer (src : Nat) (req : PeerReq)
  deriving DecidableEq, Repr

/-- A TLB: the first-level one of a physical core, or the L2 one of a physical cluster (R2, R345). -/
inductive TlbPlace where
  | core (c : Nat)
  | cluster (k : Nat)
  deriving DecidableEq, Repr

/-- A leaf that a TLB may still hold: its context, the base address and size of its page, the entry (R345). -/
structure TlbEntry where
  place : TlbPlace
  pn : Nat
  ctx : Nat
  base : Nat
  size : Nat
  entry : Nat
  deriving DecidableEq, Repr

/-- A line of code as the instruction cache of a physical core holds it for a context (R2, R232, R335). -/
structure CodeLine where
  core : Nat
  pn : Nat
  ctx : Nat
  line : Nat
  bytes : List Byte
  deriving DecidableEq, Repr

/-! ### Copy commands (R288 to R305) -/

/-- How far a copy command has come: queued, begun, or its record written and its completion GT awaited. -/
inductive CopyStage where
  | queued | begun | recorded
  deriving DecidableEq, Repr

/-- A copy command in a block-transfer engine: its issuer, its ring, its descriptor as copied at issue. -/
structure Copy where
  id : Nat
  bid : Nat
  w : Nat
  pn : Nat
  ctx : Nat
  /-- The ring header, by virtual address and location, the token, and the record's location. -/
  ring : DWord
  hdr : Nat
  token : Word
  recAt : Nat
  kind : Nat
  raw : List Byte
  /-- The index array of a gather copy (R295). -/
  idx : List Nat
  /-- The windows a local source and local destinations lie in, with the offset of the first byte. -/
  src : Option (Nat × Nat)
  dsts : List (Nat × Nat)
  stage : CopyStage
  /-- Units moved, rising (an element, or 16 destination bytes of a one-dimensional copy); units of which some bytes have
  been moved, with those bytes as a mask. -/
  done : List Nat
  part : List (Nat × Nat)
  bytes : Nat
  /-- Destination bytes its energy reservations cover (R404). -/
  paid : Nat
  cgt : Nat
  dh : Bool
  deriving DecidableEq, Repr

/-- A line buffer of an engine: an image row, in the bytes that have been fetched (R294). -/
structure LineBuf where
  core : Nat
  pn : Nat
  ctx : Nat
  src : DWord
  rstride : DWord
  row : Nat
  bytes : List (Option Byte)
  deriving DecidableEq, Repr

/-! ### Matrix engines (R306 to R317) -/

/-- How far an entry of a reservation table has come: posted; chosen and waiting for energy; an operation in progress; a
pass in its first run or its rerun.  An operation in progress has the window of its block as it has read it: a granule
stored meanwhile is there in its old or its new content (R212). -/
inductive MxStage where
  | posted
  | chosen
  | working (win : List Host.Cell)
  | run (again : Bool) (win : List Host.Cell)
  deriving DecidableEq, Repr

/-- An entry of a cluster's reservation table (R308). -/
structure MxEntry where
  id : Nat
  bid : Nat
  /-- op5 of the word, its barrier, its address, the word, and its descriptor as read. -/
  op : Nat
  bar : Nat
  pc : DWord
  word : Word
  raw : List Byte
  gt : Nat
  skip : Nat
  /-- What its grant reserved (R311). -/
  cost : Nat
  stage : MxStage
  deriving DecidableEq, Repr

/-- The matrix engine of a logical cluster: owner, reservation table in posting order, sequencers that wait for the
table (R306, R308). -/
structure Engine where
  cluster : Nat
  owner : Option Nat
  entries : List MxEntry
  waiting : List Nat
  deriving DecidableEq, Repr

/-! ### Energy (R402 to R406, R411) -/

/-- What a request for energy is for (R404). -/
inductive EnergyFor where
  | matrix (entry : Nat)
  | copy (id : Nat)
  | vector (core quad : Nat)
  deriving DecidableEq, Repr

/-- A request for energy that waits at its cluster's arbiter (R405). -/
structure EnergyReq where
  cluster : Nat
  use : EnergyFor
  cost : Nat
  gt : Nat
  /-- The warps that a vector burst is held for. -/
  warps : List (Nat × Nat)
  deriving DecidableEq, Repr

/-! ### Churn, context switches, partitions, identity -/

/-- A churn move in progress: logical position of the island, source and destination cluster within it, and whether the
state has been transferred (R322). -/
structure Move where
  island : Nat
  pos : Nat
  src : Nat
  dst : Nat
  sent : Bool
  deriving DecidableEq, Repr

/-- A context switch in progress on a core: the contexts it takes out and brings in (R342). -/
structure Switch where
  core : Nat
  out : Option Nat
  into : Option Nat
  deriving DecidableEq, Repr

/-- A launch queue as last read (R332, R333). -/
structure Queue where
  die : Nat
  num : Nat
  head : Nat
  tail : Nat
  deriving DecidableEq, Repr

/-- Entry of the inbound window table (R367). -/
structure PeerWindow where
  src : Nat
  rd : Bool
  wr : Bool
  base : Nat
  size : Nat
  deriving DecidableEq, Repr

/-- What a core has done for a context since the last period end, or since the context came to run on it (R379). -/
structure TraceCount where
  core : Nat
  ctx : Nat
  since : Nat
  issue : Nat
  lanes : Nat
  bins : List Nat
  moved : Bool
  deriving DecidableEq, Repr

/-- A die's verified firmware: the digest of its running image (R412, R415). -/
structure Firmware where
  die : Nat
  digest : List Byte
  deriving DecidableEq, Repr

/-- An attestation report in progress (R415). -/
structure AttReq where
  pn : Nat
  buf : Nat
  /-- The GT at which the stores of the report are complete, once they are made (R260, R262). -/
  due : Option Nat
  deriving DecidableEq, Repr

/-- The boundary clock: the port of its source; the latest Announce of each port; the last Sync's arrival less its origin,
and the mean path delay, once they have been measured for this source (R369). -/
structure PtpClock where
  source : Option Nat
  heard : List (Nat × ClockData)
  diff : Option Int
  delay : Option Int
  deriving DecidableEq, Repr

/-! ### The whole machine -/

/-- Which copy of a control register is meant (R330 and the register tables of each chapter). -/
inductive CsrScope where
  | module
  | die (d : Nat)
  | part (p : Nat)
  | core (c : Nat)
  | ctx (p c : Nat)
  deriving DecidableEq, Repr

structure CsrKey where
  scope : CsrScope
  idx : Nat
  deriving DecidableEq, Repr

/-- The word a warp is issuing: its threads, its address, the word, and the hint before it (R60, R67). -/
structure Issue where
  bid : Nat
  w : Nat
  lanes : Mask
  pc : DWord
  word : Word
  hint : Option Word
  deriving DecidableEq, Repr

/-- A STEP in progress: the stepping warp, its threads and destination; the thread that steps (R200). -/
structure StepReq where
  bid : Nat
  w : Nat
  lanes : Mask
  /-- Bytes of the stepping word, with its hint. -/
  len : Nat
  d : VReg
  tbid : Nat
  tw : Nat
  lane : Nat
  started : Bool
  deriving DecidableEq, Repr

structure State where
  /-- Global time in ns (R2).  Its units agree within 4 ns; DESIGN CHOICE: all dies and cores have this one GT (log 66). -/
  gt : Nat
  /-- The model's own counter of free values drawn (log 4). -/
  free : Nat
  /-- The model's own: the word being issued (log 3). -/
  issue : Option Issue
  /-- The model's own: what arrives from outside, oldest first (log 3). -/
  inputs : List Instr
  /-- The model's own: the block whose sequencer executes the sequencer word (log 3). -/
  seqNow : Option Nat
  stepReq : Option StepReq
  blocks : List Block
  launches : List Launch
  ctxs : List Context
  csrs : List (CsrKey × Word)
  /-- Generation of each warp slot: core, slot and generation (R346). -/
  slotGens : List (Nat × Nat × BitVec 12)
  mem : List Host.Cell
  /-- Bytes of device DRAM with an uncorrectable soft error (R33). -/
  badMem : List Nat
  ops : List MemOp
  accs : List Access
  copies : List CopyLine
  leases : List (Nat × Nat)
  xleases : List XLease
  tlb : List TlbEntry
  /-- Lines of code in the instruction caches (R2, R232, R335). -/
  code : List CodeLine
  /-- Trap records waiting for a handler: core, quad, record (R347). -/
  records : List (Nat × Nat × TrapRecord)
  /-- The next number for an operation, an access, a block, a launch (the model's own). -/
  nextId : Nat
  /-- Lines of device memory the host may hold, oldest first; host accesses that wait (R361). -/
  snoops : List Nat
  hostReqs : List HostReq
  /-- Copy commands in issue order; line buffers, the most recently used first (R289, R294). -/
  cmds : List Copy
  lineBufs : List LineBuf
  /-- Barriers that have left their reset contents (R172). -/
  bars : List (BarRef × Barrier)
  /-- Task cards, launch queues of the slices, reservations of MakeRoom (R252, R275, R281). -/
  cards : List Card
  slices : List SliceEntry
  /-- Bins of the reorder units, the oldest first (R239). -/
  bins : List Bin
  resvs : List Reservation
  /-- The next binding generation (R275). -/
  cardGen : Nat
  /-- Physical clusters on the high rail (R403). -/
  rails : List Nat
  /-- Interrupt vectors raised, oldest first (R350). -/
  irqs : List Nat
  /-- Matrix engines with an entry, an owner or a waiting sequencer (R306). -/
  engines : List Engine
  /-- Energy by logical cluster: balances below the cap, requests oldest first, issues left of vector bursts by core and
  quad (R404, R405). -/
  energy : List (Nat × Int)
  ereqs : List EnergyReq
  bursts : List (Nat × Nat × Nat)
  /-- Refills each die has made: GT in tens of ns (R404). -/
  refills : List (Nat × Nat)
  /-- Telemetry: physical cluster, counter, value (R411). -/
  tele : List ((Nat × Nat) × Word)
  /-- Physical clusters with a stretched clock (R406). -/
  droops : List Nat
  /-- Logical clusters that await a rail switch, and to the high rail or not (R403). -/
  hops : List (Nat × Bool)
  /-- Churn moves in progress, and the GT up to which each island's ticks have been taken (R319). -/
  moves : List Move
  ticked : List (Nat × Nat)
  /-- The running context of each core, switches in progress, the standby context over each core, and the GT up to which
  each partition's slices have been counted (R341, R342). -/
  coreCtx : List (Nat × Nat)
  switches : List Switch
  cellar : List (Nat × Nat)
  sliced : List (Nat × Nat)
  /-- Launch queues read, and doorbells recorded while a die is held (R333, R393). -/
  queues : List Queue
  bells : List (Nat × Nat)
  /-- Trace counts of the contexts that have run on a core in the current period (R379). -/
  traces : List TraceCount
  /-- A context has been created since reset: the boot window is closed (R417). -/
  booted : Bool
  /-- Regions marked for scrubbing (R389), dies changed since their last shoot-down (R395), dies whose partition changed
  while held, with the partition each ran in before (R396). -/
  marks : List Nat
  changed : List Nat
  fresh : List (Nat × Nat)
  /-- Dies a second quiesce holds again while they are scrubbed (R396). -/
  reheld : List Nat
  /-- Verified firmware; the one-time attestation counter and the volatile count; a report in progress (R413 to R415). -/
  firmware : List Firmware
  /-- Dies whose image has been refused since reset (R413). -/
  refused : List Nat
  attStep : Nat
  attLow : Nat
  attReqs : List AttReq
  /-- The inbound window table; the last flit sequence received on each peer link (R367, R368). -/
  wtab : List PeerWindow
  flits : List (Nat × Nat)
  /-- GT has locked to a time source since reset (R370); what the boundary clock knows (R369). -/
  locked : Bool
  clock : PtpClock
  deriving DecidableEq, Repr

/-- The machine right after reset (R417): nothing is resident, no register has been written, memory is zero. -/
def State.reset : State where
  gt := 0
  free := 0
  issue := none
  inputs := []
  seqNow := none
  stepReq := none
  blocks := []
  launches := []
  ctxs := []
  csrs := []
  slotGens := []
  mem := []
  badMem := []
  ops := []
  accs := []
  copies := []
  leases := []
  xleases := []
  tlb := []
  code := []
  records := []
  nextId := 0
  snoops := []
  hostReqs := []
  cmds := []
  lineBufs := []
  bars := []
  cards := []
  slices := []
  bins := []
  resvs := []
  cardGen := 0
  rails := []
  irqs := []
  engines := []
  energy := []
  ereqs := []
  bursts := []
  refills := []
  tele := []
  droops := []
  hops := []
  moves := []
  ticked := []
  coreCtx := []
  switches := []
  cellar := []
  sliced := []
  queues := []
  bells := []
  traces := []
  booted := false
  marks := []
  changed := []
  fresh := []
  reheld := []
  firmware := []
  refused := []
  attStep := 0
  attLow := 0
  attReqs := []
  wtab := []
  flits := []
  locked := false
  clock := { source := none, heard := [], diff := none, delay := none }

end Sys2Proof.Machine
end

