-- ==== Sys2Proof/Machine/Crypto.lean ====
section
/-! DEFINITION. The hash and the signature scheme of secure boot: SHAKE256 (FIPS 202), and the verification of XMSS^MT with
SHAKE256, n = 32, height 40 in 4 layers (RFC 8391, NIST SP 800-208), as R412 names them
(spec/22_power_health_identity.md, R412; PRESUMED as to what those documents fix, log 12). -/

namespace Sys2Proof.Machine

/-! ### SHAKE256 -/

/-- The 25 lanes of Keccak-f[1600], lane x + 5y at place x + 5y. -/
abbrev Lanes64 := Vector (BitVec 64) 25

def lane64 (a : Lanes64) (i : Nat) : BitVec 64 := (a[i]?).getD 0

def lanes64 (f : Nat → BitVec 64) : Lanes64 := Vector.ofFn fun i => f i.val

/-- How far a lane is rotated. -/
def keccakTurns : List Nat :=
  [0, 1, 62, 28, 27, 36, 44, 6, 55, 20, 3, 10, 43, 25, 39, 41, 45, 15, 21, 8, 18, 2, 61, 56, 14]

def keccakConstants : List (BitVec 64) :=
  [0x0000000000000001, 0x0000000000008082, 0x800000000000808A, 0x8000000080008000, 0x000000000000808B, 0x0000000080000001,
   0x8000000080008081, 0x8000000000008009, 0x000000000000008A, 0x0000000000000088, 0x0000000080008009, 0x000000008000000A] ++
  [0x000000008000808B, 0x800000000000008B, 0x8000000000008089, 0x8000000000008003, 0x8000000000008002, 0x8000000000000080,
   0x000000000000800A, 0x800000008000000A, 0x8000000080008081, 0x8000000000008080, 0x0000000080000001, 0x8000000080008008]

/-- One round: the steps theta, rho and pi, chi, iota. -/
def keccakRound (a : Lanes64) (rc : BitVec 64) : Lanes64 :=
  let c := lanes64 fun x => lane64 a x ^^^ lane64 a (x + 5) ^^^ lane64 a (x + 10) ^^^ lane64 a (x + 15) ^^^ lane64 a (x + 20)
  let d := lanes64 fun x => lane64 c ((x + 4) % 5) ^^^ (lane64 c ((x + 1) % 5)).rotateLeft 1
  let t := lanes64 fun i => lane64 a i ^^^ lane64 d (i % 5)
  let b := lanes64 fun i =>
    let from' := (i % 5 + 3 * (i / 5)) % 5 + 5 * (i % 5)
    (lane64 t from').rotateLeft (keccakTurns.getD from' 0)
  lanes64 fun i =>
    let row := i / 5 * 5
    let v := lane64 b i ^^^ (~~~(lane64 b (row + (i + 1) % 5)) &&& lane64 b (row + (i + 2) % 5))
    if i = 0 then v ^^^ rc else v

def keccak (a : Lanes64) : Lanes64 := keccakConstants.foldl keccakRound a

/-- Eight bytes as a lane, the first the lowest. -/
def laneOfBytes (bs : List Byte) : BitVec 64 := bs.foldr (fun b v => (v <<< 8) ||| b.setWidth 64) 0

def bytesOfLane (v : BitVec 64) : List Byte := (List.range 8).map fun i => (v >>> (8 * i)).setWidth 8

/-- Takes one block of 136 bytes. -/
def absorb (a : Lanes64) (block : List Byte) : Lanes64 :=
  keccak (lanes64 fun i => if i < 17 then lane64 a i ^^^ laneOfBytes ((block.drop (8 * i)).take 8) else lane64 a i)

/-- The message with the padding of SHAKE256. -/
def shakePad (m : List Byte) : List Byte :=
  let n := 136 - m.length % 136
  m ++ (if n = 1 then [0x9F#8] else 0x1F#8 :: List.replicate (n - 2) 0 ++ [0x80#8])

def absorbAll (m : List Byte) : Nat → Lanes64 → Lanes64
  | 0, a => a
  | n + 1, a => absorbAll (m.drop 136) n (absorb a (m.take 136))

/-- SHAKE256 with 256 bits of output. -/
def shake256 (m : List Byte) : List Byte :=
  let p := shakePad m
  let a := absorbAll p (p.length / 136) (Vector.replicate 25 0)
  (List.range 4).flatMap fun i => bytesOfLane (lane64 a i)

/-! ### XMSS^MT -/

/-- n bytes of a number, the highest first. -/
def beBytes (n v : Nat) : List Byte := (List.range n).map fun i => BitVec.ofNat 8 (v / 256 ^ (n - 1 - i))
def beNat (bs : List Byte) : Nat := bs.foldl (fun v b => 256 * v + b.toNat) 0

def xorBytes (a b : List Byte) : List Byte := a.zipWith (· ^^^ ·) b

/-- The keyed functions F, H, H_msg and PRF, numbered 0 to 3. -/
def xmssHash (k : Nat) (key m : List Byte) : List Byte := shake256 (beBytes 32 k ++ key ++ m)

/-- An address: layer, tree, type, and three words that the type gives their meaning. -/
structure XmssAdrs where
  layer : Nat
  tree : Nat
  kind : Nat
  a : Nat
  b : Nat
  c : Nat

/-- The pseudorandom bytes of an address, for the key (0) or a mask (1, 2). -/
def XmssAdrs.prf (x : XmssAdrs) (seed : List Byte) (use : Nat) : List Byte :=
  xmssHash 3 seed (beBytes 4 x.layer ++ beBytes 8 x.tree ++ beBytes 4 x.kind ++ beBytes 4 x.a ++ beBytes 4 x.b ++
    beBytes 4 x.c ++ beBytes 4 use)

/-- The parent of two nodes. -/
def randHash (seed : List Byte) (x : XmssAdrs) (l r : List Byte) : List Byte :=
  xmssHash 1 (x.prf seed 0) (xorBytes l (x.prf seed 1) ++ xorBytes r (x.prf seed 2))

/-- n steps of a chain from place i on. -/
def wotsChain (seed : List Byte) (x : XmssAdrs) : Nat → Nat → List Byte → List Byte
  | 0, _, v => v
  | n + 1, i, v =>
    let y := { x with c := i }
    wotsChain seed x n (i + 1) (xmssHash 0 (y.prf seed 0) (xorBytes v (y.prf seed 1)))

/-- The 67 digits of a digest: 64 of its own, and three of their checksum. -/
def wotsDigits (m : List Byte) : List Nat :=
  let ds := m.flatMap fun b => [b.toNat / 16, b.toNat % 16]
  let sum := (ds.map fun d => 15 - d).sum
  ds ++ [sum / 256 % 16, sum / 16 % 16, sum % 16]

/-- One level of an L-tree; the last of an odd number goes up as it is. -/
def ltreeLevel (seed : List Byte) (x : XmssAdrs) : Nat → List (List Byte) → List (List Byte)
  | i, l :: r :: rest => randHash seed { x with c := i } l r :: ltreeLevel seed x (i + 1) rest
  | _, rest => rest

/-- The root of an L-tree of at most 2^n leaves, from level h on. -/
def ltree (seed : List Byte) (x : XmssAdrs) : Nat → Nat → List (List Byte) → List Byte
  | 0, _, ns => ns.headD []
  | n + 1, h, ns => ltree seed x n (h + 1) (ltreeLevel seed { x with b := h } 0 ns)

/-- The path from a leaf to the root of a tree of ten levels. -/
def xmssPath (seed : List Byte) (x : XmssAdrs) : List (List Byte) → Nat → Nat → List Byte → List Byte
  | [], _, _, v => v
  | p :: rest, h, i, v =>
    let y := { x with b := h, c := i / 2 }
    xmssPath seed x rest (h + 1) (i / 2) (if i % 2 = 0 then randHash seed y v p else randHash seed y p v)

/-- n pieces of 32 bytes. -/
def pieces32 (n : Nat) (bs : List Byte) : List (List Byte) := (List.range n).map fun i => (bs.drop (32 * i)).take 32

/-- The root that the signature of one layer leads to. -/
def xmssRoot (seed : List Byte) (layer tree leaf : Nat) (sig m : List Byte) : List Byte :=
  let adrs (kind a : Nat) : XmssAdrs := ⟨layer, tree, kind, a, 0, 0⟩
  let pk := ((pieces32 67 sig).zip (wotsDigits m)).mapIdx fun i (v, d) =>
    wotsChain seed { adrs 0 leaf with b := i } (15 - d) d v
  xmssPath seed (adrs 2 0) (pieces32 10 (sig.drop (32 * 67))) 0 leaf (ltree seed (adrs 1 leaf) 7 0 pk)

/-- The layers that remain, from a node and the index of its tree upward. -/
def xmssLayers (seed sigs : List Byte) : Nat → Nat → Nat → List Byte → List Byte
  | 0, _, _, v => v
  | n + 1, layer, idx, v =>
    xmssLayers seed (sigs.drop 2464) n (layer + 1) (idx / 1024)
      (xmssRoot seed layer (idx / 1024) (idx % 1024) (sigs.take 2464) v)

/-- A signature of 9,893 bytes verifies over a message, under a key of 64 bytes: the root and the public seed. -/
def xmssVerify (key m sig : List Byte) : Bool :=
  let root := key.take 32
  let idx := beNat (sig.take 5)
  let digest := xmssHash 2 ((sig.drop 5).take 32 ++ root ++ beBytes 32 idx) m
  decide (sig.length = 9893) && xmssLayers ((key.drop 32).take 32) (sig.drop 37) 4 0 idx digest == root

end Sys2Proof.Machine
end

