-- ==== Sys2Proof/Machine/Ops.lean ====
section
/-! DEFINITION. The named operations over the state: lanes, memory, blocks and warps, control registers, physical
places, taking a trap and returning from a handler (spec/01_machine_state.md, R10 to R36; spec/18_launch_contexts_faults.md,
R343 to R351). -/

namespace Sys2Proof.Machine

abbrev Result := Host.Outcome State Fault Refusal

/-! ### Lanes -/

/-- The lanes of a warp, ascending. -/
def allLanes : List Lane := List.finRange 32

/-- A value for every lane. -/
def lanesOf {α : Type} (f : Lane → α) : Vector α 32 := ⟨⟨allLanes.map f⟩, by simp [allLanes]⟩

/-- Lane l is in the set. -/
def inMask (m : Mask) (l : Lane) : Bool := m.getLsbD l.val

def maskOf (f : Lane → Bool) : Mask :=
  allLanes.foldl (fun m l => if f l then m ||| (1#32 <<< l.val) else m) 0

def lanesIn (m : Mask) : List Lane := allLanes.filter (inMask m)

/-- Hi(lane set): the highest-numbered lane (R91). -/
def hiLane (m : Mask) : Option Lane := (lanesIn m).getLast?

/-- A list in the order of `le`; elements it does not separate stay in theirs. -/
def insertBy {α : Type} (le : α → α → Bool) (a : α) : List α → List α
  | [] => [a]
  | b :: rest => if le a b then a :: b :: rest else b :: insertBy le a rest

def sortBy {α : Type} (le : α → α → Bool) (l : List α) : List α := l.foldr (insertBy le) []

/-- Inserts into a rising list. -/
def insertRising (n : Nat) : List Nat → List Nat
  | [] => [n]
  | a :: rest => if n < a then n :: a :: rest else if n = a then a :: rest else a :: insertRising n rest

/-! Association lists by number. -/

def numLookup {α : Type} (l : List (Nat × α)) (k : Nat) : Option α := (l.find? fun e => e.1 == k).map (·.2)
def numSet {α : Type} (l : List (Nat × α)) (k : Nat) (v : α) : List (Nat × α) := (k, v) :: l.filter fun e => e.1 != k
def numErase {α : Type} (l : List (Nat × α)) (k : Nat) : List (Nat × α) := l.filter fun e => e.1 != k

/-- A register file with every register zero. -/
def zeroRegs (n : Nat) : Vector Word n := Vector.replicate n 0

/-! ### Memory: one canonical list of (location, byte) (R4, R417)

A location is a byte of the DRAM of a die, at 72 GiB × die + its die-local address (R390); host and CXL-attached memory lies at 2^52 + its address, and the
memory of peer module m at 2^52 × (2 + m) + its address. -/

/-- What an unlisted location reads as (R417 zeroes device DRAM; host and peer memory by log 5). -/
def defaultByte : Byte := 0

def memRead : List Host.Cell → Nat → Byte
  | [], _ => defaultByte
  | (a, b) :: rest, x => if a = x then b else if x < a then defaultByte else memRead rest x

/-- The cell of a location, or nothing where the value is the default. -/
def cellOf (x : Nat) (v : Byte) : List Host.Cell := if v = defaultByte then [] else [(x, v)]

def memWrite : List Host.Cell → Nat → Byte → List Host.Cell
  | [], x, v => cellOf x v
  | (a, b) :: rest, x, v =>
    if a = x then cellOf x v ++ rest
    else if x < a then cellOf x v ++ (a, b) :: rest
    else (a, b) :: memWrite rest x v

/-- The canonical form: locations strictly rising, no entry at the default. -/
def memWf : List Host.Cell → Bool
  | [] => true
  | [(_, b)] => b != defaultByte
  | (a, b) :: (a', b') :: rest => b != defaultByte && decide (a < a') && memWf ((a', b') :: rest)

def memWriteAll (m : List Host.Cell) : List Host.Cell → List Host.Cell
  | [] => m
  | (x, v) :: rest => memWriteAll (memWrite m x v) rest

/-- n bytes from a location upward. -/
def memBytes (m : List Host.Cell) (x n : Nat) : List Byte := (List.range n).map fun i => memRead m (x + i)

/-- Little-endian (R4): the number n bytes stand for. -/
def bytesToNat : List Byte → Nat
  | [] => 0
  | b :: rest => b.toNat + 256 * bytesToNat rest

def natToBytes : Nat → Nat → List Byte
  | 0, _ => []
  | n + 1, v => BitVec.ofNat 8 v :: natToBytes n (v / 256)

/-- The n bytes of a value placed from a location upward. -/
def cellsAt (x n v : Nat) : List Host.Cell := (natToBytes n v).mapIdx fun i b => (x + i, b)

def memLoad (m : List Host.Cell) (x n : Nat) : Nat := bytesToNat (memBytes m x n)
def memStore (m : List Host.Cell) (x n v : Nat) : List Host.Cell := memWriteAll m (cellsAt x n v)

def State.load (s : State) (x n : Nat) : Nat := memLoad s.mem x n

/-- Some of these bytes hold an uncorrectable soft error (R33). -/
def State.badAt (s : State) (x n : Nat) : Bool := s.badMem.any fun a => decide (x ≤ a ∧ a < x + n)

/-- Stores cells: a byte that is stored holds no soft error any more. -/
def State.storeCells (s : State) (cs : List Host.Cell) : State :=
  { s with mem := memWriteAll s.mem cs, badMem := s.badMem.filter fun a => !(cs.any fun c => c.1 == a) }
def State.store (s : State) (x n v : Nat) : State := s.storeCells (cellsAt x n v)
def State.store16 (s : State) (x : Nat) (vs : List (Nat × Nat)) : State :=
  vs.foldl (fun s (n, v) => s.store x n v) s

/-- The locations of host and CXL-attached memory, and of peer module m. -/
def hostLoc (pa : Nat) : Nat := 2 ^ 52 + pa
def peerLoc (m pa : Nat) : Nat := 2 ^ 52 * (2 + m) + pa
def isDeviceLoc (x : Nat) : Bool := x < 2 ^ 52
def isHostLoc (x : Nat) : Bool := 2 ^ 52 ≤ x && x < 2 ^ 53
def isPeerLoc (x : Nat) : Bool := 2 ^ 53 ≤ x

/-- Bytes of one region: 72 GiB (R385). -/
def regionBytes : Nat := 72 * 2 ^ 30
/-- Device DRAM of the module: 288 GiB (R2, R385). -/
def deviceBytes : Nat := 4 * regionBytes

/-! ### Blocks and warps -/

def State.block? (s : State) (bid : Nat) : Option Block := s.blocks.find? fun b => b.bid == bid

def State.modBlock (s : State) (bid : Nat) (f : Block → Block) : State :=
  { s with blocks := s.blocks.map fun b => if b.bid == bid then f b else b }

def Block.warp? (b : Block) (w : Nat) : Option Warp := b.warps[w]?

def Block.modWarp (b : Block) (w : Nat) (f : Warp → Warp) : Block := { b with warps := b.warps.modify w f }

def State.warp? (s : State) (bid w : Nat) : Option Warp :=
  match s.block? bid with
  | some b => b.warp? w
  | none => none

def State.modWarp (s : State) (bid w : Nat) (f : Warp → Warp) : State := s.modBlock bid fun b => b.modWarp w f

def Warp.thread (w : Warp) (l : Lane) : Thread := w.threads[l]

def Warp.modThreads (w : Warp) (f : Lane → Thread → Thread) : Warp :=
  { w with threads := lanesOf fun l => f l (w.thread l) }

def State.modThread (s : State) (bid w : Nat) (l : Lane) (f : Thread → Thread) : State :=
  s.modWarp bid w fun x => x.modThreads fun k t => if k = l then f t else t

def State.launch? (s : State) (lid : Nat) : Option Launch := s.launches.find? fun l => l.lid == lid
def State.modLaunch (s : State) (lid : Nat) (f : Launch → Launch) : State :=
  { s with launches := s.launches.map fun l => if l.lid == lid then f l else l }

def State.ctx? (s : State) (pn c : Nat) : Option Context := s.ctxs.find? fun x => x.pn == pn && x.ctx == c
def State.modCtx (s : State) (pn c : Nat) (f : Context → Context) : State :=
  { s with ctxs := s.ctxs.map fun x => if x.pn == pn && x.ctx == c then f x else x }

def Block.resident (b : Block) : Bool :=
  match b.life with
  | .placed | .running | .stopped | .moving | .halted => true
  | _ => false

def Block.isSteward (b : Block) : Bool := match b.kind with | .steward _ => true | _ => false

def Block.halted (b : Block) : Bool :=
  match b.life with
  | .halted => true
  | .moving => b.stopFor == some .halt
  | .switchedOut h => h
  | _ => false

/-! ### Threads -/

def newThread (pc : DWord) (v : Vector Word 128) : Thread where
  pc := pc
  v := v
  p := 0
  ports := Vector.replicate 4 none
  fpflags := 0
  life := .run
  held := false
  gwait := 0
  yielded := false
  exempt := false
  hangKept := 0
  kept := none

/-- A predicate, p7 reading true (R13). -/
def Thread.pred (t : Thread) (p : PReg) : Bool := p == 7 || t.p.getLsbD p.toNat

/-- Writing a predicate; a write to p7 is ignored (R13). -/
def Thread.setPred (t : Thread) (p : PReg) (b : Bool) : Thread :=
  if p = 7 then t
  else { t with p := (t.p &&& ~~~(1#7 <<< p.toNat)) ||| ((BitVec.ofBool b).setWidth 7 <<< p.toNat) }

def Thread.reg (t : Thread) (r : VReg) : Word := t.v[r.toNat]
def Thread.setReg (t : Thread) (r : VReg) (x : Word) : Thread := { t with v := t.v.set r.toNat x }

def Thread.flag (t : Thread) (f : Flags) : Thread := { t with fpflags := raiseFlags t.fpflags f }

def Thread.ended (t : Thread) : Bool := match t.life with | .ended => true | _ => false
def Thread.asleep (t : Thread) : Option Sleep := match t.life with | .asleep z => some z | _ => none
def Thread.running (t : Thread) : Bool := match t.life with | .run => true | _ => false

/-- A uniform register, w0 reading zero (R18). -/
def Warp.uni (w : Warp) (r : WReg) : Word := if r = 0 then 0 else w.w[r.toNat]
def Warp.setUni (w : Warp) (r : WReg) (x : Word) : Warp := if r = 0 then w else { w with w := w.w.set r.toNat x }

/-- A mask register; the caller has checked k below 12 (R18). -/
def Warp.mask (w : Warp) (k : Fin 12) : Mask := w.m[k]
def Warp.setMask (w : Warp) (k : Fin 12) (x : Mask) : Warp := { w with m := w.m.set k.val x }
def Warp.arr (w : Warp) (k : Fin 12) : Mask := w.a[k]
def Warp.setArr (w : Warp) (k : Fin 12) (x : Mask) : Warp := { w with a := w.a.set k.val x }

/-! ### Places: dies, islands, clusters, cores (R2, R10, R26, R28, R321, R384)

A core is numbered module-wide by its logical place: 128 × die + 16 × island + 4 × position + core.  The steward core of a
die, which no island holds, is numbered 512 + die (log 12). -/

def csrLookup : List (CsrKey × Word) → CsrKey → Option Word
  | [], _ => none
  | (k, v) :: rest, x => if k = x then some v else csrLookup rest x

def csrUpdate : List (CsrKey × Word) → CsrKey → Word → List (CsrKey × Word)
  | [], x, v => [(x, v)]
  | (k, w) :: rest, x, v => if k = x then (x, v) :: rest else (k, w) :: csrUpdate rest x v

/-- The reset values of the control registers that have one other than 0 (R258, R318, R321, R330, R353, R371, R379,
R383, R401).  A register is stored once it has been written. -/
def csrReset (k : CsrKey) : Word :=
  let i := k.idx
  if i = 0x0210 then 500
  else if i = 0x0220 then 0x800003E8
  else if 0x0228 ≤ i ∧ i < 0x0248 then 0x20000688
  else if i = 0x03C2 then 4
  else if i = 0x03C8 then (match k.scope with | .part p => BitVec.ofNat 32 (512 * p) | _ => 0)
  else if i = 0x03D0 then 1000000
  else if i = 0x0400 then 1000
  else if 0x0500 ≤ i ∧ i < 0x0504 then 0x20000000
  else if i = 0x0508 then 0xF
  else if i = 0x0530 then 0x00800000
  else if i = 0x0531 then 0x3E000000
  else if i = 0x0652 then 0x80064
  else if i = 0x0656 then 16
  else if i = 0x0700 then 0xE4
  else if i = 0x0702 then 0xF0
  else if 0x0704 ≤ i ∧ i < 0x0708 then BitVec.ofNat 32 (2 ^ (i - 0x0704))
  else if 0x0710 ≤ i ∧ i < 0x0714 then 0x1010
  else if 0x0800 ≤ i ∧ i < 0x0820 then 0x12C
  else if i = 0x0820 then 4096
  else 0

def State.csr (s : State) (sc : CsrScope) (i : Nat) : Word :=
  (csrLookup s.csrs ⟨sc, i⟩).getD (csrReset ⟨sc, i⟩)

/-- The die is held (R392, R393). -/
def State.dieHeld (s : State) (d : Nat) : Bool := (s.csr .module 0x0701).getLsbD d

def State.setCsr (s : State) (sc : CsrScope) (i : Nat) (v : Word) : State :=
  { s with csrs := csrUpdate s.csrs ⟨sc, i⟩ v }

/-- The cluster of a core is in a churn move (R322). -/
def State.moveOf (s : State) (core : Nat) : Bool :=
  s.moves.any fun m => 4 * m.island + m.pos == core / 4

/-- The partition that holds a die (R384). -/
def State.pnOfDie (s : State) (d : Nat) : Nat := (s.csr .module 0x0700).toNat / 4 ^ d % 4

def dieOfCore (c : Nat) : Nat := if c < 512 then c / 128 else c - 512
def stewardCore (die : Nat) : Nat := 512 + die
def clusterOfCore (c : Nat) : Nat := c / 4
def islandOfCore (c : Nat) : Nat := c / 16

/-- The dies of a partition. -/
def State.diesOf (s : State) (pn : Nat) : List Nat := (List.range 4).filter fun d => s.pnOfDie d == pn

/-- The logical cores of a partition, ascending (R28). -/
def State.coresOf (s : State) (pn : Nat) : List Nat :=
  (s.diesOf pn).flatMap fun d => (List.range 128).map fun i => 128 * d + i

/-- The physical cluster of its island that a logical cluster lies on (R321). -/
def State.physInIsland (s : State) (c : Nat) : Nat :=
  (s.csr (.die (dieOfCore c)) (0x0228 + islandOfCore c)).toNat / 8 ^ (c / 4 % 4) % 8

/-- sr.pclu: die × 40 + island × 5 + cluster (R26); a steward core lies in none of them. -/
def State.physCluster (s : State) (c : Nat) : Nat :=
  if c < 512 then 40 * dieOfCore c + 5 * (islandOfCore c % 8) + s.physInIsland c else 160 + dieOfCore c

/-- sr.pcore: die × 160 + island × 20 + cluster × 4 + core (R26); a steward core comes after them all. -/
def State.physCore (s : State) (c : Nat) : Nat :=
  if c < 512 then 160 * dieOfCore c + 20 * (islandOfCore c % 8) + 4 * s.physInIsland c + c % 4 else 640 + dieOfCore c

/-- The die of a core by its physical number. -/
def dieOfPhys (c : Nat) : Nat := if c < 640 then c / 160 else c - 640

/-- The dies whose queues a partition has used: those it holds, and in place of a held die's partition the one it ran in
before (R396). -/
def State.ranIn (s : State) (pn : Nat) : List Nat :=
  (List.range 4).filter fun d => (numLookup s.fresh d).getD (s.pnOfDie d) == pn

/-! ### Warp handles (R346) -/

/-- The handle of a warp: context, logical core, slot, handler bit and generation. -/
def handleOf (b : Block) (w : Warp) : Word :=
  let lcore := (b.core - 128 * b.pn) % 512
  match b.kind with
  | .handler _ quad _ =>
    BitVec.ofNat 32 (2 ^ 28 * b.ctx + 2 ^ 19 * lcore + 2 ^ 13 * (16 * quad) + 2 ^ 12 + w.gen.toNat)
  | _ => BitVec.ofNat 32 (2 ^ 28 * b.ctx + 2 ^ 19 * lcore + 2 ^ 13 * w.slot + w.gen.toNat)

/-! ### Trap codes, their order, records (R33, R34, R348) -/

def TrapCode.num : TrapCode → Byte
  | .illegal => 0x01 | .regRange => 0x02 | .maskRange => 0x03 | .priv => 0x04 | .capInvalid => 0x05
  | .capPerm => 0x06 | .progress => 0x07 | .barrierOverrun => 0x08 | .copyRights => 0x09 | .copyRange => 0x0A
  | .xlate => 0x0B | .memPerm => 0x0C | .memAlign => 0x0D | .stream => 0x0E | .seq => 0x0F | .watchdog => 0x10
  | .bkpt => 0x11 | .watchpt => 0x12 | .swtrap => 0x13 | .ecc => 0x14 | .launch => 0x15

/-- The order of R34. -/
def TrapCode.rank : TrapCode → Nat
  | .illegal => 1 | .priv => 2 | .regRange => 3 | .maskRange => 4 | .capInvalid => 5 | .capPerm => 6
  | .copyRights => 7 | .stream => 8 | .memAlign => 9 | .xlate => 10 | .memPerm => 11 | .copyRange => 12 | .seq => 13
  | .ecc => 14 | .progress => 15 | .barrierOverrun => 16 | .bkpt => 17 | .watchpt => 18
  | .watchdog => 19 | .swtrap => 20 | .launch => 21

/-- The first of several conditions: the least rank, then the earliest in the list. -/
def firstCause : List (Lane × Cause) → Option (Lane × Cause)
  | [] => none
  | (l, c) :: rest =>
    match firstCause rest with
    | none => some (l, c)
    | some (l', c') => if c'.code.rank < c.code.rank then some (l', c') else some (l, c)

/-- The record's sixteen words without CHK (R348). -/
def TrapRecord.body (r : TrapRecord) : List Word :=
  [r.lane ++ r.kind ++ r.sub ++ r.code, r.handle, r.pc.setWidth 32, r.pc.extractLsb' 32 32,
   r.addr.setWidth 32, r.addr.extractLsb' 32 32, r.detail, r.lanes, r.gt.setWidth 32, r.gt.extractLsb' 32 32,
   r.word, r.hint, r.blk, r.kern, 0]

/-- The record as the handler receives it: CHK is the XOR of words 0 to 14. -/
def TrapRecord.words (r : TrapRecord) : List Word := r.body ++ [r.body.foldl (· ^^^ ·) 0]

/-! ### Drawing free values (log 4) -/

def State.drawBits (s : State) : BitVec 128 × State := (Config.freeBits s.free, { s with free := s.free + 1 })

/-- A free choice among n candidates; a single candidate draws nothing. -/
def State.drawPick (s : State) (n : Nat) : Nat × State :=
  if n ≤ 1 then (0, s) else (Config.freePick s.free % n, { s with free := s.free + 1 })

/-! ### Reaching host and peer memory (R359, R360, R364) -/

/-- The port that carries an access to host memory (R360): none while PORTS is 0. -/
def State.hostPort (s : State) (loc : Nat) : Option Nat :=
  let route := (s.csr .module 0x0508).toNat
  let ports := (List.range 4).filter fun p => route / 2 ^ p % 2 == 1
  ports[loc % 2 ^ 52 / 2 ^ (8 + min 8 (route / 16 % 16)) % max 1 ports.length]?

def State.portUp (s : State) (p : Nat) : Bool := (s.csr .module (0x0500 + p)).getLsbD 31

/-- The peer link that carries an access: the trained links to the module, shared by line address (R364). -/
def State.peerLink (s : State) (loc : Nat) : Option Nat :=
  let m := loc / 2 ^ 52 - 2
  let links := (List.range 16).filter fun k =>
    let st := (s.csr .module (0x0520 + k)).toNat
    st / 2 ^ 31 == 1 && st % 65536 == m
  links[loc % 2 ^ 52 / 64 % max 1 links.length]?

/-- Whether the place answers: device memory always, host memory through an UP port, peer memory through a link. -/
def State.reachable (s : State) (loc : Nat) : Bool :=
  if isDeviceLoc loc then true
  else if isHostLoc loc then (s.hostPort loc).elim false s.portUp
  else (s.peerLink loc).isSome

/-- A saturating error counter (R353). -/
def State.countError (s : State) (idx : Nat) : State :=
  let v := s.csr .module idx
  s.setCsr .module idx (if v = 0xFFFFFFFF then v else v + 1)

/-- Records a failed request to host or peer memory (R359, R364). -/
def State.failedAt (s : State) (loc : Nat) : State :=
  if isDeviceLoc loc then s
  else if isHostLoc loc then (match s.hostPort loc with | some p => s.countError (0x0504 + p) | none => s)
  else match s.peerLink loc with
    | some k => s.countError (0x0540 + k)
    | none => s.countError 0x0550

/-! ### Homes (R390, R391) -/

def lineOf (loc : Nat) : Nat := loc / 64

/-- The dies of a SET of MEM_IVL, ascending. -/
def diesOfSet (set : Nat) : List Nat := (List.range 4).filter fun d => set / 2 ^ d % 2 == 1

/-- The dies of MEM_IVL of a region. -/
def State.setOf (s : State) (r : Nat) : List Nat := diesOfSet ((s.csr .module (0x0704 + r)).toNat % 16)

/-- Home of a device physical address: die and die-local address (R390). -/
def State.home (s : State) (pa : Nat) : Nat × Nat :=
  let r := pa / regionBytes
  let o := pa % regionBytes
  let g := (s.csr .module (0x0704 + r)).toNat / 16 % 8
  let n := 12 + (if g = 7 then 0 else g)
  let dies := s.setOf r
  let k := max 1 dies.length
  let c := o / 2 ^ n
  let idx := (dies.idxOf? r).getD 0
  ((dies[c % k]?).getD r, idx * (regionBytes / k) + c / k * 2 ^ n + o % 2 ^ n)

/-- The location of a device physical address: its byte of the DRAM of its home (R390). -/
def State.devLoc (s : State) (pa : Nat) : Nat := let h := s.home pa; regionBytes * h.1 + h.2

/-- The home die of a device location. -/
def homeDie (loc : Nat) : Nat := loc / regionBytes

/-- The home slice of one, numbered module-wide: 32 × die + Bits(local, 12, 8) (R390). -/
def homeSlice (loc : Nat) : Nat := 32 * homeDie loc + loc % regionBytes / 256 % 32

/-- The location lies in a slab of region r (R390). -/
def State.inRegion (s : State) (r loc : Nat) : Bool :=
  let dies := s.setOf r
  let k := max 1 dies.length
  decide (loc < deviceBytes) && (if dies.isEmpty then homeDie loc == r else dies.contains (homeDie loc)) &&
    loc % regionBytes / (regionBytes / k) == (dies.idxOf? r).getD 0

/-- Where the structures that software names by physical address lie: device DRAM below its size, else host memory
(log 6). -/
def State.physLoc (s : State) (a : Nat) : Nat := if a < deviceBytes then s.devLoc a else hostLoc (a % 2 ^ 52)

/-- The bit of WELT_OPEN for the boundary between two dies (R391). -/
def weltBit (a b : Nat) : Nat :=
  match min a b with
  | 0 => max a b - 1
  | 1 => max a b + 1
  | _ => 5

/-- Traffic of a die for a device location would cross a closed boundary: it is dropped there (R391). -/
def State.barredDie (s : State) (die loc : Nat) : Bool :=
  isDeviceLoc loc && homeDie loc != die && !(s.csr .module 0x0708).getLsbD (weltBit die (homeDie loc))

/-- Traffic of a core; that of a steward core crosses closed boundaries (R391). -/
def State.barred (s : State) (core loc : Nat) : Bool := decide (core < 512) && s.barredDie (dieOfCore core) loc

/-! ### Address translation (R31, R343 to R345, R386) -/

/-- What an access does, for the permission it needs. -/
inductive Need where
  | none | read | write | readWrite | execute
  /-- DISC.l1: read permission of the page, SEND of a peer window (R159, R366). -/
  | drop
  deriving DecidableEq, Repr

/-- A page-table entry's fields (R343). -/
def pteV (e : Nat) : Bool := e % 2 == 1
def pteLeaf (e : Nat) : Bool := e / 2 % 2 == 1
def pteR (e : Nat) : Bool := e / 16 % 2 == 1
def pteW (e : Nat) : Bool := e / 32 % 2 == 1
def pteX (e : Nat) : Bool := e / 64 % 2 == 1
/-- The residency class (R261). -/
def pteCls (e : Nat) : Nat := e / 128 % 4
def pteMT (e : Nat) : Nat := e / 512 % 4
def ptePA (e : Nat) : Nat := e / 65536 % 2 ^ 36 * 65536
/-- The bits that must be zero in every entry: [63:52], [15:11], [3:2]. -/
def pteReserved (e : Nat) : Bool := e / 2 ^ 52 != 0 || e / 2 ^ 11 % 32 != 0 || e / 4 % 4 != 0

/-- Whether a device physical address lies in a region of the partition (R386). -/
def State.ownsPa (s : State) (pn pa : Nat) : Bool :=
  pa < deviceBytes && s.pnOfDie (pa / regionBytes) == pn

/-- Whether the structures that software names by physical address may lie here: in the partition's regions, or in host
memory (R385; log 6). -/
def State.mayUse (s : State) (pn a n : Nat) : Bool := decide (deviceBytes ≤ a) || (s.ownsPa pn a && s.ownsPa pn (a + n - 1))

/-- One level of the walk of a core or of another unit: the entry, or none where it is invalid or breaks R344.  One that
lies beyond a closed boundary is not read: the model takes it for invalid (R391; DESIGN CHOICE, log 73). -/
def State.walkEntry (s : State) (core : Option Nat) (pn tab idx : Nat) : Option Nat :=
  let loc := s.devLoc (tab + 8 * idx)
  if s.ownsPa pn tab && !(core.elim false fun c => s.barred c loc) then
    let e := s.load loc 8
    if pteV e && !pteReserved e then some e else none
  else none

/-- A non-leaf entry: LEAF clear and bits [10:2] zero (R344). -/
def pteTable (e : Nat) : Bool := !pteLeaf e && e / 4 % 512 == 0

/-- The walk of R344: the leaf and the size of its page in bytes. -/
def State.walk (s : State) (core : Option Nat) (pn root va : Nat) : Option (Nat × Nat) := do
  let e1 ← s.walkEntry core pn root (va / 2 ^ 55 % 32)
  if !pteTable e1 then none
  let e2 ← s.walkEntry core pn (ptePA e1) (va / 2 ^ 42 % 8192)
  if !pteTable e2 then none
  let e3 ← s.walkEntry core pn (ptePA e2) (va / 2 ^ 29 % 8192)
  if pteLeaf e3 then
    if ptePA e3 % 2 ^ 29 = 0 then some (e3, 2 ^ 29) else none
  else if !pteTable e3 then none
  else
    let e4 ← s.walkEntry core pn (ptePA e3) (va / 2 ^ 16 % 8192)
    if pteLeaf e4 then some (e4, 2 ^ 16) else none

/-- The leaf the page tables of a context give (R343, R344). -/
def State.walkLeaf (s : State) (core : Option Nat) (pn ctx va : Nat) : Option (Nat × Nat) :=
  match s.ctx? pn ctx with
  | some c => if c.valid then s.walk core pn c.ptroot va else none
  | none => none

/-- The leaf of an address that one of some TLBs may still hold. -/
def State.tlbLeaf (s : State) (at' : TlbPlace → Bool) (pn ctx va : Nat) : Option (Nat × Nat) :=
  (s.tlb.find? fun t => at' t.place && t.pn == pn && t.ctx == ctx && va / t.size == t.base / t.size).map fun t =>
    (t.entry, t.size)

/-- The TLBs a translation goes through: those of the core, or, for a unit of the module that is no core's, any (log 10). -/
def State.tlbsOf (s : State) (core : Option Nat) (p : TlbPlace) : Bool :=
  match core with
  | none => true
  | some c => p == .core (s.physCore c) || p == .cluster (s.physCluster c)

def State.cachedLeaf (s : State) (core : Option Nat) (pn ctx va : Nat) : Option (Nat × Nat) :=
  s.tlbLeaf (s.tlbsOf core) pn ctx va

/-- The leaf a translation uses: where a TLB may still hold another than the walk gives, the old one or the new one
(R345; log 10). -/
def State.leafOf (s : State) (core : Option Nat) (pn ctx va : Nat) : Option (Nat × Nat) :=
  let new := s.walkLeaf core pn ctx va
  match s.cachedLeaf core pn ctx va with
  | none => new
  | some old => if new = some old then new else if Config.oldLeaf s.free va then some old else new

/-- How many leaves a TLB holds (R2). -/
def TlbPlace.room : TlbPlace → Nat
  | .core _ => 192
  | .cluster _ => 4096

/-- A full TLB gives up one of its leaves, whichever it is. -/
def State.trimTlb (s : State) (p : TlbPlace) : State :=
  let mine := s.tlb.filter fun t => t.place == p
  if mine.length < p.room then s
  else
    let (k, s) := s.drawPick mine.length
    match mine[k]? with
    | some t => { s with tlb := s.tlb.filter fun u => u != t }
    | none => s

/-- A TLB takes a leaf of an address that it does not hold yet. -/
def State.holdLeaf (s : State) (pn ctx va : Nat) (leaf : Nat × Nat) (p : TlbPlace) : State :=
  if (s.tlbLeaf (· == p) pn ctx va).isSome then s
  else
    let t : TlbEntry := ⟨p, pn, ctx, va / leaf.2 * leaf.2, leaf.2, leaf.1⟩
    { s.trimTlb p with tlb := t :: (s.trimTlb p).tlb }

/-- A leaf that has been used may be held from then on in the TLBs of the core and of its cluster; invalid entries never
are (R345). -/
def State.keepLeaf (s : State) (core : Option Nat) (pn ctx va : Nat) : State :=
  match core, (s.cachedLeaf core pn ctx va).orElse fun _ => s.walkLeaf core pn ctx va with
  | some c, some leaf =>
    (s.holdLeaf pn ctx va leaf (.core (s.physCore c))).holdLeaf pn ctx va leaf (.cluster (s.physCluster c))
  | _, _ => s

/-- The physical die of a TLB. -/
def TlbPlace.die : TlbPlace → Nat
  | .core c => dieOfPhys c
  | .cluster k => if k < 160 then k / 40 else k - 160

def needOk (n : Need) (e : Nat) : Bool :=
  match n with
  | .none => true
  | .read | .drop => pteR e
  | .write => pteW e
  | .readWrite => pteR e && pteW e
  | .execute => pteX e && pteMT e == 0

/-- A translated access: its location, its memory type MT, and the residency class of its page (R261, R343). -/
structure Xlat where
  loc : Nat
  mt : Nat
  cls : Nat
  deriving DecidableEq, Repr

/-- Permission bits. -/
def permSend : BitVec 5 := 1
def permRecv : BitVec 5 := 2
def permWait : BitVec 5 := 4
def permPromote : BitVec 5 := 8
def permLaunch : BitVec 5 := 16

/-- The type codes of R23. -/
def capGroup : Nat := 1
def capBlock : Nat := 2
def capCard : Nat := 3
def capQueue : Nat := 4
def capRing : Nat := 5
def capLock : Nat := 6
def capPeer : Nat := 7

def State.capEntry (s : State) (pn ctx c : Nat) : Option CapEntry :=
  match s.ctx? pn ctx with
  | some x => ((x.caps.find? fun e => e.1 == c).map (·.2)).bind fun e => if e.type = 0 ∨ 8 ≤ e.type then none else some e
  | none => none

/-- The three checks of a page of a peer window: its capability, permission and size; the location it names (R366).  ADDR
and DETAIL are those of R348. -/
def State.peerCheck (s : State) (pn ctx va e : Nat) (n : Need) : Except Cause Nat :=
  let pa := ptePA e
  let c := pa / 2 ^ 46 % 64
  let bad (k : TrapCode) (addr detail : Nat) : Except Cause Nat :=
    .error { code := k, addr := BitVec.ofNat 64 addr, detail := BitVec.ofNat 32 detail }
  match s.capEntry pn ctx c with
  | none => bad .capInvalid 0 c
  | some k =>
    let page := pa / 2 ^ 16 % 2 ^ 30
    let perm := match n with
      | .none => true
      | .read => k.perms &&& permRecv != 0
      | _ => k.perms &&& permSend != 0
    if k.type ≠ capPeer then bad .capInvalid 0 c
    else if !perm then bad .capPerm 0 c
    else if (page + 1) * 65536 > k.aux.toNat % 2 ^ 40 then bad .memPerm va c
    else .ok (peerLoc (k.endpoint.toNat / 2 ^ 48) (k.endpoint.toNat % 2 ^ 48 + page * 65536 + va % 65536))

/-- A page of a peer window: the checks of R366, then the leaf's permissions. -/
def State.peerXlat (s : State) (pn ctx va e : Nat) (n : Need) : Except Cause Xlat :=
  match s.peerCheck pn ctx va e n with
  | .error c => .error c
  | .ok loc => if needOk n e then .ok ⟨loc, 3, 3⟩ else .error { code := .memPerm, addr := BitVec.ofNat 64 va }

/-- The context number of a steward core's block: its addresses are device physical addresses (log 12). -/
def stewardCtx : Nat := 16

/-- Translates a virtual address for an access, of a core or of another unit (R31, R344, R356, R386). -/
def State.translate (s : State) (core : Option Nat) (pn ctx va : Nat) (n : Need) : Except Cause Xlat :=
  let at' (c : TrapCode) : Except Cause Xlat := .error { code := c, addr := BitVec.ofNat 64 va }
  if va ≥ 2 ^ 60 then at' .xlate
  else if ctx = stewardCtx then
    if decide (va < deviceBytes) && (n == .execute || s.ownsPa pn va) then .ok ⟨s.devLoc va, 0, 3⟩ else at' .xlate
  else
    match s.leafOf core pn ctx va with
    | none => at' .xlate
    | some (e, size) =>
      let pa := ptePA e / size * size + va % size
      if pteMT e = 3 ∧ size ≠ 2 ^ 16 then at' .xlate
      else if n = .execute ∧ pteMT e ≠ 0 then at' .memPerm
      else if pteMT e = 3 then s.peerXlat pn ctx va e n
      else if pteMT e = 0 && !s.ownsPa pn pa then at' .xlate
      else if needOk n e then .ok ⟨if pteMT e = 0 then s.devLoc pa else hostLoc pa, pteMT e, pteCls e⟩
      else at' .memPerm

/-! ### Writes of the machine's own (R259, R307, R359, R361) -/

/-- A line under another core's exclusive lease: other accesses are deferred (R160). -/
def State.xleased (s : State) (core loc size : Nat) : Bool :=
  s.xleases.any fun x =>
    x.core != core && decide (lineOf loc ≤ x.line ∧ x.line ≤ lineOf (loc + size - 1) ∧ s.gt < x.expiry)

/-- A line that the host may hold: a write waits for its back-invalidation (R361). -/
def State.snooped (s : State) (loc size : Nat) : Bool :=
  s.snoops.any fun n => decide (lineOf loc ≤ n ∧ n ≤ lineOf (loc + size - 1))

/-- The slot of a block's engine context holds some of the locations. -/
def State.inSlot (s : State) (b : Block) (loc n : Nat) : Bool :=
  b.seq.made && b.life != .retired &&
    match s.launch? b.launch with
    | none => false
    | some l =>
      l.ecarea != 0 && (List.range 96).any fun i =>
        match s.translate none b.pn b.ctx (l.ecarea.toNat + 393216 * b.blk + 4096 * i) .none with
        | .ok p => p.mt == 0 && decide (loc / 4096 ≤ p.loc / 4096 ∧ p.loc / 4096 ≤ (loc + n - 1) / 4096)
        | .error _ => false

/-- A plane of free values. -/
def freePlane (free : Nat) : Plane where
  fmt := Config.freePick free % 5
  rows := ((List.range 128).map fun k =>
    (k, (List.range 128).map fun n => (Config.freeBits (free + 128 * k + n)).setWidth 32)).filter fun e => !(e.2.all (· == 0))
  bad := false

/-- Planes and accumulators of free values. -/
def freeEngineCtx (free : Nat) : EngineCtx where
  active := freePlane free
  shadow := freePlane (free + 16384)
  acc := ((List.range 512).map fun k =>
    (k, (List.range 128).map fun n => (Config.freeBits (free + 32768 + 128 * k + n)).setWidth 32)).filter
      fun e => !(e.2.all (· == 0))
  badAcc := []

/-- A store into the slot of a block that lives leaves its planes and accumulators undefined (R307; log 27). -/
def State.touchSlots (s : State) (loc n : Nat) : State :=
  (s.blocks.filter fun b => s.inSlot b loc n).foldl (fun s b =>
    { (s.modBlock b.bid fun b => { b with eng := freeEngineCtx s.free }) with free := s.free + 98304 }) s

/-- A line that the host may hold is called back, before the machine writes it itself: the host gives it up, with free bytes
where it has written (R361; DESIGN CHOICE, log 72). -/
def State.recall (s : State) (line : Nat) : State :=
  if s.snoops.contains line then
    { s with
      snoops := s.snoops.filter (· != line)
      free := s.free + 64
      mem := memWriteAll s.mem ((List.range 64).filterMap fun i =>
        let v := Config.freeBits (s.free + i)
        if v.getLsbD 8 then some (64 * line + i, v.setWidth 8) else none) }
  else s

/-- The places are the machine's to write: the host's copies are called back, and an exclusive lease ends early (R259,
R361). -/
def State.openHome (s : State) (loc n : Nat) : State :=
  let first := lineOf loc
  let last := lineOf (loc + n - 1)
  let s := (s.snoops.filter fun k => decide (first ≤ k ∧ k ≤ last)).foldl State.recall s
  { s with xleases := s.xleases.filter fun x => !decide (first ≤ x.line ∧ x.line ≤ last) }

/-- A record or another structure that the machine writes itself, in one request: into memory that no port or link reaches
it is dropped and the error counts (R359). -/
def State.writeOwn (s : State) (loc n : Nat) (cells : List Host.Cell) : State :=
  if s.reachable loc then ((s.openHome loc n).storeCells cells).touchSlots loc n else s.failedAt loc

/-! ### Interrupts and the fault log (R350) -/

def State.raise (s : State) (v : Nat) : State := { s with irqs := s.irqs ++ [v] }

structure FaultEntry where
  code : Byte
  sub : Byte
  source : Byte
  obj : DWord := 0
  addr : DWord := 0
  detail : DWord := 0
  tag : DWord := 0

/-- FLOG_CTL.L clamped to 4 to 20, and LOST. -/
def flogCap (ctl : Word) : Nat := 2 ^ (max 4 (min 20 (ctl.toNat % 32)))

/-- A dropped entry raises LOST, saturating. -/
def State.flogDrop (s : State) (pn : Nat) : State :=
  let ctl := s.csr (.part pn) 0x03C2
  let lost := ctl.toNat / 65536
  s.setCsr (.part pn) 0x03C2 (BitVec.ofNat 32 (65536 * (if lost < 0xFFFF then lost + 1 else lost) + ctl.toNat % 65536))

/-- Appends one fault-log entry, or drops it (R350); one whose place is another partition's is dropped (R385). -/
def State.flog (s : State) (pn ctx : Nat) (e : FaultEntry) : State :=
  let base := (s.csr (.part pn) 0x03C0).toNat + 2 ^ 32 * (s.csr (.part pn) 0x03C1).toNat
  let cap := flogCap (s.csr (.part pn) 0x03C2)
  let tail := s.csr (.part pn) 0x03C3
  let head := s.csr (.part pn) 0x03C4
  let pa := base + 64 * (tail.toNat % cap)
  if base = 0 ∨ (tail - head).toNat ≥ cap ∨ !s.mayUse pn pa 64 then s.flogDrop pn
  else
    let a := s.physLoc pa
    let s := s.writeOwn a 64
      (cellsAt a 8 (e.code.toNat + 2 ^ 8 * e.sub.toNat + 2 ^ 16 * e.source.toNat + 2 ^ 24 * ctx) ++
        cellsAt (a + 8) 8 s.gt ++ cellsAt (a + 16) 8 e.obj.toNat ++ cellsAt (a + 24) 8 e.addr.toNat ++
        cellsAt (a + 32) 8 e.detail.toNat ++ cellsAt (a + 40) 8 e.tag.toNat ++ cellsAt (a + 48) 16 0)
    (s.setCsr (.part pn) 0x03C3 (tail + 1)).raise ((s.csr (.part pn) 0x03C8).toNat % 2048)

/-! ### Stores of the machine's own words at their homes -/

/-- A core's L1 copy of a line and its die's RDC copy are given up (R152). -/
def State.forgetLine (s : State) (core line : Nat) : State :=
  { s with copies := s.copies.filter fun c =>
      !(c.line == line && (c.place == .l1 (s.physCore core) || c.place == .rdc (dieOfCore core))) }

/-- A word of device memory that a core's instruction writes at its home. -/
def State.storeHome (s : State) (core x n v : Nat) : State := (s.forgetLine core (x / 64)).writeOwn x n (cellsAt x n v)

/-! ### Sleeping lanes, and the lock words they wait on (R166, R167, R170) -/

/-- A lane wakes: it goes on after its word. -/
def Thread.wake (t : Thread) : Thread :=
  match t.life with
  | .asleep z => { t with pc := z.next, life := .run, ports := z.ports, held := false, hangKept := 0, kept := none }
  | _ => t

/-- Lanes of a warp that sleep in one issue of a word: their mask and what they wait for. -/
structure SleepGroup where
  bid : Nat
  w : Nat
  lanes : Mask
  z : Sleep

def Warp.sleepers (w : Warp) : List (Lane × Sleep) :=
  allLanes.filterMap fun l => ((w.thread l).asleep).map fun z => (l, z)

/-- One group for each word that lanes of the warp sleep in. -/
def Warp.sleepGroups (bid wi : Nat) (w : Warp) : List SleepGroup :=
  w.sleepers.filterMap fun (l, z) =>
    if w.sleepers.any fun e => e.1 < l && e.2.order == z.order then none
    else some ⟨bid, wi, maskOf fun k => (w.thread k).asleep.elim false fun y => y.order == z.order, z⟩

def Block.sleepGroups (b : Block) : List SleepGroup := (b.warps.mapIdx fun i w => w.sleepGroups b.bid i).flatten

def State.modLanes (s : State) (bid w : Nat) (lanes : Mask) (f : Thread → Thread) : State :=
  s.modWarp bid w fun x => x.modThreads fun l t => if inMask lanes l then f t else t

def lockWh (v : Nat) : Bool := v / 2 ^ 63 == 1
def lockReserved (v : Nat) : Bool := v / 2 ^ 56 % 128 != 0
def lockOwner (v : Nat) : Nat := v / 2 ^ 32 % 2 ^ 24
def lockWq (v : Nat) : Nat := v / 2 ^ 24 % 256
def lockRc (v : Nat) : Nat := v % 2 ^ 24

/-- The conditions of RLOCK and WLOCK (R167).  A lane already asleep whose lock word comes to hold a nonzero reserved field
sleeps on: the spec states the trap for a word at issue alone (DESIGN CHOICE, log 61). -/
def lockFree (write : Bool) (v : Nat) : Bool :=
  !lockReserved v && !lockWh v &&
    (if write then lockRc v == 0 else lockWq v == 0 && decide (lockRc v < 2 ^ 24 - 1))

/-- The lock word once taken; a counted writer leaves WQ in the same step. -/
def lockTaken (write counted : Bool) (blk v : Nat) : Nat :=
  if write then (v - (if counted then 2 ^ 24 else 0)) % 2 ^ 32 + 2 ^ 32 * (blk % 2 ^ 24) + 2 ^ 63 else v + 1

/-- Withdraws the WQ increment of counted writers asleep in warps that stop (R167). -/
def State.withdrawWq (s : State) (g : SleepGroup) : State :=
  match g.z.kind with
  | .lock loc write true =>
    let v := s.load loc 8
    (s.modLanes g.bid g.w g.lanes fun t => { t with life := .asleep { g.z with kind := .lock loc write false } }).storeHome
      ((s.block? g.bid).elim 0 (·.core)) loc 8 (if lockWq v = 0 then v else v - 2 ^ 24)
  | _ => s

def Block.stoppingGroups (b : Block) : List SleepGroup :=
  b.sleepGroups.filter fun g => (b.warp? g.w).elim false fun w => w.stop != .none

/-- The lock waiters whose condition holds, in warps that are not stopping, at a lock word that no exclusive lease and no
copy of the host defers (R259, R361). -/
def State.lockReady (s : State) : List SleepGroup :=
  s.blocks.flatMap fun b => b.sleepGroups.filter fun g =>
    (b.warp? g.w).elim false (fun w => w.stop == .none) &&
      match g.z.kind with
      | .lock loc write _ => lockFree write (s.load loc 8) && !s.badAt loc 8 && !s.snooped loc 8 && !s.xleased b.core loc 8
      | _ => false

/-- Lock waiters re-evaluate their condition after a change of the lock word; which of several goes first is free. -/
def pokeLocks : Nat → State → State
  | 0, s => s
  | n + 1, s =>
    let gs := s.lockReady
    let (k, s) := s.drawPick gs.length
    match gs[k]? with
    | none => s
    | some g =>
      match g.z.kind with
      | .lock loc write counted =>
        let (blk, core) := (s.block? g.bid).elim (0, 0) fun b => (b.blk, b.core)
        pokeLocks n ((s.modLanes g.bid g.w g.lanes Thread.wake).storeHome core loc 8
          (lockTaken write counted blk (s.load loc 8)))
      | _ => s

/-- What lock words owe after memory or a stop has changed. -/
def State.settleLocks (s : State) : State :=
  let s := (s.blocks.flatMap Block.stoppingGroups).foldl State.withdrawWq s
  pokeLocks (s.blocks.flatMap Block.sleepGroups).length s

/-- The cluster of a core is on the high rail (R403). -/
def State.hiRail (s : State) (core : Nat) : Bool := s.rails.contains (s.physCluster core)

/-! ### Halting and stopping a block (R198, R210, R237, R246) -/

/-- The stop deadline: 2,048 cycles, 1,575 ns at 1.3 GHz and 1,321 ns at 1.55 GHz (R210). -/
def stopDeadlineNs (hiRail : Bool) : Nat := if hiRail then 1321 else 1575

/-- Asks a warp to stop: a thread asleep in a wait is at a safe point already, and a parked warp has stopped. -/
def Warp.askStop (w : Warp) : Warp :=
  if w.stop = .none then
    { w with
      stop := .asked
      stopped := maskOf fun l => (w.thread l).asleep.isSome
      liveIdx := Vector.replicate 32 0 }
  else w

/-- Stopped lanes go on: one that slept executes its word again; WAITM would only sleep again (R112, R170). -/
def Thread.resume (t : Thread) : Thread :=
  match t.life with
  | .asleep z => (match z.kind with | .mask _ => t | _ => { t with life := .run, held := false, hangKept := z.hang })
  | _ => { t with held := false }

/-- The stop of a warp is over. -/
def Warp.clearStop (w : Warp) : Warp :=
  if w.stop = .none then w
  else { (w.modThreads fun l t => if inMask w.stopped l then t.resume else t) with stop := .none, stopped := 0 }

/-- Every thread that has not ended has stopped, or the warp is parked (R237). -/
def Warp.hasStopped (w : Warp) : Bool :=
  w.released || w.parked.isSome ||
    allLanes.all fun l => (w.thread l).ended || inMask w.stopped l

/-- A thread that goes to sleep while a stop is asked has stopped (R210). -/
def Warp.settle (w : Warp) : Warp :=
  if w.stop = .asked then { w with stopped := w.stopped ||| maskOf fun l => (w.thread l).asleep.isSome } else w

def Block.askStop (b : Block) (c : StopCause) (gt : Nat) (hiRail : Bool) : Block :=
  { b with
    stopFor := some c
    deadline := gt + stopDeadlineNs hiRail
    warps := b.warps.map Warp.askStop }

/-- HALTW's effect on a block (R198): it becomes halted, a pending eviction is withdrawn, its warps are asked to
stop; a block already halted is unchanged. -/
def Block.halt (b : Block) (gt : Nat) (hi : Bool) : Block :=
  if b.resident && !b.halted then { b.askStop .halt gt hi with
      life := if b.life = .moving then .moving else .halted
      marked := false }
  else b

def State.haltBlock (s : State) (bid : Nat) : State :=
  (s.modBlock bid fun b => b.halt s.gt (s.hiRail b.core)).settleLocks

/-- The freeze action: every resident block of the context halts, and the engines begin no command of it (R377). -/
def State.freezeCtx (s : State) (pn c : Nat) : State :=
  let s := s.modCtx pn c fun x => { x with frozen := true }
  State.settleLocks { s with blocks := s.blocks.map fun b =>
      if b.kind == .task && b.pn == pn && b.ctx == c && b.resident then
        { b.halt s.gt (s.hiRail b.core) with frozen := true }
      else b }

/-! ### The trigger sequencer (R376, R377) -/

/-- One event of a context: a breakpoint 0 to 7, a watchpoint 8 to 11, 12 trace full, 13 a trap record. -/
def State.dbgEvent (s : State) (pn c bid ev : Nat) : State :=
  let sc := CsrScope.ctx pn c
  let stat := (s.csr sc 0x063C).toNat
  let st := stat / 2 ^ 30 % 4
  let ctl := (s.csr sc (0x0638 + st)).toNat
  if ctl / 2 ^ 31 = 1 ∧ ctl / 2 ^ 24 % 16 = ev then
    let cnt := stat % 256 + 1
    if max 1 (ctl / 2 ^ 16 % 256) ≤ cnt then
      let s := s.setCsr sc 0x063C (BitVec.ofNat 32 (2 ^ 30 * (ctl / 2 ^ 14 % 4)))
      match ctl / 2 ^ 11 % 8 with
      | 1 => s.setCsr sc 0x0652 (s.csr sc 0x0652 ||| 0x80000000#32)
      | 2 => s.setCsr sc 0x0652 (s.csr sc 0x0652 &&& 0x7FFFFFFF#32)
      | 3 => if ev = 12 then s.freezeCtx pn c else s.haltBlock bid
      | 4 => s.freezeCtx pn c
      | 5 => s.raise ((s.csr (.part pn) 0x03C8).toNat % 2048 + 2)
      | _ => s
    else s.setCsr sc 0x063C (BitVec.ofNat 32 (2 ^ 30 * st + cnt))
  else s

def State.dbgEvents (s : State) (pn c bid : Nat) (evs : List Nat) : State :=
  evs.foldl (fun s e => s.dbgEvent pn c bid e) s

/-! ### Taking a trap, and returning from a handler (R34, R347 to R349, R121) -/

/-- The word being issued is over. -/
def State.closeIssue (s : State) : State := { s with issue := none }

def Issue.len (i : Issue) : Nat := if i.hint.isSome then 8 else 4
/-- The address of the word itself: a hint lies before it. -/
def Issue.wordPc (i : Issue) : DWord := if i.hint.isSome then i.pc + 4 else i.pc

def kernOf (s : State) (b : Block) : Word := (s.launch? b.launch).elim 0 (·.kern)

/-- The record of a trap on the word being issued (R348). -/
def trapRecordOf (s : State) (i : Issue) (b : Block) (w : Warp) (c : Cause) (lane : Nat) (lanes : Mask) : TrapRecord where
  code := c.code.num
  sub := c.sub
  kind := 0
  lane := BitVec.ofNat 8 lane
  handle := handleOf b w
  pc := i.pc
  addr := c.addr
  detail := c.detail
  lanes := lanes
  gt := BitVec.ofNat 64 s.gt
  word := i.word
  hint := i.hint.getD 0
  blk := BitVec.ofNat 32 (b.blk % 2 ^ 24)
  kern := kernOf s b

/-- HANDLER.EN of a partition (R330). -/
def State.handlerOn (s : State) (pn : Nat) : Bool := (s.csr (.part pn) 0x03D4).getLsbD 0

def unhandled (r : TrapRecord) (obj : Word) (handler : Word) : FaultEntry where
  code := r.code
  sub := r.sub
  source := 5
  obj := obj.setWidth 64
  addr := r.addr
  detail := handler.setWidth 64

/-- Delivers a record: to the queue of its quad's handler, or to the fault log while EN is clear (R349); the record of a
steward core goes to the fault log (log 12). -/
def State.deliver (s : State) (b : Block) (quad : Nat) (r : TrapRecord) : State :=
  if s.handlerOn b.pn && !b.isSteward then { s with records := s.records ++ [(b.core, quad, r)] }
  else s.flog b.pn b.ctx (unhandled r r.handle 0)

/-- Parks a warp with its record (R34, R349). -/
def State.parkWarp (s : State) (b : Block) (wi : Nat) (w : Warp) (lanes : Mask) (len : Nat) (r : TrapRecord) : State :=
  ((s.modWarp b.bid wi fun x => { x with parked := some ⟨lanes, len, r⟩ }).deliver b (w.slot / 16) r).dbgEvent
    b.pn b.ctx b.bid 13

/-- The completion times of a block that goes are those of its launch (R262, R336). -/
def State.bookTimes (s : State) (b : Block) : State :=
  s.modLaunch b.launch fun l => { l with wct := (b.warps.map fun w => w.wct.toNat).foldl max l.wct }

/-- A block that is over goes once none of its accesses is in flight. -/
def State.reap (s : State) (bid : Nat) : State :=
  if (s.ops.any fun o => o.bid == bid) || (s.accs.any fun a => a.bid == bid) then s
  else
    (s.blocks.filter fun b => b.bid == bid && b.life == .retired).foldl State.bookTimes
      { s with blocks := s.blocks.filter fun b => !(b.bid == bid && b.life == .retired) }

/-- A warp whose threads are over, whatever they did; its accesses in flight run on. -/
def Warp.close (w : Warp) : Warp :=
  { (w.modThreads fun _ t => { t with life := .ended, ports := Vector.replicate 4 none }) with
    parked := none, note := none, stop := .none, stopped := 0, released := true }

/-- The block is over: its places are free, and it stays as long as an access of it is in flight (R118, R121, R340). -/
def State.closeBlock (s : State) (bid : Nat) : State :=
  (s.modBlock bid fun b => { b with
    kind := .task, life := .retired, stopFor := none, marked := false, warps := b.warps.map Warp.close }).reap bid

/-- Ends a handler's invocation: the handler warp is retired and its slot idle (R121, R347). -/
def State.endInvocation (s : State) (bid : Nat) : State := s.closeBlock bid

/-- Takes a trap on the word being issued: no effect in any lane, the warp parks with its PC on the word or its
hint, and the record is delivered; a trap of a handler warp ends its invocation (R34, R349). -/
def State.takeTrap (s : State) (i : Issue) (b : Block) (w : Warp) (c : Cause) (lane : Nat) (lanes : Mask) : State :=
  let r := trapRecordOf s i b w c lane lanes
  let s := s.closeIssue
  match b.kind with
  | .handler _ _ serving =>
    let served := serving.getD r
    (s.endInvocation b.bid).flog b.pn b.ctx (unhandled served served.handle r.handle)
  | _ => s.parkWarp b i.w w i.lanes i.len r

/-! ### Letting things go on -/

/-- Clears the model's hold marks: something has changed (log 3). -/
def Warp.unhold (w : Warp) : Warp := w.modThreads fun _ t => { t with held := false }
def State.unhold (s : State) : State :=
  { s with blocks := s.blocks.map fun b => { b with
      warps := b.warps.map Warp.unhold
      seq := { b.seq with held := false } } }

end Sys2Proof.Machine
end

