-- ==== Sys2Proof/Machine/Operands.lean ====
section
/-! DEFINITION. How a word issues: its active set, hints, immediates, operand forms with their checks, stream ports,
debug matches, and the run of a word over its lanes (spec/03_formats_and_assembly.md, R61 to R74;
spec/01_machine_state.md, R14, R15; spec/06_isa_float_lanes.md, R147 to R151; spec/20_debug_trace.md, R373 to R375). -/

namespace Sys2Proof.Machine

/-- A word in issue: the state, the issue, its block and warp, and the active set (R71). -/
structure Exec where
  s : State
  i : Issue
  b : Block
  w : Warp
  act : Mask

/-! ### Hints and the active set -/

/-- The hint before the word, decoded (R67). -/
def Issue.hintInstr (i : Issue) : Option Instr :=
  match i.hint with
  | none => none
  | some h => (match decode h with | .ok x => some x | .error _ => none)

/-- The guard with HGRD's negation (R61, R68). -/
def Issue.guard (i : Issue) (g : PReg) : PReg × Bool :=
  match i.hintInstr with
  | some (.hgrd n p) => (p, n)
  | _ => (g, false)

/-- The settings of HFMD (R128). -/
def Issue.fpMode (i : Issue) : FpMode :=
  match i.hintInstr with
  | some (.hfmd f s r) => ⟨r, s, f⟩
  | _ => {}

/-- The selector of SEL: p0 unless HPRD names another (R106). -/
def Issue.selector (i : Issue) : PReg × Bool :=
  match i.hintInstr with
  | some (.hprd n p) => (p, n)
  | _ => (0, false)

/-- HPOL's no-promote bit and scope override (R68). -/
def Issue.noPromote (i : Issue) : Bool :=
  match i.hintInstr with
  | some (.hpol n _ _) => n
  | _ => false
def Issue.scopeOverride (i : Issue) : Option Scope :=
  match i.hintInstr with
  | some (.hpol _ s _) => s
  | _ => none

def Issue.himm (i : Issue) : Option (BitVec 22) :=
  match i.hintInstr with
  | some (.himm p) => some p
  | _ => none

/-- The effective immediate of R66: `signed` tells how the field extends without HIMM. -/
def Issue.imm {n : Nat} (i : Issue) (field : BitVec n) (signed : Bool) : Int :=
  match i.himm with
  | some p => (p ++ field).toInt
  | none => if signed then field.toInt else field.toNat

/-- The active set: issued threads whose guard is true; all of them for an unguarded word (R71). -/
def activeMask (i : Issue) (w : Warp) (g : Option PReg) : Mask :=
  match g with
  | none => i.lanes
  | some g =>
    let (p, neg) := i.guard g
    maskOf fun l => inMask i.lanes l && ((w.thread l).pred p != neg)

/-- The issued threads move past the word, or past the pair, and lose their YIELD mark (R60, R71, R227). -/
def Thread.pass (t : Thread) (len : Nat) : Thread :=
  { t with pc := t.pc + BitVec.ofNat 64 len, held := false, yielded := false, exempt := false, hangKept := 0, kept := none }

def Warp.pass (w : Warp) (lanes : Mask) (len : Nat) : Warp :=
  w.modThreads fun l t => if inMask lanes l then t.pass len else t

/-! ### Predicates, uniform and mask registers with a soft error (R33, R329; log 26) -/

/-- A register that a word names beside its general registers. -/
inductive HardReg where
  | pred (p : PReg)
  | uni (r : WReg)
  | mask (k : Nat)
  | arr (k : Nat)
  deriving DecidableEq, Repr

/-- Its file, numbered as in R197, and its number there. -/
def HardReg.key : HardReg → Nat × Nat
  | .pred p => (1, p.toNat)
  | .uni r => (2, r.toNat)
  | .mask k => (3, k)
  | .arr k => (4, k)

/-- Majors with no format. -/
def reservedMajor (m : Nat) : Bool := m == 0 || (0x3B ≤ m && m ≤ 0x3E)

/-- Majors of the guarded formats. -/
def guardedMajor (m : Nat) : Bool := !reservedMajor m && m != 0x14 && m != 0x23 && m != 0x32 && m != 0x3A && m != 0x3F

/-- The guard field of a guarded word. -/
def guardField (w : Word) : PReg := w.extractLsb' 23 3

/-- The guard field of a word, if it has one. -/
def wordGuard (w : Word) : Option PReg := if guardedMajor (majorOf w).toNat then some (guardField w) else none

/-- Those that an instruction reads beside its guard. -/
def Issue.hardReads (i : Issue) : Instr → List HardReg
  | .isetp _ p _ _ _ acc | .fsetp _ p _ _ _ acc | .isetpi _ p _ _ _ acc => if acc then [.pred p] else []
  | .pand _ _ a b | .por _ _ a b | .pxor _ _ a b => [.pred a, .pred b]
  | .pnot _ _ a => [.pred a]
  | .sel _ _ _ _ => [.pred i.selector.1]
  | .p2v _ _ => (List.range 7).map fun k => .pred (BitVec.ofNat 3 k)
  | .voteAll _ _ _ a | .voteAny _ _ _ a | .voteUni _ _ _ a | .voteBallot _ _ _ a => [.pred a]
  | .movw _ _ a | .wmovw _ _ a => [.uni a]
  | .wadd _ _ a b => [.uni a, .uni b]
  | .join _ m | .leave _ m | .mskrd _ m _ => [.mask m.toNat]
  | .waitm _ m => [.mask m.toNat, .arr m.toNat]
  | _ => []

/-- Those that it overwrites in its active lanes. -/
def hardWrites : Instr → List HardReg
  | .isetp _ p _ _ _ _ | .fsetp _ p _ _ _ _ | .isetpi _ p _ _ _ _ => [.pred p]
  | .pand _ d _ _ | .por _ d _ _ | .pxor _ d _ _ | .pnot _ d _ => [.pred d]
  | .voteAll _ d _ _ | .voteAny _ d _ _ | .voteUni _ d _ _ => [.pred d]
  | .v2p _ m _ => ((List.range 7).filter fun k => m.getLsbD k).map fun k => .pred (BitVec.ofNat 3 k)
  | .poll _ _ _ _ _ _ => [.pred 0]
  | .wmov _ d _ | .wmovw _ d _ | .wadd _ d _ _ => [.uni d]
  | .mskwr _ m _ | .mskact _ m _ => [.mask m.toNat]
  | _ => []

/-- The poison of such a register, as a lane reads it. -/
def Warp.hardPoison (w : Warp) (l : Lane) (h : HardReg) : Option Poison :=
  w.poison.find? fun p => p.file == h.key.1 && p.reg == h.key.2 && (h.key.1 != 1 || p.lane == l.val)

/-- ECC in the lanes that read such a register with an uncorrectable error: every issued thread reads the guard. -/
def Exec.hardCauses (x : Exec) : List (Lane × Cause) :=
  if x.w.poison.all fun p => p.file == 0 then []
  else
    let g := (wordGuard x.i.word).toList.map fun g => HardReg.pred (x.i.guard g).1
    let rs := match decode x.i.word with | .ok ins => x.i.hardReads ins | .error _ => []
    (lanesIn x.i.lanes).filterMap fun l =>
      ((g ++ if inMask x.act l then rs else []).findSome? (x.w.hardPoison l)).map fun p =>
        (l, { code := .ecc, addr := p.addr : Cause })

/-- Such registers that are overwritten hold no error any more. -/
def Warp.cleanHard (w : Warp) (i : Issue) (lanes : Mask) : Warp :=
  if lanes == 0 || w.poison.all fun p => p.file == 0 then w
  else
    match decode i.word with
    | .error _ => w
    | .ok ins =>
      let ws := (hardWrites ins).map HardReg.key
      { w with poison := w.poison.filter fun p =>
          p.file == 0 || !(ws.contains (p.file, p.reg) && (p.file != 1 || (lanesIn lanes).any fun l => l.val == p.lane)) }

/-- Completes the word: the threads move on, the update is made, the issue closes. -/
def Exec.commit (x : Exec) (f : Warp → Warp) : State :=
  (x.s.modWarp x.i.bid x.i.w fun w => ((f (w.pass x.i.lanes x.i.len)).cleanHard x.i x.act).settle).closeIssue

/-- Holds the word at issue for some of its threads: nothing happens but the mark, and the other threads of the group
issue it without them (R19, R72, R224; log 3). -/
def Exec.holdLanes (x : Exec) (lanes : Mask) : Result :=
  .next (x.s.modWarp x.i.bid x.i.w fun w =>
    w.modThreads fun l t => if inMask lanes l then { t with held := true } else t).closeIssue

/-- Holds the word for every thread of the group. -/
def Exec.hold (x : Exec) : Result := x.holdLanes x.i.lanes

/-- The word in issue with its active set, whatever that set is. -/
def withIssue (s : State) (g : Option PReg) (k : Exec → Result) : Result :=
  match s.issue with
  | none => .fault .noIssue
  | some i =>
    match s.block? i.bid with
    | none => .fault .noIssue
    | some b =>
      match b.warp? i.w with
      | none => .fault .noIssue
      | some w => k ⟨s, i, b, w, activeMask i w g⟩

/-! ### Debug matches (R373 to R375) -/

/-- A global access of one lane, for watchpoints: address, size, and whether it loads and stores. -/
structure Touch where
  lane : Lane
  va : Nat
  size : Nat
  ld : Bool
  st : Bool

def trigState (s : State) (pn c : Nat) : Nat := (s.csr (.ctx pn c) 0x063C).toNat / 2 ^ 30

/-- The armed breakpoints the word matches, with whether each would trap; a word of no active lane matches none. -/
def Exec.bpHits (x : Exec) : List (Nat × Bool) :=
  match x.b.kind with
  | .handler _ _ _ => []
  | _ =>
    if x.act = 0 then [] else
    let sc := CsrScope.ctx x.b.pn x.b.ctx
    (List.range 8).filterMap fun k =>
      let ctl := (x.s.csr sc (0x0620 + k)).toNat
      let addr := (x.s.csr sc (0x0611 + 2 * k)).toNat * 2 ^ 32 + (x.s.csr sc (0x0610 + 2 * k)).toNat
      if ctl / 2 ^ 31 = 1 ∧ (addr / 4 = x.i.pc.toNat / 4 ∨ addr / 4 = x.i.wordPc.toNat / 4) then
        some (k, ctl / 2 ^ 30 % 2 == 0 && ctl / 2 ^ (24 + trigState x.s x.b.pn x.b.ctx) % 2 == 1)
      else none

def wpTouches (addr len kind : Nat) (t : Touch) : Bool :=
  let n := 2 ^ (max 2 (min 48 len))
  let lo := addr / n * n
  decide (t.va < lo + n ∧ lo < t.va + t.size) && ((t.ld && kind % 2 == 1) || (t.st && kind / 2 == 1))

/-- The armed watchpoints the word's accesses match: number, whether it would trap, the lanes and the address. -/
def Exec.wpHits (x : Exec) (ts : List Touch) : List (Nat × Bool × List Touch) :=
  let sc := CsrScope.ctx x.b.pn x.b.ctx
  (List.range 4).filterMap fun k =>
    let ctl := (x.s.csr sc (0x0630 + k)).toNat
    let addr := (x.s.csr sc (0x0629 + 2 * k)).toNat * 2 ^ 32 + (x.s.csr sc (0x0628 + 2 * k)).toNat
    let hit := ts.filter (wpTouches addr (ctl % 64) (ctl / 2 ^ 28 % 4))
    if ctl / 2 ^ 31 = 1 ∧ !hit.isEmpty then
      some (k, ctl / 2 ^ 30 % 2 == 0 && ctl / 2 ^ (24 + trigState x.s x.b.pn x.b.ctx) % 2 == 1, hit)
    else none

/-- The thread carried by STEP is exempt from breakpoint traps (R375). -/
def Exec.stepped (x : Exec) : Bool :=
  match x.s.stepReq with
  | some r => r.started && r.tbid == x.i.bid && r.tw == x.i.w
  | none => false

/-- The debug traps of the word, after every other condition (R34, R375). -/
def Exec.debugCauses (x : Exec) (ts : List Touch) : List (Lane × Cause) :=
  let lanes := (lanesIn x.act).filter fun l => !(x.w.thread l).exempt
  let bp := (x.bpHits.filter fun h => h.2 && !x.stepped).head?
  let bps := match bp with
    | some (k, _) => lanes.map fun l => (l, { code := .bkpt, detail := BitVec.ofNat 32 (0x100 + k) : Cause })
    | none => []
  let wp := ((x.wpHits ts).filter fun h => h.2.1).head?
  let wps := match wp with
    | some (k, _, hit) => (hit.filter fun t => lanes.contains t.lane).map fun t =>
        (t.lane, { code := .watchpt, detail := BitVec.ofNat 32 k, addr := BitVec.ofNat 64 t.va : Cause })
    | none => []
  bps ++ wps

/-- The events the word raises, in the order of R375. -/
def Exec.debugEvents (x : Exec) (ts : List Touch) : List Nat :=
  x.bpHits.map (·.1) ++ (x.wpHits ts).map fun h => 8 + h.1

def withEvents (x : Exec) (evs : List Nat) (r : Result) : Result :=
  match r, evs with
  | r, [] => r
  | .next s, evs => .next (s.dbgEvents x.b.pn x.b.ctx x.b.bid evs)
  | r, _ => r

/-- Takes the trap of one of the conditions.  A word that traps with BKPT or WATCHPT raises the events of its matches, all
judged before the trap's own (R375, R377). -/
def Exec.trapOn (x : Exec) (causes : List (Lane × Cause)) (ts : List Touch) (l : Lane) (c : Cause) : Result :=
  let s := if c.code = .bkpt ∨ c.code = .watchpt then x.s.dbgEvents x.b.pn x.b.ctx x.b.bid (x.debugEvents ts) else x.s
  .next (s.takeTrap x.i x.b x.w c l.val (maskOf fun j => causes.any fun e => e.1 == j && e.2.code == c.code))

/-- Conditions in ascending lane order. -/
def inLaneOrder (cs : List (Lane × Cause)) : List (Lane × Cause) := sortBy (fun a b => decide (a.1 ≤ b.1)) cs

/-- Conditions with those of the predicates, uniform and mask registers that the word reads. -/
def Exec.allCauses (x : Exec) (cs : List (Lane × Cause)) : List (Lane × Cause) :=
  match x.hardCauses with
  | [] => cs
  | hs => inLaneOrder (cs ++ hs)

/-- Takes the first trap of R34 among the conditions, or goes on; debug matches come last (R34, R375). -/
def Exec.orTrap (x : Exec) (causes : List (Lane × Cause)) (ts : List Touch) (k : Result) : Result :=
  let causes := x.allCauses causes
  match firstCause causes with
  | some (l, c) => x.trapOn causes ts l c
  | none =>
    match firstCause (x.debugCauses ts) with
    | some (l, c) => x.trapOn (x.debugCauses ts) ts l c
    | none => withEvents x (x.debugEvents ts) k

/-- One condition in every active lane. -/
def Exec.everyLane (x : Exec) (c : Cause) : List (Lane × Cause) := (lanesIn x.act).map fun l => (l, c)

/-- Traps with one condition in every active lane. -/
def Exec.trapAll (x : Exec) (c : Cause) : Result := x.orTrap (x.everyLane c) [] (.next x.s)

/-- The word in issue; an empty active set makes it a no-op (R71). -/
def withWord (s : State) (g : Option PReg) (k : Exec → Result) : Result :=
  withIssue s g fun x => if x.act = 0 then x.orTrap [] [] (.next (x.commit id)) else k x

/-! ### Register operands (R14, R15, R64) -/

/-- One register, an even pair, or an aligned quad; `evenOne` is one register that must be even with its neighbour
read beside it (R162). -/
inductive Shape where
  | one | pair | quad | oct
  deriving DecidableEq, Repr

def Shape.regs : Shape → Nat
  | .one => 1 | .pair => 2 | .quad => 4 | .oct => 8

/-- The alignment of the first register: CAS128's compare and swap take eight registers from a multiple of 4 (R162). -/
def Shape.align : Shape → Nat
  | .one => 1 | .pair => 2 | .quad => 4 | .oct => 4

/-- How a word uses a register operand: `third` is the d of a three-source word (R64, R150); `named` is a register that
the word names but neither reads nor writes (R164); `link` is the v126 that CALL and CALLX write (R114). -/
inductive Role where
  | src | dst | third | named | link
  deriving DecidableEq, Repr

structure RegUse where
  sh : Shape
  r : VReg
  role : Role
  deriving DecidableEq, Repr

def src1 (r : VReg) : RegUse := ⟨.one, r, .src⟩
def src2 (r : VReg) : RegUse := ⟨.pair, r, .src⟩
def src4 (r : VReg) : RegUse := ⟨.quad, r, .src⟩
def dst1 (r : VReg) : RegUse := ⟨.one, r, .dst⟩
def dst2 (r : VReg) : RegUse := ⟨.pair, r, .dst⟩
def dst4 (r : VReg) : RegUse := ⟨.quad, r, .dst⟩
def third1 (r : VReg) : RegUse := ⟨.one, r, .third⟩
def third2 (r : VReg) : RegUse := ⟨.pair, r, .third⟩
/-- The link register of CALL and CALLX (R14, R114). -/
def linkReg : VReg := 126
def linkUse : RegUse := ⟨.one, linkReg, .link⟩

/-- The registers of a use. -/
def RegUse.list (u : RegUse) : List Nat := (List.range u.sh.regs).map (u.r.toNat + ·)

/-- Register number n names a bound stream port (R15). -/
def Thread.boundPort (t : Thread) (n : Nat) : Option Stream :=
  if 124 ≤ n ∧ n < 128 then (t.ports.toList[n - 124]?).getD none else none
def Thread.bound (t : Thread) (n : Nat) : Bool := (t.boundPort n).isSome

/-- ILLEGAL, sub-code 3 (R14, R70). -/
def RegUse.misaligned (u : RegUse) : Bool := u.r.toNat % u.sh.align != 0

/-- REG_RANGE: a register past the allocation that is no bound port (R14); a link needs an allocation of 128 (R114). -/
def RegUse.outOfRange (u : RegUse) (alloc : Nat) (t : Thread) : Bool :=
  if u.role = .link then decide (alloc < 128)
  else u.list.any fun n => decide (alloc ≤ n) && !t.bound n

/-- STREAM: a bound port in a pair or quad, as the d of a three-source word, or as the link (R150). -/
def RegUse.streamMisuse (u : RegUse) (t : Thread) : Bool :=
  (u.sh != .one || u.role == .third || u.role == .link) && u.list.any t.bound

/-- The register is read, or written. -/
def RegUse.reads (u : RegUse) : Bool := u.role == .src || u.role == .third
def RegUse.writes (u : RegUse) : Bool := u.role == .dst || u.role == .third || u.role == .link

/-- STREAM: the uses pop or push a bound port against its direction or past its last element (R150).  It ranks before
what any single access meets, so all pops and pushes of the word count (R34). -/
def Thread.streamSpent (t : Thread) (uses : List RegUse) : Bool :=
  [124, 125, 126, 127].any fun n =>
    match t.boundPort n with
    | none => false
    | some st =>
      let named (r : Role) : Nat := (uses.filter fun u => u.sh == .one && u.role == r && u.r.toNat == n).length
      decide (0 < named .src ∧ (st.out ∨ st.count.toNat < st.pos.toNat + named .src)) ||
        decide (0 < named .dst ∧ (!st.out ∨ st.count.toNat < st.pos.toNat + named .dst))

/-- The poison of a source of a lane, if any (R329, R359). -/
def RegUse.poison? (u : RegUse) (w : Warp) (l : Lane) : Option Poison :=
  if u.reads then w.poison.find? fun p => p.file == 0 && p.lane == l.val && u.list.contains p.reg else none

/-- The first of the register conditions of a lane, in the order of R34. -/
def Exec.regCause (x : Exec) (uses : List RegUse) (priv : Bool) (l : Lane) : Option Cause :=
  let t := x.w.thread l
  if uses.any RegUse.misaligned then some { code := .illegal, sub := 3 }
  else if priv then some { code := .priv }
  else if uses.any (·.outOfRange x.w.alloc t) then some { code := .regRange }
  else if uses.any (·.streamMisuse t) || t.streamSpent uses then some { code := .stream }
  else (uses.findSome? (·.poison? x.w l)).map fun p => { code := .ecc, addr := p.addr }

/-! ### Local addresses (R31, R297) -/

/-- The slot of a block in its cluster: sr.lcore modulo 4, wherever it has moved since (R27, R31, R297). -/
def Block.slot (b : Block) : Nat := b.lcore % 4

/-- CLUSTERED launches pair block 4q + j with the window on slot j (R297). -/
def State.clustered (s : State) (b : Block) : Bool := (s.launch? b.launch).elim false fun l => l.flags.getLsbD 0

/-- The window of a block is on its core: an access to that of a block which is off its core waits (R297). -/
def State.windowHere (s : State) (bid : Nat) : Bool := (s.block? bid).elim false Block.resident

/-- The block whose window lies on a slot, as the launch pairs it, until it retires. -/
def State.pairedBlock (s : State) (b : Block) (slot : Nat) : Option Block :=
  if slot = b.slot then some b
  else if s.clustered b then
    s.blocks.find? fun c => c.launch == b.launch && c.kind == .task && c.blk == 4 * (b.blk / 4) + slot && c.life != .retired
  else none

/-- Where a local or cluster-local address lies: block and offset; MEM_PERM outside a window (R31). -/
def State.resolveLocal (s : State) (b : Block) (addr size : Nat) : Except Cause (Nat × Nat) :=
  let bad : Except Cause (Nat × Nat) := .error { code := .memPerm, addr := BitVec.ofNat 64 addr }
  if addr / 2 ^ 20 % 2 = 0 then
    if addr + size ≤ b.lm then .ok (b.bid, addr) else bad
  else if addr / 2 ^ 21 ≠ 0 then bad
  else
    match s.pairedBlock b (addr / 2 ^ 18 % 4) with
    | none => bad
    | some c => if addr % 2 ^ 18 + size ≤ c.lm then .ok (c.bid, addr % 2 ^ 18) else bad

/-- MEM_ALIGN ranks before MEM_PERM (R32, R34). -/
def State.checkLocal (s : State) (b : Block) (addr size : Nat) : Except Cause (Nat × Nat) :=
  if addr % size ≠ 0 then .error { code := .memAlign, addr := BitVec.ofNat 64 addr }
  else s.resolveLocal b addr size

def State.winRead (s : State) (bid off n : Nat) : Nat :=
  match s.block? bid with
  | some b => memLoad b.win off n
  | none => 0

/-- Bytes stored into the block's window, which hold no soft error any more. -/
def Block.stored (b : Block) (cs : List Host.Cell) : Block :=
  { b with win := memWriteAll b.win cs, bad := b.bad.filter fun a => !(cs.any fun c => c.1 == a) }

def State.winWrite (s : State) (bid : Nat) (cs : List Host.Cell) : State := s.modBlock bid fun b => b.stored cs

/-- The bytes lie in a granule with an uncorrectable soft error (R33, R329). -/
def State.winBad (s : State) (bid off n : Nat) : Bool :=
  (s.block? bid).elim false fun b => b.bad.any fun a => decide (off / 16 ≤ a / 16 ∧ a / 16 ≤ (off + n - 1) / 16)

/-- A read of local memory by a warp: ECC where a granule it reads is poisoned (R33, R329). -/
def State.readWin (s : State) (bid off n addr : Nat) : Except Cause Nat :=
  if s.winBad bid off n then .error { code := .ecc, addr := BitVec.ofNat 64 addr } else .ok (s.winRead bid off n)

/-! ### What a word waits for (R72, R151, R158) -/

/-- The accesses in flight of a lane of a warp. -/
def State.accsOf (s : State) (bid w : Nat) (l : Lane) : List Access :=
  s.accs.filter fun a => a.bid == bid && a.w == w && a.lane == l.val

def Exec.accsOf (x : Exec) (l : Lane) : List Access := x.s.accsOf x.i.bid x.i.w l

/-- The window that an access goes to, if any. -/
def Access.win? (a : Access) : Option Nat :=
  match a.kind with
  | .winLoad b | .winStore b _ => some b
  | _ => none

def Access.isAcquire (a : Access) : Bool :=
  match a.kind with
  | .load _ acq _ => acq
  | _ => false

/-- An LDA of the lane is still to be performed: no later load or store of the thread goes before it (R158, R264). -/
def Exec.acquiring (x : Exec) (l : Lane) : Bool := (x.accsOf l).any fun a => a.isAcquire && a.done.isNone

/-- The address of element p of a stream (R147). -/
def Stream.addr (st : Stream) : Nat := (st.base + st.pos * st.stride).toNat

def Thread.setPort (t : Thread) (j : Nat) (st : Option Stream) : Thread :=
  { t with ports := t.ports.setIfInBounds j st }

/-- Bytes of a window. -/
structure Span where
  bid : Nat
  off : Nat
  size : Nat

def Span.meets (p q : Span) : Bool := p.bid == q.bid && decide (p.off < q.off + q.size ∧ q.off < p.off + p.size)

/-- The element a port would access next, if it lies in a window. -/
def Exec.element (x : Exec) (st : Stream) : List Span :=
  match x.s.checkLocal x.b st.addr st.size with
  | .ok (wb, off) => [⟨wb, off, st.size⟩]
  | .error _ => []

/-- The elements that the uses of a word pop and push, each port going on from element to element (R73, R150). -/
def Exec.elements (x : Exec) : List RegUse → Thread → List Span
  | [], _ => []
  | u :: us, t =>
    match (if u.role == .src || u.role == .dst then t.boundPort u.r.toNat else none) with
    | none => x.elements us t
    | some st => x.element st ++ x.elements us (t.setPort (u.r.toNat - 124) (some { st with pos := st.pos + 1 }))

/-- The pushes that loads of a lane have still to make when they return (R151). -/
def Exec.pushesAhead (x : Exec) (l : Lane) : List Span :=
  (x.accsOf l).flatMap fun a => a.dst.elim [] fun d => ((x.w.thread l).boundPort d.1).elim [] x.element

/-- What earlier words of a lane have still to do in a window: those pushes, and LDL and STL under way to another slot. -/
def Exec.spansAhead (x : Exec) (l : Lane) : List Span :=
  x.pushesAhead l ++ (x.accsOf l).filterMap fun a => if a.done.isSome then none else a.win?.map fun wb => ⟨wb, a.loc, a.size⟩

/-- Bytes that a lane may not touch in its window yet: an earlier access of the same thread to them, or an acquire, is
still to be performed. -/
def Exec.mustWait (x : Exec) (l : Lane) (ps : List Span) : Bool :=
  !ps.isEmpty && (x.acquiring l || ps.any fun p => (x.spansAhead l).any p.meets)

/-- The interlock of R72 for one thread: a register of the word is still to be written by an earlier access of it; and of
R151: an element of a bound port is. -/
def Exec.waits (x : Exec) (uses : List RegUse) (l : Lane) : Bool :=
  (x.accsOf l).any (fun a =>
    match a.dst with
    | none => false
    | some (r, n) => uses.any fun u => u.role != .named && u.list.any fun k => decide (r ≤ k ∧ k < r + n)) ||
    x.mustWait l (x.elements uses (x.w.thread l))

/-- The interlock holds some active thread. -/
def Exec.interlocked (x : Exec) (uses : List RegUse) : Bool := (lanesIn x.act).any (x.waits uses)

/-- The operands that a lane reads of a word that acts once: the highest lane reads them all, another only names the
sources (R91, R176). -/
def Exec.onceUses (x : Exec) (uses : List RegUse) (l : Lane) : List RegUse :=
  if hiLane x.act = some l then uses else uses.map fun u => if u.role = .src then { u with role := .named } else u

/-- The threads of the active set for which a condition holds. -/
def Exec.lanesWith (x : Exec) (p : Lane → Bool) : Mask := maskOf fun l => inMask x.act l && p l

/-- Holds the threads that the interlock holds. -/
def Exec.holdOn (x : Exec) (uses : List RegUse) : Result := x.holdLanes (x.lanesWith (x.waits uses))

/-- A word that acts once is interlocked, and holds those threads. -/
def Exec.onceLocked (x : Exec) (uses : List RegUse) : Bool := (lanesIn x.act).any fun l => x.waits (x.onceUses uses l) l
def Exec.onceHold (x : Exec) (uses : List RegUse) : Result :=
  x.holdLanes (x.lanesWith fun l => x.waits (x.onceUses uses l) l)

/-- A load of some lanes of a warp has still to push its value to a bound port (R72, R151). -/
def State.portPending (s : State) (bid wi : Nat) (w : Warp) (lanes : Mask) : Bool :=
  (lanesIn lanes).any fun l => (s.accsOf bid wi l).any fun a => a.dst.elim false fun d => (w.thread l).bound d.1

def Exec.portPending (x : Exec) : Bool := x.s.portPending x.i.bid x.i.w x.w x.act

/-! ### Reading and writing operands -/

def streamFault : Cause := { code := .stream }

/-- StreamRead: pops the next element (R150). -/
def Exec.streamRead (x : Exec) (t : Thread) (n : Nat) (st : Stream) : Except Cause (Word × Thread) :=
  if st.out ∨ st.pos = st.count then .error streamFault
  else
    match x.s.checkLocal x.b st.addr st.size with
    | .error c => .error c
    | .ok (bid, off) =>
      match x.s.readWin bid off st.size st.addr with
      | .error c => .error c
      | .ok v => .ok (BitVec.ofNat 32 v, t.setPort (n - 124) (some { st with pos := st.pos + 1 }))

/-- What a lane produces: its thread, and the bytes its pushes store, by block. -/
structure LaneOut where
  t : Thread
  pushes : List (Nat × List Host.Cell) := []

/-- StreamWrite: pushes one element (R150). -/
def Exec.streamWrite (x : Exec) (t : Thread) (n : Nat) (st : Stream) (v : Word) : Except Cause LaneOut :=
  if !st.out ∨ st.pos = st.count then .error streamFault
  else
    match x.s.checkLocal x.b st.addr st.size with
    | .error c => .error c
    | .ok (bid, off) =>
      .ok ⟨t.setPort (n - 124) (some { st with pos := st.pos + 1 }), [(bid, cellsAt off st.size v.toNat)]⟩

/-- Reads one register, or pops the port it names. -/
def Exec.get1 (x : Exec) (t : Thread) (r : VReg) : Except Cause (Word × Thread) :=
  match t.boundPort r.toNat with
  | some st => x.streamRead t r.toNat st
  | none => .ok (t.reg r, t)

/-- The pair's value, low register in bits [31:0] (R14). -/
def Thread.get2 (t : Thread) (r : VReg) : DWord := t.reg (r + 1) ++ t.reg r
def Thread.get4 (t : Thread) (r : VReg) : BitVec 128 := t.get2 (r + 2) ++ t.get2 r

/-- Writes one register, or pushes to the port it names. -/
def Exec.put1 (x : Exec) (t : Thread) (r : VReg) (v : Word) : Except Cause LaneOut :=
  match t.boundPort r.toNat with
  | some st => x.streamWrite t r.toNat st v
  | none => .ok ⟨t.setReg r v, []⟩

def Thread.put2 (t : Thread) (r : VReg) (v : DWord) : Thread :=
  (t.setReg r (v.setWidth 32)).setReg (r + 1) (v.extractLsb' 32 32)
def Thread.put4 (t : Thread) (r : VReg) (v : BitVec 128) : Thread :=
  (t.put2 r (v.setWidth 64)).put2 (r + 2) (v.extractLsb' 64 64)

/-- The same register contents, hidden or not, without a pop: operands taken from one lane for the warp. -/
def Warp.lane2 (w : Warp) (l : Lane) (r : VReg) : DWord := (w.thread l).get2 r

/-! ### Running a word over its lanes (R34, R73) -/

/-- Reads of one lane: a value of its sources and the thread after any pops. -/
abbrev LaneRead (α : Type) := Lane → Thread → Except Cause (α × Thread)
/-- Writes of one lane: from every lane's sources, its own, and its thread. -/
abbrev LaneWrite (α : Type) := (Lane → Option α) → Lane → α → Thread → Except Cause LaneOut

/-- A condition on a lane's registers, or one of its accesses that ranks before it (R34). -/
def Cause.orEarlier {α : Type} (c : Cause) (r : Except Cause α) : Cause :=
  match r with
  | .error k => if k.code.rank < c.code.rank then k else c
  | .ok _ => c

/-- What the pops and pushes of a word meet at their addresses, each at the position the earlier ones leave (R73). -/
def Exec.portCauses (x : Exec) : List RegUse → Thread → List Cause
  | [], _ => []
  | u :: us, t =>
    match (if u.role == .src || u.role == .dst then t.boundPort u.r.toNat else none) with
    | none => x.portCauses us t
    | some st =>
      let rest := x.portCauses us (t.setPort (u.r.toNat - 124) (some { st with pos := st.pos + 1 }))
      match x.s.checkLocal x.b st.addr st.size with
      | .error c => c :: rest
      | .ok _ => rest

/-- A lane that meets a condition reports the first in R34's order among those of all its port accesses. -/
def Exec.ranked {α : Type} (x : Exec) (uses : List RegUse) (t : Thread) (r : Except Cause α) : Except Cause α :=
  match r with
  | .ok a => .ok a
  | .error c => .error ((x.portCauses uses t).foldl (fun m k => if k.code.rank < m.code.rank then k else m) c)

/-- Phase 1: every active lane reads its sources, after the register checks. -/
def Exec.readLanes {α : Type} (x : Exec) (uses : List RegUse) (priv : Bool) (rd : LaneRead α) :
    Vector (Option (Except Cause (α × Thread))) 32 :=
  lanesOf fun l =>
    if inMask x.act l then
      match x.regCause uses priv l with
      | some c => some (.error (c.orEarlier (x.ranked uses (x.w.thread l) (rd l ((x.w.thread l).pass x.i.len)))))
      | none => some (x.ranked uses (x.w.thread l) (rd l ((x.w.thread l).pass x.i.len)))
    else none

def laneVal {α : Type} (reads : Vector (Option (Except Cause (α × Thread))) 32) (l : Lane) : Option α :=
  match reads[l] with
  | some (.ok (a, _)) => some a
  | _ => none

/-- Phase 2: every active lane writes. -/
def writeLanes {α : Type} (reads : Vector (Option (Except Cause (α × Thread))) 32) (wr : LaneWrite α) :
    Vector (Option (Except Cause LaneOut)) 32 :=
  lanesOf fun l =>
    match reads[l] with
    | some (.ok (a, t)) => some (wr (laneVal reads) l a t)
    | some (.error c) => some (.error c)
    | none => none

/-- The conditions found, in ascending lane order. -/
def laneCauses (outs : Vector (Option (Except Cause LaneOut)) 32) : List (Lane × Cause) :=
  allLanes.filterMap fun l =>
    match outs[l] with
    | some (.error c) => some (l, c)
    | _ => none

/-- The threads after the word: a lane that wrote has its own result, an issued lane has moved on. -/
def Exec.outThreads (x : Exec) (outs : Vector (Option (Except Cause LaneOut)) 32) : Vector Thread 32 :=
  lanesOf fun l =>
    match outs[l] with
    | some (.ok o) => o.t
    | _ => if inMask x.i.lanes l then (x.w.thread l).pass x.i.len else x.w.thread l

/-- The pushes of all lanes, ascending, performed as local stores (R151). -/
def applyPushes (s : State) (outs : Vector (Option (Except Cause LaneOut)) 32) : State :=
  allLanes.foldl (fun s l =>
    match outs[l] with
    | some (.ok o) => o.pushes.foldl (fun s p => s.winWrite p.1 p.2) s
    | _ => s) s

/-- Registers that are written hold no poison any more (R359). -/
def Warp.cleanse (w : Warp) (lanes : Mask) (uses : List RegUse) : Warp :=
  { w with poison := w.poison.filter fun e =>
      !(e.file == 0 && (lanesIn lanes).any (fun l => l.val == e.lane) && uses.any fun u => u.writes && u.list.contains e.reg) }

/-- A register of a lane that is written outside a word holds no poison any more. -/
def Warp.cleanReg (w : Warp) (lane reg : Nat) : Warp :=
  { w with poison := w.poison.filter fun e => !(e.file == 0 && e.lane == lane && e.reg == reg) }

/-- Completes a word: its lanes as they wrote, `upd` on the warp, the issue closed, the pushes stored. -/
def Exec.finish (x : Exec) (uses : List RegUse) (outs : Vector (Option (Except Cause LaneOut)) 32)
    (upd : Warp → Warp) : State :=
  applyPushes (x.s.modWarp x.i.bid x.i.w fun w =>
    (((upd { w with threads := x.outThreads outs }).cleanse x.act uses).cleanHard x.i x.act).settle).closeIssue outs

/-- What every active lane writes after the conditions have been decided; `then'` is what else the word does, and `ts` what
it accesses. -/
def Exec.writeAll (x : Exec) (uses : List RegUse) (f : Lane → Thread → Except Cause LaneOut) (then' : State → State)
    (ts : List Touch := []) : Result :=
  let outs := lanesOf fun l =>
    if inMask x.act l then some (x.ranked uses (x.w.thread l) (f l ((x.w.thread l).pass x.i.len))) else none
  x.orTrap (laneCauses outs) ts (.next (then' (x.finish uses outs id)))

/-! ### Words that act once (R91, R173, R176) -/

/-- Pops the bound ports among some sources (R150). -/
def Exec.popAll (x : Exec) : List VReg → Thread → Except Cause Thread
  | [], t => .ok t
  | r :: rest, t => (match x.get1 t r with | .error c => .error c | .ok (_, t) => x.popAll rest t)

/-- V[r] of the highest active lane, after it has popped what comes before (R73). -/
def Exec.hiAfter (x : Exec) (pre : List VReg) (r : VReg) : Except Cause Nat :=
  (hiLane x.act).elim (.ok 0) fun l =>
    match x.popAll pre (x.w.thread l) with
    | .error k => .error k
    | .ok t => (match x.get1 t r with | .error k => .error k | .ok (v, _) => .ok v.toNat)

/-- V[a] of the highest active lane. -/
def Exec.hiReg (x : Exec) (a : VReg) : Except Cause Nat := x.hiAfter [] a

/-- The operand of a word that acts once. -/
def Exec.hiWord (x : Exec) (pre : List VReg) (r : VReg) : Word :=
  match x.hiAfter pre r with
  | .ok v => BitVec.ofNat 32 v
  | .error _ => 0

/-- The pair a word that acts once reads. -/
def Exec.hiPair (x : Exec) (a : VReg) : DWord := (hiLane x.act).elim 0 fun l => x.w.lane2 l a

/-- The highest lane can read such an operand: only poison, which ranks low, may stand against it. -/
def Exec.readable (x : Exec) (u : RegUse) : Bool :=
  (hiLane x.act).elim false fun l => (x.regCause [u] false l).elim true fun c => c.code == .ecc

/-- The operand where it can be read: what it names may raise a condition that ranks before another of the word (R34). -/
def Exec.operand (x : Exec) (pre : List VReg) (r : VReg) : Option Word :=
  if x.readable (src1 r) then (match x.hiAfter pre r with | .ok v => some (BitVec.ofNat 32 v) | .error _ => none) else none

/-- What an operand of such a word names, where it can be read. -/
def Exec.ofOperand (x : Exec) (pre : List VReg) (r : VReg) (f : Word → Option Cause) : List (Lane × Cause) :=
  ((x.operand pre r).bind f).elim [] x.everyLane

/-- A condition of an operand. -/
def causeIf (p : Bool) (c : Cause) : Option Cause := if p then some c else none

/-- What the registers and ports of a word that acts once meet in each active lane; `priv`: the level is too low. -/
def Exec.onceCauses (x : Exec) (uses : List RegUse) (priv : Bool) : List (Lane × Cause) :=
  (lanesIn x.act).flatMap fun l =>
    let us := x.onceUses uses l
    let srcs := (us.filter fun u => u.sh == .one && u.role == .src).map (·.r)
    (((x.regCause us priv l).toList ++ x.portCauses us (x.w.thread l)) ++
      (match x.popAll srcs (x.w.thread l) with | .error c => [c] | .ok _ => [])).map fun c => (l, c)

/-- The thread of a lane past such a word's sources: the highest lane alone reads them. -/
def Exec.popHi (x : Exec) (srcs : List VReg) (l : Lane) (t : Thread) : Except Cause Thread :=
  if hiLane x.act = some l then x.popAll srcs t else .ok t

/-- Completes a word that acts once: every active lane writes. -/
def Exec.onceAll (x : Exec) (srcs : List VReg) (dsts : List RegUse) (put : Thread → Except Cause LaneOut)
    (then' : State → State) (ts : List Touch := []) : Result :=
  x.writeAll dsts (fun l t =>
    x.ranked (x.onceUses (srcs.map src1 ++ dsts) l) t (match x.popHi srcs l t with | .error c => .error c | .ok t => put t))
    then' ts

/-- Completes such a word without a destination. -/
def Exec.actOnce (x : Exec) (srcs : List VReg) (then' : State → State) : Result :=
  x.onceAll srcs [] (fun t => .ok ⟨t, []⟩) then'

/-- Completes such a word with one value for every active lane. -/
def Exec.answer (x : Exec) (srcs : List VReg) (d : VReg) (v : Word) (then' : State → State) : Result :=
  x.onceAll srcs [dst1 d] (fun t => x.put1 t d v) then'

/-- Runs a word: interlock, conditions of all lanes, then all effects (R34, R72, R73).  `upd` changes the warp's own
state from the lanes' sources. -/
def Exec.run {α : Type} (x : Exec) (uses : List RegUse) (priv : Bool) (rd : LaneRead α) (wr : LaneWrite α)
    (upd : (Lane → Option α) → Warp → Warp) : Result :=
  if x.interlocked uses then x.holdOn uses
  else
    let reads := x.readLanes uses priv rd
    let outs := writeLanes reads wr
    x.orTrap (laneCauses outs) []
      (.next (x.finish uses outs (upd (laneVal reads))))

def keepWarp {α : Type} : (Lane → Option α) → Warp → Warp := fun _ w => w

/-! ### The common shapes of register words -/

/-- One source register. -/
def Exec.rd1 (x : Exec) (a : VReg) : LaneRead Word := fun _ t => x.get1 t a

/-- Two source registers, popped in the order a, b (R73). -/
def Exec.rd11 (x : Exec) (a b : VReg) : LaneRead (Word × Word) := fun _ t =>
  match x.get1 t a with
  | .error c => .error c
  | .ok (u, t) => (match x.get1 t b with | .error c => .error c | .ok (v, t) => .ok ((u, v), t))

/-- d ← f a, with flags (R91). -/
def unaryWord (s : State) (g : PReg) (d a : VReg) (f : Issue → Word → Word × Flags) : Result :=
  withWord s (some g) fun x =>
    x.run [src1 a, dst1 d] false (x.rd1 a) (fun _ _ u t => let (r, fl) := f x.i u; x.put1 (t.flag fl) d r) keepWarp

/-- d ← f a b, with flags. -/
def binaryWord (s : State) (g : PReg) (d a b : VReg) (f : Issue → Word → Word → Word × Flags) : Result :=
  withWord s (some g) fun x =>
    x.run [src1 a, src1 b, dst1 d] false (x.rd11 a b)
      (fun _ _ u t => let (r, fl) := f x.i u.1 u.2; x.put1 (t.flag fl) d r) keepWarp

/-- d ← f a b d, with flags (R64). -/
def ternaryWord (s : State) (g : PReg) (d a b : VReg) (f : Issue → Word → Word → Word → Word × Flags) : Result :=
  withWord s (some g) fun x =>
    x.run [src1 a, src1 b, third1 d] false (x.rd11 a b)
      (fun _ _ u t => let (r, fl) := f x.i u.1 u.2 (t.reg d); .ok ⟨(t.flag fl).setReg d r, []⟩) keepWarp

/-- Pairs: d ← f a b. -/
def binaryPair (s : State) (g : PReg) (d a b : VReg) (f : Issue → DWord → DWord → DWord × Flags) : Result :=
  withWord s (some g) fun x =>
    x.run [src2 a, src2 b, dst2 d] false (fun _ t => .ok ((t.get2 a, t.get2 b), t))
      (fun _ _ u t => let (r, fl) := f x.i u.1 u.2; .ok ⟨(t.flag fl).put2 d r, []⟩) keepWarp

/-- Pairs: d ← f a b d. -/
def ternaryPair (s : State) (g : PReg) (d a b : VReg) (f : Issue → DWord → DWord → DWord → DWord × Flags) : Result :=
  withWord s (some g) fun x =>
    x.run [src2 a, src2 b, third2 d] false (fun _ t => .ok ((t.get2 a, t.get2 b), t))
      (fun _ _ u t => let (r, fl) := f x.i u.1 u.2 (t.get2 d); .ok ⟨(t.flag fl).put2 d r, []⟩) keepWarp

/-- A word without operands in registers: no lane reads or writes; `upd` is its effect on a thread. -/
def plainWord (s : State) (g : Option PReg) (upd : Exec → Lane → Thread → Thread) : Result :=
  withWord s g fun x => x.run [] false (fun _ t => .ok ((), t)) (fun _ l _ t => .ok ⟨upd x l t, []⟩) keepWarp

end Sys2Proof.Machine
end

