-- ==== Sys2Proof/Machine/Int.lean ====
section
/-! DEFINITION. Integer arithmetic, shifts, logic and bit fields (spec/05_isa_integer_control.md, R93 to R103). -/

namespace Sys2Proof.Machine

def noFlags (x : Word) : Word × Flags := (x, {})

/-! ### What each word computes -/

def imin (x y : Word) : Word := if x.toInt ≤ y.toInt then x else y
def imax (x y : Word) : Word := if x.toInt ≥ y.toInt then x else y
def iminu (x y : Word) : Word := if x.toNat ≤ y.toNat then x else y
def imaxu (x y : Word) : Word := if x.toNat ≥ y.toNat then x else y
/-- |x| wrapped (R94). -/
def iabs (x : Word) : Word := if x.toInt < 0 then -x else x
/-- Floor(S32(a) × S32(b) / 2^32) (R97). -/
def imulh (x y : Word) : Word := BitVec.ofInt 32 (x.toInt * y.toInt / 2 ^ 32)
def imulhu (x y : Word) : Word := BitVec.ofNat 32 (x.toNat * y.toNat / 2 ^ 32)
def imadw (x y : Word) (z : DWord) : DWord := BitVec.ofInt 64 (x.toInt * y.toInt) + z
def imadwu (x y : Word) (z : DWord) : DWord := BitVec.ofNat 64 (x.toNat * y.toNat) + z

/-- Division truncates toward zero; its corners are those of R98. -/
def idiv (x y : Word) : Word :=
  if y = 0 then 0xFFFFFFFF else BitVec.ofInt 32 (Int.tdiv x.toInt y.toInt)
def idivu (x y : Word) : Word := if y = 0 then 0xFFFFFFFF else BitVec.ofNat 32 (x.toNat / y.toNat)
def irem (x y : Word) : Word := if y = 0 then x else BitVec.ofInt 32 (Int.tmod x.toInt y.toInt)
def iremu (x y : Word) : Word := if y = 0 then x else BitVec.ofNat 32 (x.toNat % y.toNat)

/-- The amount is not reduced modulo 32 (R99). -/
def shl (x : Word) (n : Nat) : Word := if n ≤ 31 then x <<< n else 0
def shr (x : Word) (n : Nat) : Word := if n ≤ 31 then x >>> n else 0
def sar (x : Word) (n : Nat) : Word :=
  if n ≤ 31 then BitVec.ofInt 32 (x.toInt / 2 ^ n) else if x.toInt < 0 then 0xFFFFFFFF else 0
def rotl (x : Word) (n : Nat) : Word :=
  let r := n % 32
  (x <<< r) ||| (x >>> (32 - r))

def popc (x : Word) : Word := BitVec.ofNat 32 ((allLanes.filter fun l => x.getLsbD l.val).length)
/-- Zero bits above the highest set bit; 32 for 0 (R102). -/
def clz (x : Word) : Word := if x = 0 then 32 else BitVec.ofNat 32 (31 - Nat.log2 x.toNat)
/-- Zero bits below the lowest set bit; 32 for 0 (R102). -/
def ctz (x : Word) : Word :=
  BitVec.ofNat 32 ((allLanes.find? fun l => x.getLsbD l.val).elim 32 (·.val))
def brev (x : Word) : Word := maskOf fun l => x.getLsbD (31 - l.val)

/-- pos and len of a field control word (R103). -/
def fieldPos (ctl : Word) : Nat := ctl.toNat % 256
def fieldLen (ctl : Word) : Nat := min (ctl.toNat / 256 % 256) 32

/-- The field's bits, with `top` above bit 31. -/
def fieldBits (x : Word) (pos len : Nat) (top : Bool) : Word :=
  maskOf fun l => decide (l.val < len) && (if pos + l.val ≤ 31 then x.getLsbD (pos + l.val) else top)

def bfeu (x ctl : Word) : Word := fieldBits x (fieldPos ctl) (fieldLen ctl) false

/-- BFE sign-extends from bit len − 1 of the field (R103). -/
def bfe (x ctl : Word) : Word :=
  let f := fieldBits x (fieldPos ctl) (fieldLen ctl) (x.getLsbD 31)
  let len := fieldLen ctl
  if len = 0 then 0
  else maskOf fun l => if l.val < len then f.getLsbD l.val else f.getLsbD (len - 1)

/-- BFI writes the low bits of x over the field of the base; bits past 31 are discarded (R103). -/
def bfi (x ctl base : Word) : Word :=
  let pos := fieldPos ctl
  let len := fieldLen ctl
  maskOf fun l => if pos ≤ l.val ∧ l.val < pos + len then x.getLsbD (l.val - pos) else base.getLsbD l.val

/-- The low 32 bits of an effective immediate (R91). -/
def imm32 (k : Int) : Word := BitVec.ofInt 32 k

/-! ### Meanings -/

def execIadd (g : PReg) (d a b : VReg) (s : State) : Result := binaryWord s g d a b fun _ x y => noFlags (x + y)
def execIsub (g : PReg) (d a b : VReg) (s : State) : Result := binaryWord s g d a b fun _ x y => noFlags (x - y)
def execImin (g : PReg) (d a b : VReg) (s : State) : Result := binaryWord s g d a b fun _ x y => noFlags (imin x y)
def execImax (g : PReg) (d a b : VReg) (s : State) : Result := binaryWord s g d a b fun _ x y => noFlags (imax x y)
def execIminu (g : PReg) (d a b : VReg) (s : State) : Result := binaryWord s g d a b fun _ x y => noFlags (iminu x y)
def execImaxu (g : PReg) (d a b : VReg) (s : State) : Result := binaryWord s g d a b fun _ x y => noFlags (imaxu x y)
def execIabs (g : PReg) (d a : VReg) (s : State) : Result := unaryWord s g d a fun _ x => noFlags (iabs x)
def execIneg (g : PReg) (d a : VReg) (s : State) : Result := unaryWord s g d a fun _ x => noFlags (-x)

def execIaddi (g : PReg) (d a : VReg) (i : BitVec 9) (s : State) : Result :=
  unaryWord s g d a fun iss x => noFlags (x + imm32 (iss.imm i true))

def execIadd64 (g : PReg) (d a b : VReg) (s : State) : Result := binaryPair s g d a b fun _ x y => (x + y, {})
def execIsub64 (g : PReg) (d a b : VReg) (s : State) : Result := binaryPair s g d a b fun _ x y => (x - y, {})

def execImul (g : PReg) (d a b : VReg) (s : State) : Result := binaryWord s g d a b fun _ x y => noFlags (x * y)
def execImulh (g : PReg) (d a b : VReg) (s : State) : Result := binaryWord s g d a b fun _ x y => noFlags (imulh x y)
def execImulhu (g : PReg) (d a b : VReg) (s : State) : Result := binaryWord s g d a b fun _ x y => noFlags (imulhu x y)
def execImad (g : PReg) (d a b : VReg) (s : State) : Result :=
  ternaryWord s g d a b fun _ x y z => noFlags (x * y + z)

/-- IMADW and IMADWU: 32-bit sources, the pair d both addend and destination (R97). -/
def wideMad (s : State) (g : PReg) (d a b : VReg) (f : Word → Word → DWord → DWord) : Result :=
  withWord s (some g) fun x =>
    x.run [src1 a, src1 b, third2 d] false (x.rd11 a b)
      (fun _ _ u t => .ok ⟨t.put2 d (f u.1 u.2 (t.get2 d)), []⟩) keepWarp

def execImadw (g : PReg) (d a b : VReg) (s : State) : Result := wideMad s g d a b imadw
def execImadwu (g : PReg) (d a b : VReg) (s : State) : Result := wideMad s g d a b imadwu

def execIdiv (g : PReg) (d a b : VReg) (s : State) : Result := binaryWord s g d a b fun _ x y => noFlags (idiv x y)
def execIdivu (g : PReg) (d a b : VReg) (s : State) : Result := binaryWord s g d a b fun _ x y => noFlags (idivu x y)
def execIrem (g : PReg) (d a b : VReg) (s : State) : Result := binaryWord s g d a b fun _ x y => noFlags (irem x y)
def execIremu (g : PReg) (d a b : VReg) (s : State) : Result := binaryWord s g d a b fun _ x y => noFlags (iremu x y)

def execShl (g : PReg) (d a b : VReg) (s : State) : Result := binaryWord s g d a b fun _ x y => noFlags (shl x y.toNat)
def execShr (g : PReg) (d a b : VReg) (s : State) : Result := binaryWord s g d a b fun _ x y => noFlags (shr x y.toNat)
def execSar (g : PReg) (d a b : VReg) (s : State) : Result := binaryWord s g d a b fun _ x y => noFlags (sar x y.toNat)
def execRotl (g : PReg) (d a b : VReg) (s : State) : Result := binaryWord s g d a b fun _ x y => noFlags (rotl x y.toNat)

def execShli (g : PReg) (d a : VReg) (i : BitVec 7) (s : State) : Result :=
  unaryWord s g d a fun iss x => noFlags (shl x (imm32 (iss.imm i false)).toNat)
def execShri (g : PReg) (d a : VReg) (i : BitVec 7) (s : State) : Result :=
  unaryWord s g d a fun iss x => noFlags (shr x (imm32 (iss.imm i false)).toNat)
def execSari (g : PReg) (d a : VReg) (i : BitVec 7) (s : State) : Result :=
  unaryWord s g d a fun iss x => noFlags (sar x (imm32 (iss.imm i false)).toNat)
def execAndi (g : PReg) (d a : VReg) (i : BitVec 7) (s : State) : Result :=
  unaryWord s g d a fun iss x => noFlags (x &&& imm32 (iss.imm i false))

def execAnd (g : PReg) (d a b : VReg) (s : State) : Result := binaryWord s g d a b fun _ x y => noFlags (x &&& y)
def execOr (g : PReg) (d a b : VReg) (s : State) : Result := binaryWord s g d a b fun _ x y => noFlags (x ||| y)
def execXor (g : PReg) (d a b : VReg) (s : State) : Result := binaryWord s g d a b fun _ x y => noFlags (x ^^^ y)
def execAndn (g : PReg) (d a b : VReg) (s : State) : Result := binaryWord s g d a b fun _ x y => noFlags (x &&& ~~~y)
def execOrn (g : PReg) (d a b : VReg) (s : State) : Result := binaryWord s g d a b fun _ x y => noFlags (x ||| ~~~y)
def execXnor (g : PReg) (d a b : VReg) (s : State) : Result := binaryWord s g d a b fun _ x y => noFlags (~~~(x ^^^ y))
def execNot (g : PReg) (d a : VReg) (s : State) : Result := unaryWord s g d a fun _ x => noFlags (~~~x)

def execPopc (g : PReg) (d a : VReg) (s : State) : Result := unaryWord s g d a fun _ x => noFlags (popc x)
def execClz (g : PReg) (d a : VReg) (s : State) : Result := unaryWord s g d a fun _ x => noFlags (clz x)
def execCtz (g : PReg) (d a : VReg) (s : State) : Result := unaryWord s g d a fun _ x => noFlags (ctz x)
def execBrev (g : PReg) (d a : VReg) (s : State) : Result := unaryWord s g d a fun _ x => noFlags (brev x)

def execBfe (g : PReg) (d a b : VReg) (s : State) : Result := binaryWord s g d a b fun _ x y => noFlags (bfe x y)
def execBfeu (g : PReg) (d a b : VReg) (s : State) : Result := binaryWord s g d a b fun _ x y => noFlags (bfeu x y)
def execBfi (g : PReg) (d a b : VReg) (s : State) : Result :=
  ternaryWord s g d a b fun _ x y z => noFlags (bfi x y z)

end Sys2Proof.Machine
end

