-- ==== Sys2Proof/Machine/Pred.lean ====
section
/-! DEFINITION. Compares, predicates, selection, moves and uniform registers (spec/05_isa_integer_control.md, R104 to
R110). -/

namespace Sys2Proof.Machine

/-- The conditions of kind 0 (R65). -/
def IntCond.holds (c : IntCond) (x y : Word) : Bool :=
  match c with
  | .eq => x == y
  | .ne => x != y
  | .lt => decide (x.toInt < y.toInt)
  | .le => decide (x.toInt ≤ y.toInt)
  | .gt => decide (x.toInt > y.toInt)
  | .ge => decide (x.toInt ≥ y.toInt)
  | .ltu => decide (x.toNat < y.toNat)
  | .leu => decide (x.toNat ≤ y.toNat)
  | .gtu => decide (x.toNat > y.toNat)
  | .geu => decide (x.toNat ≥ y.toNat)

/-- The predicate write of SETP: ANDed into the old value with acc = 1 (R65). -/
def Thread.setp (t : Thread) (p : PReg) (acc c : Bool) : Thread := t.setPred p (if acc then c && t.pred p else c)

def execIsetp (g p : PReg) (c : IntCond) (a b : VReg) (acc : Bool) (s : State) : Result :=
  withWord s (some g) fun x =>
    x.run [src1 a, src1 b] false (x.rd11 a b)
      (fun _ _ u t => .ok ⟨t.setp p acc (IntCond.holds c u.1 u.2), []⟩) keepWarp

def execIsetpi (g p : PReg) (c : IntCond) (a : VReg) (i : BitVec 7) (acc : Bool) (s : State) : Result :=
  withWord s (some g) fun x =>
    x.run [src1 a] false (x.rd1 a)
      (fun _ _ u t => .ok ⟨t.setp p acc (IntCond.holds c u (imm32 (x.i.imm i true))), []⟩) keepWarp

def execPand (g d a b : PReg) (s : State) : Result :=
  plainWord s (some g) fun _ _ t => t.setPred d (t.pred a && t.pred b)
def execPor (g d a b : PReg) (s : State) : Result :=
  plainWord s (some g) fun _ _ t => t.setPred d (t.pred a || t.pred b)
def execPxor (g d a b : PReg) (s : State) : Result :=
  plainWord s (some g) fun _ _ t => t.setPred d (t.pred a != t.pred b)
def execPnot (g d a : PReg) (s : State) : Result := plainWord s (some g) fun _ _ t => t.setPred d (!t.pred a)

/-- SEL reads both sources and keeps one (R106). -/
def execSel (g : PReg) (d a b : VReg) (s : State) : Result :=
  withWord s (some g) fun x =>
    x.run [src1 a, src1 b, dst1 d] false (x.rd11 a b)
      (fun _ _ u t =>
        let (p, neg) := x.i.selector
        x.put1 t d (if t.pred p != neg then u.1 else u.2)) keepWarp

/-- Bit n is p n; bit 7 is always 1 (R107). -/
def predBits (t : Thread) : Word := (1#1 ++ t.p).setWidth 32

def execP2v (g : PReg) (d : VReg) (s : State) : Result :=
  withWord s (some g) fun x =>
    x.run [dst1 d] false (fun _ t => .ok ((), t)) (fun _ _ _ t => x.put1 t d (predBits t)) keepWarp

def execV2p (g : PReg) (m : BitVec 7) (a : VReg) (s : State) : Result :=
  withWord s (some g) fun x =>
    x.run [src1 a] false (x.rd1 a)
      (fun _ _ u t => .ok ⟨{ t with p := (t.p &&& ~~~m) ||| (u.setWidth 7 &&& m) }, []⟩) keepWarp

def execMov (g : PReg) (d a : VReg) (s : State) : Result := unaryWord s g d a fun _ x => noFlags x

def execMovi (g : PReg) (d : VReg) (i : BitVec 16) (s : State) : Result :=
  withWord s (some g) fun x =>
    x.run [dst1 d] false (fun _ t => .ok ((), t)) (fun _ _ _ t => x.put1 t d (imm32 (x.i.imm i true))) keepWarp

def execMovw (g : PReg) (d : VReg) (a : WReg) (s : State) : Result :=
  withWord s (some g) fun x =>
    x.run [dst1 d] false (fun _ t => .ok ((), t)) (fun _ _ _ t => x.put1 t d (x.w.uni a)) keepWarp

/-- The highest active lane's source (R74). -/
def hiVal {α : Type} (x : Exec) (vals : Lane → Option α) : Option α := (hiLane x.act).bind vals

def execWmov (g : PReg) (d : WReg) (a : VReg) (s : State) : Result :=
  withWord s (some g) fun x =>
    x.run [src1 a] false (x.rd1 a) (fun _ _ _ t => .ok ⟨t, []⟩)
      (fun vals w => match hiVal x vals with | some v => w.setUni d v | none => w)

def execWmovw (g : PReg) (d a : WReg) (s : State) : Result :=
  withWord s (some g) fun x =>
    x.run [] false (fun _ t => .ok ((), t)) (fun _ _ _ t => .ok ⟨t, []⟩) (fun _ w => w.setUni d (x.w.uni a))

def execWadd (g : PReg) (d a b : WReg) (s : State) : Result :=
  withWord s (some g) fun x =>
    x.run [] false (fun _ t => .ok ((), t)) (fun _ _ _ t => .ok ⟨t, []⟩)
      (fun _ w => w.setUni d (x.w.uni a + x.w.uni b))

/-- LEA: base pair plus the sign-extended register shifted (R110). -/
def lea (base : DWord) (y : Word) (k : BitVec 2) : DWord := base + (y.signExtend 64 <<< k.toNat)

def execLea (g : PReg) (d a b : VReg) (k : BitVec 2) (s : State) : Result :=
  withWord s (some g) fun x =>
    x.run [src2 a, src1 b, dst2 d] false
      (fun _ t =>
        let base := t.get2 a
        match x.get1 t b with
        | .error c => .error c
        | .ok (y, t) => .ok ((base, y), t))
      (fun _ _ u t => .ok ⟨t.put2 d (lea u.1 u.2 k), []⟩) keepWarp

end Sys2Proof.Machine
end

