-- ==== Sys2Proof/Machine/Special.lean ====
section
/-! DEFINITION. Special registers and time (spec/05_isa_integer_control.md, R111, R112; spec/01_machine_state.md, R26). -/

namespace Sys2Proof.Machine

/-- sr.grp0 to sr.grp3: bit 31 and the group id, or 0 for an empty slot (R26). -/
def grpWord (b : Block) (k : Nat) : Word :=
  match b.grps[k]? with
  | some g => BitVec.ofNat 32 (2 ^ 31 + g)
  | none => 0

/-- sr.cnt (R26). -/
def cntWord (w : Warp) : Word := BitVec.ofNat 32 (2 ^ 12 * w.mxc + 2 ^ 8 * w.cpc + 2 ^ 4 * w.stc + w.ldc)

/-- The special registers of 32 bits, by index (R26). -/
def specialReg (x : Exec) (l : Lane) (t : Thread) (k : Nat) : Word :=
  match k with
  | 0 => BitVec.ofNat 32 l.val
  | 1 => BitVec.ofNat 32 x.i.w
  | 2 => BitVec.ofNat 32 (x.b.blk % 2 ^ 24)
  | 3 => kernOf x.s x.b
  | 4 => BitVec.ofNat 32 (x.b.lcore - 128 * x.b.pn)
  | 5 => BitVec.ofNat 32 ((x.b.lcore - 128 * x.b.pn) / 4)
  | 6 => BitVec.ofNat 32 (x.s.physCore x.b.core)
  | 7 => BitVec.ofNat 32 (x.s.physCluster x.b.core)
  | 8 => BitVec.ofNat 32 (islandOfCore x.b.core)
  | 9 => BitVec.ofNat 32 (dieOfCore x.b.core)
  | 12 => BitVec.ofNat 32 x.b.cls
  | 13 => t.fpflags.setWidth 32
  | 14 => grpWord x.b 0
  | 15 => grpWord x.b 1
  | 16 => grpWord x.b 2
  | 17 => grpWord x.b 3
  | 18 => BitVec.ofNat 32 x.b.lm
  | 19 => cntWord x.w
  | _ => 0

def execRds (d : VReg) (a : BitVec 7) (s : State) : Result :=
  withWord s none fun x =>
    if 20 ≤ a.toNat then x.trapAll { code := .illegal }
    else if a = 10 ∨ a = 11 then
      x.run [dst2 d] false (fun _ t => .ok ((), t))
        (fun _ _ _ t => .ok ⟨t.put2 d (if a = 10 then BitVec.ofNat 64 x.s.gt else x.w.wct), []⟩) keepWarp
    else
      x.run [dst1 d] false (fun _ t => .ok ((), t))
        (fun _ l _ t => x.put1 t d (specialReg x l (x.w.thread l) a.toNat)) keepWarp

/-- WRS: only sr.fpflags; any other register of R26 traps with PRIV (R111). -/
def execWrs (d : BitVec 7) (a : VReg) (s : State) : Result :=
  withWord s none fun x =>
    if 20 ≤ d.toNat then x.trapAll { code := .illegal }
    else
      x.run [src1 a] (d != 13) (x.rd1 a)
        (fun _ _ u t => .ok ⟨{ t with fpflags := u.setWidth 5 }, []⟩) keepWarp

/-- Puts a thread to sleep on the word: its PC stays on it, and it goes on after it (R112, R170). -/
def Exec.sleep (x : Exec) (t : Thread) (k : SleepKind) : Thread :=
  { t with
    pc := x.i.pc
    exempt := false
    life := .asleep
      { kind := k, next := x.i.pc + BitVec.ofNat 64 x.i.len, word := x.i.word, hint := x.i.hint.getD 0
        order := x.s.nextId, ports := t.ports } }

/-- The next number is used up (model's own). -/
def State.bump (s : State) : State := { s with nextId := s.nextId + 1 }
def Result.bump : Result → Result
  | .next s => .next s.bump
  | r => r

/-- RDGT: each thread sleeps until GT reaches its target; a target already passed returns at once (R112). -/
def execRdgt (d a : VReg) (s : State) : Result :=
  withWord s none fun x =>
    Result.bump <| x.run [src2 a, dst2 d] false (fun _ t => .ok (t.get2 a, t))
      (fun _ _ u t =>
        if u.toNat ≤ x.s.gt then .ok ⟨t.put2 d (BitVec.ofNat 64 x.s.gt), []⟩
        else .ok ⟨x.sleep t (.time u d), []⟩) keepWarp

end Sys2Proof.Machine
end

