-- ==== Sys2Proof/Machine/Control.lean ====
section
/-! DEFINITION. Lane masks, and control transfer (spec/05_isa_integer_control.md, R113 to R126). -/

namespace Sys2Proof.Machine

/-! ### Lane masks and reconvergence (R122 to R126) -/

/-- Mask numbers 12 to 15 name no mask (R18). -/
def maskIdx (m : MReg) : Option (Fin 12) := if h : m.toNat < 12 then some ⟨m.toNat, h⟩ else none

/-- A released thread goes on at the word after its WAITM.  DESIGN CHOICE: a lane that WRWR FILE 4 put into A[k] while it
sleeps in another wait goes on past that word (log 67). -/
def Thread.release (t : Thread) : Thread :=
  match t.life with
  | .asleep z => { t with pc := z.next, life := .run }
  | _ => t

/-- The live-mask index of a thread that stops at the WAITM it has passed: the safe-point table gives it by the word
before its PC. -/
def passedWaitm : Nat := 4096

/-- Where a stop is asked, threads that one Arrival releases stop together at their WAITM, so that they form one group
when they go on (R125, R233, R237). -/
def Warp.stopReleased (a : Mask) (w : Warp) : Warp :=
  if w.stop = .asked then
    { w with
      stopped := w.stopped ||| a
      liveIdx := lanesOf fun l => if inMask a l then passedWaitm else w.liveIdx[l] }
  else w

/-- Arrival(k): releases the arrival set once it covers the mask (R122). -/
def Warp.arrival (k : Fin 12) (w : Warp) : Warp :=
  let a := w.arr k
  if a ≠ 0 ∧ w.mask k &&& ~~~a = 0 then
    ((w.modThreads fun l t => if inMask a l then t.release else t).setArr k 0).stopReleased a
  else w

/-- The arrival check on every mask, ascending. -/
def Warp.arrivals (w : Warp) : Warp := (List.finRange 12).foldl (fun w k => w.arrival k) w

/-- A mask word: MASK_RANGE for m12 to m15, else its effect on the warp and its threads. -/
def maskWord (s : State) (g : PReg) (m : MReg) (k : Exec → Fin 12 → Result) : Result :=
  withWord s (some g) fun x =>
    match maskIdx m with
    | none => x.trapAll { code := .maskRange }
    | some n => k x n

def execJoin (g : PReg) (m : MReg) (s : State) : Result :=
  maskWord s g m fun x k => x.orTrap [] [] (.next (x.commit fun w => w.setMask k (w.mask k ||| x.act)))

def execLeave (g : PReg) (m : MReg) (s : State) : Result :=
  maskWord s g m fun x k =>
    x.orTrap [] [] (.next (x.commit fun w => (w.setMask k (w.mask k &&& ~~~x.act)).arrival k))

/-- WAITM: the active threads arrive and sleep, unless the arrival releases them (R125). -/
def execWaitm (g : PReg) (m : MReg) (s : State) : Result :=
  maskWord s g m fun x k =>
    Result.bump <| x.orTrap [] [] (.next (x.commit fun w =>
      ((w.modThreads fun l t => if inMask x.act l then x.sleep t (.mask k.val) else t).setArr k
        (w.arr k ||| x.act)).arrival k))

/-- A mask word with a register field: MASK_RANGE ranks after the register checks (R34, R126). -/
def maskRegWord (s : State) (g : PReg) (m : MReg) (u : RegUse) (k : Exec → Fin 12 → Result) : Result :=
  withWord s (some g) fun x =>
    match maskIdx m with
    | none =>
      x.orTrap ((lanesIn x.act).map fun l => (l, (x.regCause [u] false l).elim { code := .maskRange }
        fun c => if c.code.rank < TrapCode.maskRange.rank then c else { code := .maskRange })) [] (.next x.s)
    | some n => k x n

def execMskrd (g : PReg) (m : MReg) (v : VReg) (s : State) : Result :=
  maskRegWord s g m (dst1 v) fun x k =>
    x.run [dst1 v] false (fun _ t => .ok ((), t)) (fun _ _ _ t => x.put1 t v (x.w.mask k)) keepWarp

/-- The lanes of a warp that have ended. -/
def Warp.endedMask (w : Warp) : Mask := maskOf fun l => (w.thread l).ended

def execMskwr (g : PReg) (m : MReg) (v : VReg) (s : State) : Result :=
  maskRegWord s g m (src1 v) fun x k =>
    x.run [src1 v] false (x.rd1 v) (fun _ _ _ t => .ok ⟨t, []⟩)
      (fun vals w =>
        match hiVal x vals with
        | some b => (w.setMask k (b &&& ~~~w.endedMask)).arrival k
        | none => w)

def execMskact (g : PReg) (m : MReg) (v : VReg) (s : State) : Result :=
  maskRegWord s g m (dst1 v) fun x k =>
    x.run [dst1 v] false (fun _ t => .ok ((), t)) (fun _ _ _ t => x.put1 t v x.act)
      (fun _ w => w.setMask k x.act)

/-! ### Safe points (R79, R118, R119, R209, R237) -/

/-- A safe point of the issued threads: where a stop is asked they stop here with a live-mask index, and a pending
notification may be delivered (R351). -/
def Warp.safePoint (lanes : Mask) (idx : Nat) (w : Warp) : Warp :=
  let w := if w.note.isSome then { w with atSafe := true } else w
  if w.stop = .asked then
    { w with
      stopped := w.stopped ||| lanes
      liveIdx := lanesOf fun l => if inMask lanes l then idx else w.liveIdx[l] }
  else w

/-- A warp goes on after a halt or a context switch: the arrivals that WRWR has brought about are made now, but those of a
parked warp when it is resumed (R236). -/
def Warp.goOn (w : Warp) : Warp := if w.parked.isSome then w.clearStop else w.clearStop.arrivals

/-- The live-mask index the safe-point table gives an address, 0 where it has none (R79). -/
def State.sptabIndex (s : State) (b : Block) (pc : DWord) : Nat :=
  match s.launch? b.launch with
  | none => 0
  | some l =>
    let off := (pc - l.entry).toNat
    ((List.range l.spcount).findSome? fun k =>
      match s.translate (some b.core) b.pn b.ctx (l.sptab.toNat + 8 * k) .read with
      | .ok t => if s.load t.loc 4 = off then some (s.load (t.loc + 4) 2) else none
      | .error _ => none).getD 0

/-! ### Transfers (R113 to R117) -/

def branchTarget (x : Exec) (off : Int) : DWord := x.i.wordPc + BitVec.ofInt 64 (4 * off)

def execBra (g : PReg) (o : BitVec 23) (s : State) : Result :=
  plainWord s (some g) fun x _ t => { t with pc := branchTarget x (x.i.imm o true) }

/-- CALL and CALLX: an aligned target in the word's 4 GiB region (R114, R115). -/
def callCause (x : Exec) (tgt : DWord) : Option Cause :=
  if tgt.extractLsb' 0 2 ≠ 0 then some { code := .memAlign, addr := tgt }
  else if tgt.extractLsb' 32 32 ≠ x.i.wordPc.extractLsb' 32 32 then some { code := .memPerm, addr := tgt }
  else none

def doCall (x : Exec) (tgt : DWord) (t : Thread) : LaneOut :=
  ⟨{ t.setReg linkReg ((x.i.wordPc + 4).setWidth 32) with pc := tgt }, []⟩

def orCause {α : Type} (c : Option Cause) (r : α) : Except Cause α :=
  match c with
  | some c => .error c
  | none => .ok r

def execCall (g : PReg) (o : BitVec 23) (s : State) : Result :=
  withWord s (some g) fun x =>
    let tgt := branchTarget x (x.i.imm o true)
    x.run [linkUse] false (fun _ t => .ok ((), t))
      (fun _ _ _ t => orCause (callCause x tgt) (doCall x tgt t)) keepWarp

def execBrx (g : PReg) (a : VReg) (i : BitVec 12) (s : State) : Result :=
  withWord s (some g) fun x =>
    x.run [src2 a] false (fun _ t => .ok (t.get2 a + BitVec.ofInt 64 (4 * x.i.imm i false), t))
      (fun _ _ tgt t =>
        if tgt.extractLsb' 0 2 ≠ 0 then .error { code := .memAlign, addr := tgt }
        else .ok ⟨{ t with pc := tgt }, []⟩) keepWarp

def execCallx (g : PReg) (a : VReg) (i : BitVec 12) (s : State) : Result :=
  withWord s (some g) fun x =>
    x.run [src2 a, linkUse] false (fun _ t => .ok (t.get2 a + BitVec.ofInt 64 (4 * x.i.imm i false), t))
      (fun _ _ tgt t => orCause (callCause x tgt) (doCall x tgt t)) keepWarp

/-- HIMM before a word whose immediate must be zero (R119). -/
def Exec.himmMisuse (x : Exec) : Bool := match x.i.himm with | some p => p != 0 | none => false

/-- Words of CTRL that take no immediate: ILLEGAL, sub-code 1, under a nonzero HIMM (R119). -/
def ctrlWord (s : State) (g : PReg) (k : Exec → Result) : Result :=
  withWord s (some g) fun x => if x.himmMisuse then x.trapAll { code := .illegal, sub := 1 } else k x

def execRet (g : PReg) (a : VReg) (s : State) : Result :=
  ctrlWord s g fun x =>
    x.run [third1 a] false (fun _ t => .ok (x.i.wordPc.extractLsb' 32 32 ++ t.reg a, t))
      (fun _ _ (tgt : DWord) t =>
        if tgt.extractLsb' 0 2 ≠ 0 then .error { code := .memAlign, addr := tgt }
        else .ok ⟨{ t with pc := tgt }, []⟩) keepWarp

/-! ### EXIT, SPT, NOP, YIELD, BKPT, TRAP, ERET (R118 to R121) -/

/-- A thread ends: its stream ports are unbound (R118). -/
def Thread.finish (t : Thread) : Thread := { t with life := .ended, ports := Vector.replicate 4 none }

/-- Threads end, if any: their bits leave every mask, and every arrival check is applied (R118). -/
def Warp.endLanes (lanes : Mask) (w : Warp) : Warp :=
  if lanes = 0 then w else
  ({ (w.modThreads fun l t => if inMask lanes l then t.finish else t) with
      m := Vector.ofFn fun k : Fin 12 => w.mask k &&& ~~~lanes }).arrivals

/-- EXIT of the active lanes, a safe point for the other issued threads.  A port is unbound as by STRU, so a load that
still has an element to push is waited for (R72, R118, R151). -/
def doExit (x : Exec) : Result :=
  let idx := x.s.sptabIndex x.b x.i.wordPc
  if x.portPending then x.hold
  else x.orTrap [] [] (.next (x.commit fun w => (w.endLanes x.act).safePoint (x.i.lanes &&& ~~~x.act) idx))

/-- EXIT is a safe point even with an empty active set (R118). -/
def execExit (g : PReg) (s : State) : Result :=
  withIssue s (some g) fun x =>
    if x.act ≠ 0 ∧ x.himmMisuse then x.trapAll { code := .illegal, sub := 1 } else doExit x

/-- SPT: an index of 4,096 or above stops with entry 0; without a stop it has no effect (R119). -/
def execSpt (g : PReg) (i : BitVec 12) (s : State) : Result :=
  withIssue s (some g) fun x =>
    let k := x.i.imm i false
    let idx := if 0 ≤ k ∧ k < 4096 then k.toNat else 0
    x.orTrap [] [] (.next (x.commit fun w => w.safePoint x.i.lanes idx))

def execNop (g : PReg) (s : State) : Result := ctrlWord s g fun x => x.orTrap [] [] (.next (x.commit id))

/-- YIELD marks the issued thread group (R119, R227). -/
def execYield (g : PReg) (s : State) : Result :=
  ctrlWord s g fun x => x.orTrap [] [] (.next (x.commit fun w =>
    w.modThreads fun l t => if inMask x.i.lanes l then { t with yielded := true } else t))

def execBkpt (g : PReg) (i : BitVec 12) (s : State) : Result :=
  withWord s (some g) fun x => x.trapAll { code := .bkpt, detail := imm32 (x.i.imm i false) }
def execTrap (g : PReg) (i : BitVec 12) (s : State) : Result :=
  withWord s (some g) fun x => x.trapAll { code := .swtrap, detail := imm32 (x.i.imm i false) }

/-- ERET: PRIV at task level; ends a handler invocation; otherwise EXIT (R121). -/
def execEret (g : PReg) (s : State) : Result :=
  ctrlWord s g fun x =>
    if x.w.level = 0 then x.trapAll { code := .priv }
    else
      match x.b.kind with
      | .handler _ _ _ => x.orTrap [] [] (.next (x.s.closeIssue.endInvocation x.b.bid))
      | _ => doExit x

end Sys2Proof.Machine
end

