-- ==== Sys2Proof/Machine/Float.lean ====
section
/-! DEFINITION. The floating-point words (spec/06_isa_float_lanes.md, R127 to R137). -/

namespace Sys2Proof.Machine

/-- A pair of FP32 results as a word: FP32 functions on Nat patterns. -/
def onWord (r : Nat × Flags) : Word × Flags := (BitVec.ofNat 32 r.1, r.2)
def onDWord (r : Nat × Flags) : DWord × Flags := (BitVec.ofNat 64 r.1, r.2)

/-! ### FP32 (R129 to R131) -/

def execFadd (g : PReg) (d a b : VReg) (s : State) : Result :=
  binaryWord s g d a b fun i x y => onWord (fpAdd fp32 i.fpMode x.toNat y.toNat)
def execFsub (g : PReg) (d a b : VReg) (s : State) : Result :=
  binaryWord s g d a b fun i x y => onWord (fpSub fp32 i.fpMode x.toNat y.toNat)
def execFmul (g : PReg) (d a b : VReg) (s : State) : Result :=
  binaryWord s g d a b fun i x y => onWord (fpMul fp32 i.fpMode x.toNat y.toNat)
def execFfma (g : PReg) (d a b : VReg) (s : State) : Result :=
  ternaryWord s g d a b fun i x y z => onWord (fpFma fp32 i.fpMode x.toNat y.toNat z.toNat)
def execFmin (g : PReg) (d a b : VReg) (s : State) : Result :=
  binaryWord s g d a b fun i x y => onWord (fpMinMax fp32 i.fpMode false x.toNat y.toNat)
def execFmax (g : PReg) (d a b : VReg) (s : State) : Result :=
  binaryWord s g d a b fun i x y => onWord (fpMinMax fp32 i.fpMode true x.toNat y.toNat)

/-- FCPYS: magnitude of a, sign of b (R131). -/
def fcpys (x y : Word) : Word := (x &&& 0x7FFFFFFF) ||| (y &&& 0x80000000)

def execFcpys (g : PReg) (d a b : VReg) (s : State) : Result :=
  binaryWord s g d a b fun _ x y => noFlags (fcpys x y)

/-! ### FP64 (R132) -/

def execDadd (g : PReg) (d a b : VReg) (s : State) : Result :=
  binaryPair s g d a b fun i x y => onDWord (fpAdd fp64 i.fpMode x.toNat y.toNat)
def execDsub (g : PReg) (d a b : VReg) (s : State) : Result :=
  binaryPair s g d a b fun i x y => onDWord (fpSub fp64 i.fpMode x.toNat y.toNat)
def execDmul (g : PReg) (d a b : VReg) (s : State) : Result :=
  binaryPair s g d a b fun i x y => onDWord (fpMul fp64 i.fpMode x.toNat y.toNat)
def execDfma (g : PReg) (d a b : VReg) (s : State) : Result :=
  ternaryPair s g d a b fun i x y z => onDWord (fpFma fp64 i.fpMode x.toNat y.toNat z.toNat)

/-! ### Packed BF16 and FP16 (R133) -/

def execBadd2 (g : PReg) (d a b : VReg) (s : State) : Result :=
  binaryWord s g d a b fun i x y => packed2 (fpAdd bf16 i.fpMode) x y
def execBmul2 (g : PReg) (d a b : VReg) (s : State) : Result :=
  binaryWord s g d a b fun i x y => packed2 (fpMul bf16 i.fpMode) x y
def execBfma2 (g : PReg) (d a b : VReg) (s : State) : Result :=
  ternaryWord s g d a b fun i x y z => packed3 (fpFma bf16 i.fpMode) x y z
def execBmax2 (g : PReg) (d a b : VReg) (s : State) : Result :=
  binaryWord s g d a b fun i x y => packed2 (fpMinMax bf16 i.fpMode true) x y
def execHadd2 (g : PReg) (d a b : VReg) (s : State) : Result :=
  binaryWord s g d a b fun i x y => packed2 (fpAdd fp16 i.fpMode) x y
def execHmul2 (g : PReg) (d a b : VReg) (s : State) : Result :=
  binaryWord s g d a b fun i x y => packed2 (fpMul fp16 i.fpMode) x y
def execHfma2 (g : PReg) (d a b : VReg) (s : State) : Result :=
  ternaryWord s g d a b fun i x y z => packed3 (fpFma fp16 i.fpMode) x y z
def execHmax2 (g : PReg) (d a b : VReg) (s : State) : Result :=
  binaryWord s g d a b fun i x y => packed2 (fpMinMax fp16 i.fpMode true) x y

/-! ### FSETP (R134) -/

def execFsetp (g p : PReg) (c : FloatCond) (a b : VReg) (acc : Bool) (s : State) : Result :=
  withWord s (some g) fun x =>
    x.run [src1 a, src1 b] false (x.rd11 a b)
      (fun _ _ u t =>
        let (r, fl) := fpSetp x.i.fpMode c u.1 u.2
        .ok ⟨(t.flag fl).setp p acc r, []⟩) keepWarp

/-! ### FUNA (R135, R136) -/

def execFabs (g : PReg) (d a : VReg) (s : State) : Result := unaryWord s g d a fun _ x => noFlags (x &&& 0x7FFFFFFF)
def execFneg (g : PReg) (d a : VReg) (s : State) : Result := unaryWord s g d a fun _ x => noFlags (x ^^^ 0x80000000)
def execFrndRne (g : PReg) (d a : VReg) (s : State) : Result :=
  unaryWord s g d a fun i x => noFlags (fpRound i.fpMode .rne x)
def execFrndRtz (g : PReg) (d a : VReg) (s : State) : Result :=
  unaryWord s g d a fun i x => noFlags (fpRound i.fpMode .rtz x)
def execFrndRdn (g : PReg) (d a : VReg) (s : State) : Result :=
  unaryWord s g d a fun i x => noFlags (fpRound i.fpMode .rdn x)
def execFrndRup (g : PReg) (d a : VReg) (s : State) : Result :=
  unaryWord s g d a fun i x => noFlags (fpRound i.fpMode .rup x)
def execFrcp (g : PReg) (d a : VReg) (s : State) : Result := unaryWord s g d a fun i x => fpRcp i.fpMode x
def execFrsq (g : PReg) (d a : VReg) (s : State) : Result := unaryWord s g d a fun i x => fpRsq i.fpMode x
def execFsqrt (g : PReg) (d a : VReg) (s : State) : Result := unaryWord s g d a fun i x => fpSqrt i.fpMode x
def execFex2 (g : PReg) (d a : VReg) (s : State) : Result := unaryWord s g d a fun i x => fpEx2 i.fpMode x
def execFlg2 (g : PReg) (d a : VReg) (s : State) : Result := unaryWord s g d a fun i x => fpLg2 i.fpMode x
def execFsin (g : PReg) (d a : VReg) (s : State) : Result := unaryWord s g d a fun i x => fpSinCos i.fpMode false x
def execFcos (g : PReg) (d a : VReg) (s : State) : Result := unaryWord s g d a fun i x => fpSinCos i.fpMode true x
def execFtanh (g : PReg) (d a : VReg) (s : State) : Result := unaryWord s g d a fun i x => fpTanh i.fpMode x
def execFsigm (g : PReg) (d a : VReg) (s : State) : Result := unaryWord s g d a fun i x => fpSigm i.fpMode x

/-! ### Conversions (R127, R137) -/

def fmtOf : FType → Fmt
  | .f64 => fp64 | .f32 => fp32 | .f16 => fp16 | .bf16 => bf16
def fShape : FType → Shape
  | .f64 => .pair | _ => .one
def iShape : IType → Shape
  | .i64 => .pair | .b64 => .pair | _ => .one
def iValue (t : IType) (x : DWord) : Int :=
  match t with
  | .i32 => (x.setWidth 32).toInt
  | .b32 => (x.setWidth 32).toNat
  | .i64 => x.toInt
  | .b64 => x.toNat

/-- Rounding of a conversion: the code's mode with X, else HFMD's (R85, R137). -/
def cvtMode (i : Issue) (x : Bool) (r : RMode) : RMode := if x then r else i.fpMode.mode

/-- A conversion's source: a register or a pair. -/
def Exec.getShape (x : Exec) (sh : Shape) (a : VReg) : LaneRead DWord := fun _ t =>
  match sh with
  | .one => (match x.get1 t a with | .error c => .error c | .ok (v, t) => .ok (v.setWidth 64, t))
  | _ => .ok (t.get2 a, t)

def Exec.putShape (x : Exec) (sh : Shape) (t : Thread) (d : VReg) (v : DWord) : Except Cause LaneOut :=
  match sh with
  | .one => x.put1 t d (v.setWidth 32)
  | _ => .ok ⟨t.put2 d v, []⟩

/-- A conversion from one shape to another. -/
def cvtWord (s : State) (g : PReg) (d a : VReg) (sd sa : Shape) (f : Issue → DWord → DWord × Flags) : Result :=
  withWord s (some g) fun x =>
    x.run [⟨sa, a, .src⟩, ⟨sd, d, .dst⟩] false (x.getShape sa a)
      (fun _ _ u t => let (r, fl) := f x.i u; x.putShape sd (t.flag fl) d r) keepWarp

/-- The low bits of an operand that its type reads (R127). -/
def Fmt.width (f : Fmt) : Nat := f.eb + f.fb + 1

def execCvtf (g : PReg) (d a : VReg) (x : Bool) (r : RMode) (t k : FType) (s : State) : Result :=
  cvtWord s g d a (fShape t) (fShape k) fun i u =>
    onDWord (fpCvt (fmtOf k) (fmtOf t) { i.fpMode with mode := cvtMode i x r } (u.toNat % 2 ^ (fmtOf k).width))

def execF2i (g : PReg) (d a : VReg) (x : Bool) (r : RMode) (t : IType) (k : FType) (s : State) : Result :=
  cvtWord s g d a (iShape t) (fShape k) fun i u =>
    let (n, fl) := fpToInt (fmtOf k) (cvtMode i x r) t (u.toNat % 2 ^ (fmtOf k).width)
    (BitVec.ofInt 64 n, fl)

def execI2f (g : PReg) (d a : VReg) (x : Bool) (r : RMode) (t : FType) (k : IType) (s : State) : Result :=
  cvtWord s g d a (fShape t) (iShape k) fun i u =>
    onDWord (intToFp (fmtOf t) (cvtMode i x r) (iValue k u))

end Sys2Proof.Machine
end

