-- ==== Sys2Proof/Machine/LaneOps.lean ====
section
/-! DEFINITION. Cross-lane words and stream ports (spec/06_isa_float_lanes.md, R141 to R151). -/

namespace Sys2Proof.Machine

/-! ### SHFL (R142) -/

/-- The source lane's value, or the lane's own where that lane is not active. -/
def shflWord (s : State) (g : PReg) (d a b : VReg) (tgt : Nat → Nat → Option Nat) : Result :=
  withWord s (some g) fun x =>
    x.run [src1 a, src1 b, dst1 d] false (x.rd11 a b)
      (fun vals l u t =>
        let v := match tgt l.val u.2.toNat with
          | some k => if h : k < 32 then (vals ⟨k, h⟩).elim u.1 (·.1) else u.1
          | none => u.1
        x.put1 t d v) keepWarp

def execShfli (g : PReg) (d a b : VReg) (s : State) : Result := shflWord s g d a b fun _ n => some (n % 32)
def execShflu (g : PReg) (d a b : VReg) (s : State) : Result :=
  shflWord s g d a b fun l n => if n ≤ l then some (l - n) else none
def execShfld (g : PReg) (d a b : VReg) (s : State) : Result := shflWord s g d a b fun l n => some (l + n)
def execShflx (g : PReg) (d a b : VReg) (s : State) : Result := shflWord s g d a b fun l n => some (l ^^^ (n % 32))

/-! ### VOTE and MATCH (R143, R144) -/

/-- B: the active lanes whose predicate, with the negation, is true. -/
def voteMask (x : Exec) (n : Bool) (p : PReg) : Mask :=
  maskOf fun l => inMask x.act l && ((x.w.thread l).pred p != n)

def voteWord (s : State) (g d : PReg) (n : Bool) (p : PReg) (f : Mask → Mask → Bool) : Result :=
  plainWord s (some g) fun x _ t => t.setPred d (f (voteMask x n p) x.act)

def execVoteAll (g d : PReg) (n : Bool) (a : PReg) (s : State) : Result := voteWord s g d n a fun b act => b == act
def execVoteAny (g d : PReg) (n : Bool) (a : PReg) (s : State) : Result := voteWord s g d n a fun b _ => b != 0
def execVoteUni (g d : PReg) (n : Bool) (a : PReg) (s : State) : Result :=
  voteWord s g d n a fun b act => b == 0 || b == act
def execVoteBallot (g : PReg) (d : VReg) (n : Bool) (a : PReg) (s : State) : Result :=
  withWord s (some g) fun x =>
    x.run [dst1 d] false (fun _ t => .ok ((), t)) (fun _ _ _ t => x.put1 t d (voteMask x n a)) keepWarp

/-- MATCH compares bits over the active lanes. -/
def matchWord (s : State) (g : PReg) (d a : VReg) (wide : Bool) (f : (Lane → Option DWord) → Mask → DWord → Word) :
    Result :=
  withWord s (some g) fun x =>
    let sh := if wide then Shape.pair else Shape.one
    x.run [⟨sh, a, .src⟩, dst1 d] false (x.getShape sh a) (fun vals _ u t => x.put1 t d (f vals x.act u)) keepWarp

def execMatchAny (g : PReg) (d a : VReg) (wide : Bool) (s : State) : Result :=
  matchWord s g d a wide fun vals _ u => maskOf fun j => vals j == some u
def execMatchAll (g : PReg) (d a : VReg) (wide : Bool) (s : State) : Result :=
  matchWord s g d a wide fun vals act u =>
    if (lanesIn act).all fun j => vals j == some u then act else 0

/-! ### REDUX and SCAN (R145, R146, R54, R55) -/

/-- The integer operations of R88, on two values. -/
def reduxInt (o : ReduxOp) (x y : Word) : Word :=
  match o with
  | .imin => imin x y
  | .imax => imax x y
  | .iminu => iminu x y
  | .imaxu => imaxu x y
  | .and => x &&& y
  | .or => x ||| y
  | .xor => x ^^^ y
  | _ => x + y

/-- One step of a prefix: the operation on two values, with its flags. -/
def reduxStep (mode : RMode) (o : ReduxOp) (x y : Word) : Word × Flags :=
  match o with
  | .fadd => sumNode mode x y
  | .fmin => onWord (fpMinMax fp32 {} false x.toNat y.toNat)
  | .fmax => onWord (fpMinMax fp32 {} true x.toNat y.toNat)
  | o => (reduxInt o x y, {})

/-- A value alone: a NaN is delivered canonical by the floating-point operations (R54, R55, R130). -/
def reduxOne (o : ReduxOp) (x : Word) : Word × Flags :=
  match o with
  | .fadd | .fmin | .fmax => passNode x
  | _ => (x, {})

/-- The prefix of a list of inputs, in order. -/
def prefixOf (mode : RMode) (o : ReduxOp) : List Word → Option (Word × Flags)
  | [] => none
  | x :: rest => some (rest.foldl (fun (a : Word × Flags) y =>
      let (r, fl) := reduxStep mode o a.1 y
      (r, a.2.or fl)) (reduxOne o x))

/-- REDUX over the active inputs: the tree of R54 for FADD, any order for the exact operations. -/
def reduxValue (mode : RMode) (o : ReduxOp) (xs : List (Option Word)) : Word × Flags :=
  match o with
  | .fadd => treeSum mode xs
  | o => (prefixOf mode o (xs.filterMap id)).getD (0, {})

def execRedux (g : PReg) (d a : VReg) (o : ReduxOp) (s : State) : Result :=
  withWord s (some g) fun x =>
    x.run [src1 a, dst1 d] false (x.rd1 a)
      (fun vals _ _ t =>
        let (r, fl) := reduxValue x.i.fpMode.mode o (allLanes.map vals)
        x.put1 (t.flag fl) d r) keepWarp

/-- SCAN: the inclusive prefix, or the preceding active lane's, with 0 or +0 for the first. -/
def scanValue (mode : RMode) (o : ReduxOp) (excl : Bool) (vals : Lane → Option Word) (l : Lane) : Word × Flags :=
  let upto := (allLanes.filter fun j => if excl then j < l else j ≤ l).filterMap vals
  (prefixOf mode o upto).getD (0, {})

def execScan (g : PReg) (d a : VReg) (e : Bool) (o : ReduxOp) (s : State) : Result :=
  withWord s (some g) fun x =>
    x.run [src1 a, dst1 d] false (x.rd1 a)
      (fun vals l _ t =>
        let (r, fl) := scanValue x.i.fpMode.mode o e vals l
        x.put1 (t.flag fl) d r) keepWarp

/-! ### Stream ports (R147 to R149) -/

/-- A STRM word: its register field may name no bound port (R150). -/
def strmRead (a : VReg) : LaneRead Word := fun _ t =>
  if t.bound a.toNat then .error streamFault else .ok (t.reg a, t)

def portOf (t : Thread) (j : BitVec 2) : Option Stream := (t.ports.toList[j.toNat]?).getD none

/-- The descriptor of R147, or the trap of R148.  An offset with bit 20 set is outside the window, even where it names the
issuer's own slot, which R31 lets reach it: R147 and R148 do not say (DESIGN CHOICE, log 56). -/
def readDescriptor (x : Exec) (t : Thread) (j : BitVec 2) (off : Nat) : Except Cause Stream :=
  if off % 16 ≠ 0 then
    if (portOf t j).isSome then .error streamFault else .error { code := .memAlign, addr := BitVec.ofNat 64 off }
  else if (portOf t j).isSome then .error streamFault
  else if off / 2 ^ 20 % 2 = 1 ∨ off + 16 > x.b.lm then .error { code := .memPerm, addr := BitVec.ofNat 64 off }
  else
    let rd := fun o n => x.s.winRead x.b.bid (off + o) n
    let base := rd 0 4
    let stride := rd 4 4
    let elem := rd 12 1
    let dir := rd 13 1
    let size := if elem = 0 then 4 else if elem = 1 then 2 else 1
    if elem > 2 ∨ dir > 1 ∨ rd 14 2 ≠ 0 ∨ base % size ≠ 0 ∨ stride % size ≠ 0 then .error streamFault
    else if x.s.winBad x.b.bid off 16 then .error { code := .ecc, addr := BitVec.ofNat 64 off }
    else .ok
      { base := BitVec.ofNat 32 base
        stride := BitVec.ofNat 32 stride
        count := BitVec.ofNat 32 (rd 8 4)
        size := size
        out := dir == 1
        pos := 0 }

/-- A STRM word waits for a load still to push to its port (R72). -/
def portWord (s : State) (j : BitVec 2) (k : Exec → Result) : Result :=
  withWord s none fun x => if x.interlocked [dst1 (124 + j.setWidth 7)] then x.holdOn [dst1 (124 + j.setWidth 7)] else k x

def execStrb (j : BitVec 2) (a : VReg) (s : State) : Result :=
  portWord s j fun x =>
    x.run [src1 a] false (strmRead a)
      (fun _ _ u t =>
        match readDescriptor x t j u.toNat with
        | .error c => .error c
        | .ok st => .ok ⟨t.setPort j.toNat (some st), []⟩) keepWarp

def execStru (j : BitVec 2) (s : State) : Result :=
  portWord s j fun x =>
    x.run [] false (fun _ t => .ok ((), t))
      (fun _ _ _ t => if (portOf t j).isSome then .ok ⟨t.setPort j.toNat none, []⟩ else .error streamFault) keepWarp

def execStrp (d : VReg) (j : BitVec 2) (s : State) : Result :=
  portWord s j fun x =>
    x.run [dst1 d] false (fun _ t => .ok ((), t))
      (fun _ _ _ t =>
        match portOf t j with
        | some st => if t.bound d.toNat then .error streamFault else .ok ⟨t.setReg d st.pos, []⟩
        | none => .error streamFault) keepWarp

def execStrs (j : BitVec 2) (a : VReg) (s : State) : Result :=
  portWord s j fun x =>
    x.run [src1 a] false (strmRead a)
      (fun _ _ u t =>
        match portOf t j with
        | some st =>
          if u.toNat ≤ st.count.toNat then .ok ⟨t.setPort j.toNat (some { st with pos := u }), []⟩
          else .error streamFault
        | none => .error streamFault) keepWarp

end Sys2Proof.Machine
end

