-- ==== Sys2Proof/Machine/Mem.lean ====
section
/-! DEFINITION. Global and local memory: accesses in flight, homes, copies and leases, and the words LD, ST, LDA, STRL,
PREF, DISC (spec/07_isa_memory_sync.md, R152 to R159; spec/13_ordering_by_goal.md, R257 to R268;
spec/19_host_coupling.md, R356 to R361; spec/21_partitions.md, R390). -/

namespace Sys2Proof.Machine

/-! ### Homes, leases and copies -/

/-- LEN of a die, clamped (R258). -/
def State.leaseLen (s : State) (die : Nat) : Nat := max 64 (min 8192 ((s.csr (.die die) 0x0210).toNat % 16384))

/-- The latest lease expiry of a line in its home's directory (R259). -/
def State.leaseOf (s : State) (line : Nat) : Nat :=
  s.leases.foldl (fun m e => if e.1 == line then max m e.2 else m) 0

def State.grant (s : State) (line expiry : Nat) : State := { s with leases := (line, expiry) :: s.leases }

/-- A valid copy: its lease has more than 8 ns to run (R259). -/
def State.copy? (s : State) (p : CopyPlace) (line : Nat) : Option CopyLine :=
  s.copies.find? fun c => c.place == p && c.line == line && decide (s.gt + 8 < c.expiry)

def State.dropCopy (s : State) (p : CopyPlace) (line : Nat) : State :=
  { s with copies := s.copies.filter fun c => !(c.place == p && c.line == line) }

/-- A copy, now the most recently used one. -/
def State.putCopy (s : State) (c : CopyLine) : State :=
  { (s.dropCopy c.place c.line) with copies := c :: (s.dropCopy c.place c.line).copies }

def State.lineBytes (s : State) (line : Nat) : List Byte := memBytes s.mem (64 * line) 64

/-- Lines of host memory in an RDC carry no lease (R259). -/
def noExpiry : Nat := 2 ^ 64

/-- The number in bytes [off, off + n) of a line. -/
def sliceNat (bytes : List Byte) (off n : Nat) : Nat := bytesToNat ((bytes.drop off).take n)

def updateBytes (bytes : List Byte) (line : Nat) (cells : List Host.Cell) : List Byte :=
  bytes.mapIdx fun i b => ((cells.find? fun c => c.1 == 64 * line + i).map (·.2)).getD b

def touchBytes (dirty : List Bool) (line : Nat) (cells : List Host.Cell) : List Bool :=
  dirty.mapIdx fun i d => d || cells.any fun c => c.1 == 64 * line + i

/-! ### Room in the L1s and the RDCs (R2, R257, R259, R261, R388) -/

/-- The dirty bytes of a line. -/
def CopyLine.dirtyCells (c : CopyLine) : List Host.Cell :=
  ((c.bytes.zip c.dirty).mapIdx fun i b => (64 * c.line + i, b)).filterMap fun (l, b, d) => if d then some (l, b) else none

/-- Writes back the dirty bytes of a host line; where its port is down they are lost and the error counts (R357, R359). -/
def writeBack (s : State) (c : CopyLine) : State :=
  if c.dirtyCells.isEmpty then s
  else if s.reachable (64 * c.line) then s.storeCells c.dirtyCells else s.failedAt (64 * c.line)

/-- Replacement of a line: dirty bytes go back first (R259). -/
def State.evict (s : State) (c : CopyLine) : State := (writeBack s c).dropCopy c.place c.line

/-- Lines of 64 bytes in an L1 of 128 KiB. -/
def l1Lines : Nat := 2048

/-- The L1 of a core, by its physical place: contents never travel (R268). -/
def State.l1Of (s : State) (core : Nat) : CopyPlace := .l1 (s.physCore core)

/-- Stores of the core that are in its L1 and not yet performed at home, line by line in issue order (R168, R263). -/
def State.ownEarly (s : State) (core line : Nat) : List (List Host.Cell) :=
  s.accs.filterMap fun a =>
    if a.early && a.done.isNone && lineOf a.loc == line && (s.block? a.bid).elim false fun b => b.core == core then some a.cells
    else none

/-- The bytes of a line as the core's own stores leave them. -/
def State.withOwn (s : State) (core line : Nat) (bytes : List Byte) : List Byte :=
  (s.ownEarly core line).foldl (fun bs cs => updateBytes bs line cs) bytes

/-- The L1 copy of a core is updated in the bytes written, if there is one; its own later stores stay on top. -/
def State.updateL1 (s : State) (core line : Nat) (cells : List Host.Cell) : State :=
  { s with copies := s.copies.map fun c =>
      if c.place == s.l1Of core && c.line == line then
        { c with bytes := s.withOwn core line (updateBytes c.bytes line cells) } else c }

/-- Puts a line into an L1; a full one gives up a line, whichever it is. -/
def State.putL1 (s : State) (core : Nat) (c : CopyLine) : State :=
  let place := s.l1Of core
  let mine := s.copies.filter fun e => e.place == place && e.line != c.line
  let (k, s) := if l1Lines ≤ mine.length then s.drawPick mine.length else (0, s)
  let s := if l1Lines ≤ mine.length then mine[k]?.elim s fun e => s.dropCopy place e.line else s
  s.putCopy { c with place := place, bytes := s.withOwn core c.line c.bytes, dirty := [], seen := [] }

/-- The RDC ways of a class (R388). -/
def State.rdcQuota (s : State) (pn cls : Nat) : Nat := min 16 ((s.csr (.part pn) (0x0710 + cls)).toNat / 256 % 32)

/-- The line that a new one replaces in its set of 16 ways: at the quota of its class the least recently used line of
the class and partition, in a full set the least recently used of all (R261, R388). -/
def State.rdcVictim (s : State) (c : CopyLine) : Option CopyLine :=
  let held := s.copies.filter fun e => e.place == c.place && e.line != c.line
  let q := s.rdcQuota c.pn c.cls
  if (s.copies.any fun e => e.place == c.place && e.line == c.line) || (decide (held.length < q) && decide (held.length < 16))
  then none
  else
    let set := held.filter fun e => Config.rdcSet e.line % 16384 == Config.rdcSet c.line % 16384
    let mine := set.filter fun e => e.pn == c.pn && e.cls == c.cls
    if q ≤ mine.length then mine.getLast? else if 16 ≤ set.length then set.getLast? else none

/-- Puts a line into an RDC.  A class of quota 0 allocates none: what the line would hold is written through (R388). -/
def State.putRdc (s : State) (c : CopyLine) : State :=
  if s.rdcQuota c.pn c.cls = 0 && (s.copy? c.place c.line).isNone then s.evict c
  else ((s.rdcVictim c).elim s s.evict).putCopy c

/-- The RDC line that serves a core: one in which no newer value has been seen there (R263). -/
def State.rdcHit (s : State) (core line : Nat) : Option CopyLine :=
  match s.copy? (.rdc (dieOfCore core)) line with
  | some c => if c.seen.contains core then none else some c
  | none => none

/-- Fills the L1 copy of a device line: from the RDC for a line homed on another die, else from the home, which
grants a lease (R152, R259).  The home gives no copy of a line with a soft error (R33; log 26). -/
def State.fillL1 (s : State) (core pn cls line : Nat) : State :=
  let die := dieOfCore core
  let hd := homeDie (64 * line)
  match if hd = die then none else s.rdcHit core line with
  | some c => (s.putCopy c).putL1 core c
  | none =>
    if s.badAt (64 * line) 64 then s
    else
      let fresh : CopyLine :=
        { place := .rdc die, line := line, pn := pn, cls := cls, bytes := s.lineBytes line, expiry := s.gt + s.leaseLen hd
          dirty := [], ctxs := [], seen := [] }
      ((if hd = die then s else s.putRdc fresh).putL1 core fresh).grant line fresh.expiry

/-- A read at the home, or by another way at a value newer than a copy: the reader's older L1 copy goes, and the die's
older RDC copy serves its core no more (R263, R267). -/
def State.readHome (s : State) (core loc size : Nat) : State :=
  let stale (c : CopyLine) : Bool :=
    isDeviceLoc loc && c.line == lineOf loc && sliceNat c.bytes (loc % 64) size != s.load loc size
  { s with copies := (s.copies.filter fun c => !(stale c && c.place == s.l1Of core)).map fun c =>
      if stale c && c.place == .rdc (dieOfCore core) && !c.seen.contains core then { c with seen := core :: c.seen } else c }

/-! ### Host lines (R259, R263, R357) -/

/-- The line of a die's RDC as a context uses it: one that the context has not fetched since it last gave its lines up is
fetched anew around the bytes the device has written. -/
def State.hostLine (s : State) (die pnctx pn cls line : Nat) : CopyLine :=
  match s.copies.find? fun c => c.place == .rdc die && c.line == line with
  | some c =>
    if c.ctxs.contains pnctx then c
    else { c with bytes := updateBytes (s.lineBytes line) line c.dirtyCells, ctxs := insertRising pnctx c.ctxs }
  | none =>
    { place := .rdc die, line := line, pn := pn, cls := cls, bytes := s.lineBytes line, expiry := noExpiry
      dirty := List.replicate 64 false, ctxs := [pnctx], seen := [] }

/-- Host lines that a load or a prefetch brings in: into the RDC, and on into the L1 for .l1 (R152, R259). -/
def State.fillHost (s : State) (core pnctx pn cls : Nat) (l1 : Bool) (line : Nat) : State :=
  let c := s.hostLine (dieOfCore core) pnctx pn cls line
  let s := s.putRdc c
  if l1 then s.putL1 core { c with expiry := s.gt + s.leaseLen (dieOfCore core) } else s

/-- The host lines of a context in a die's RDC. -/
def State.hostCopies (s : State) (die pn ctx : Nat) : List CopyLine :=
  s.copies.filter fun c => c.place == .rdc die && isHostLoc (64 * c.line) && c.ctxs.contains (16 * pn + ctx)

/-- A sys-scope release: the context's dirty host lines of the die's RDC are written back (R168, R259).  DESIGN CHOICE:
they stay in the RDC, clean (log 70). -/
def State.sysRelease (s : State) (die pn ctx : Nat) : State :=
  let s' := (s.hostCopies die pn ctx).foldl writeBack s
  { s' with copies := s'.copies.map fun c =>
      if c.place == .rdc die && isHostLoc (64 * c.line) && c.ctxs.contains (16 * pn + ctx) then
        { c with dirty := c.dirty.map fun _ => false } else c }

/-- A sys-scope acquire: the context's host lines in the die's RDC are written back and dropped, with the core's L1
copies of host lines (R158, R259). -/
def State.sysAcquire (s : State) (core pn ctx : Nat) : State :=
  let die := dieOfCore core
  let s' := (s.hostCopies die pn ctx).foldl writeBack s
  { s' with copies := s'.copies.filter fun c =>
      !(isHostLoc (64 * c.line) &&
        ((c.place == .rdc die && c.ctxs.contains (16 * pn + ctx)) || c.place == s.l1Of core)) }

/-- Writes back and drops a host line of a die's RDC: what the agent of an atomic does first (R357). -/
def State.flushLine (s : State) (die line : Nat) : State :=
  match s.copies.find? fun c => c.place == .rdc die && c.line == line && isHostLoc (64 * line) with
  | some c => s.evict c
  | none => s

/-! ### Issuing accesses -/

/-- One lane's access before it is numbered. -/
structure Draft where
  lane : Lane
  kind : AccKind
  loc : Nat
  mt : Nat
  size : Nat
  cls : Nat := 3
  va : DWord := 0
  cells : List Host.Cell := []
  dst : Option (Nat × Nat) := none

def Draft.access (d : Draft) (id op : Nat) (i : Issue) : Access where
  id := id
  op := op
  bid := i.bid
  w := i.w
  lane := d.lane.val
  kind := d.kind
  loc := d.loc
  mt := d.mt
  cls := d.cls
  size := d.size
  va := d.va
  cells := d.cells
  dst := d.dst
  done := none
  early := false
  readers := []

/-- Of several lanes that store the same byte, the highest-numbered supplies it (R74). -/
def dropOverwritten : List Draft → List Draft
  | [] => []
  | d :: rest =>
    { d with cells := d.cells.filter fun c => !(rest.any fun e => e.kind == d.kind && e.cells.any fun c' => c'.1 == c.1) } ::
      dropOverwritten rest

/-- Same-location order of one thread, and acquires: the first access is performed before the second, which a later word
of the thread has issued (R264).  A .l1 load may take what an earlier store has left in the L1. -/
def Access.before (e a : Access) : Bool :=
  e.bid == a.bid && e.w == a.w && e.lane == a.lane && e.op != a.op && e.done.isNone &&
    (e.isAcquire ||
     (e.win? == a.win? && decide (e.loc < a.loc + a.size ∧ a.loc < e.loc + e.size) &&
       !(e.early && (match a.kind with | .load lvl _ _ => lvl == .l1 | _ => false))))

/-- A .l1 store whose line the issuer's L1 holds is written there at once, unless an earlier access of its thread comes
first (R168, R262). -/
def State.writeEarly (s : State) (core : Nat) (a : Access) : State :=
  match a.kind with
  | .store lvl =>
    if lvl == .l1 && decide (a.mt ≤ 1) && (s.copy? (s.l1Of core) (lineOf a.loc)).isSome && !(s.accs.any fun e => e.before a)
    then State.updateL1 { s with accs := s.accs.map fun e => if e.id = a.id then { e with early := true } else e } core
      (lineOf a.loc) []
    else s
  | _ => s

/-- Numbers the accesses of a word and puts them in flight. -/
def State.launchAccesses (s : State) (i : Issue) (core : Nat) (isLoad counted : Bool) (ds : List Draft) : State :=
  let op := s.nextId
  let new := ds.mapIdx fun k d => d.access (op + 1 + k) op i
  new.foldl (fun s a => s.writeEarly core a) { s with
    nextId := s.nextId + 1 + ds.length
    ops := s.ops ++ [{ id := op, bid := i.bid, w := i.w, isLoad := isLoad, counted := counted, tmax := 0 }]
    accs := s.accs ++ new }

def Warp.countUp (isLoad : Bool) (w : Warp) : Warp :=
  if isLoad then { w with ldc := w.ldc + 1 } else { w with stc := w.stc + 1 }

/-- The counter of R19 is at its limit. -/
def Warp.counterFull (w : Warp) (isLoad : Bool) : Bool := decide ((if isLoad then w.ldc else w.stc) ≥ 15)

/-- What a lane of a memory word produces: its thread, its accesses, and what it touches for the watchpoints. -/
structure MemOut where
  t : Thread
  drafts : List Draft
  touch : List Touch := []
  /-- Bytes stored at once, by window. -/
  pushes : List (Nat × List Host.Cell) := []

/-- The lanes that go on, and those that find a condition, ascending. -/
def okList {α : Type} (v : Vector (Option (Except Cause α)) 32) : List (Lane × α) :=
  allLanes.filterMap fun l => match v[l] with | some (.ok a) => some (l, a) | _ => none

def errList {α : Type} (v : Vector (Option (Except Cause α)) 32) : List (Lane × Cause) :=
  allLanes.filterMap fun l => match v[l] with | some (.error c) => some (l, c) | _ => none

/-- What every active lane of a memory word does, after the register checks. -/
def Exec.memLanes (x : Exec) (uses : List RegUse) (lane : Lane → Thread → Except Cause MemOut) :
    Vector (Option (Except Cause MemOut)) 32 :=
  lanesOf fun l =>
    if inMask x.act l then
      match x.regCause uses false l with
      | some c => some (.error (c.orEarlier (x.ranked uses (x.w.thread l) (lane l ((x.w.thread l).pass x.i.len)))))
      | none => some (x.ranked uses (x.w.thread l) (lane l ((x.w.thread l).pass x.i.len)))
    else none

/-- The thread a memory word leaves in a lane. -/
def memThread (outs : Vector (Option (Except Cause MemOut)) 32) (l : Lane) (t : Thread) : Thread :=
  match outs[l] with
  | some (.ok o) => o.t
  | _ => t

/-- Runs a memory word: interlock and counter limit, every lane's conditions, then its accesses in flight (R34, R153,
R155).  `now` is what the word does to the state at once. -/
def Exec.memRun (x : Exec) (uses : List RegUse) (isLoad counted : Bool) (lane : Lane → Thread → Except Cause MemOut)
    (now : List Draft → State → State) : Result :=
  if x.interlocked uses then x.holdOn uses
  else if counted ∧ x.w.counterFull isLoad then x.hold
  else
    let outs := x.memLanes uses lane
    let oks := okList outs
    let ds := oks.flatMap fun o => o.2.drafts
    let s' := x.commit fun w =>
      let w := w.modThreads (memThread outs)
      (if counted then w.countUp isLoad else w).cleanse x.act uses
    let s' := (oks.flatMap fun o => o.2.pushes).foldl (fun s p => s.winWrite p.1 p.2) s'
    let s' := if ds.isEmpty then s' else s'.launchAccesses x.i x.b.core isLoad counted (dropOverwritten ds)
    let ts := oks.flatMap fun o => o.2.touch
    x.orTrap (errList outs) ts
      (.next (now ds (ts.foldl (fun s t => s.keepLeaf (some x.b.core) x.b.pn x.b.ctx t.va) s')))

def nowNothing : List Draft → State → State := fun _ s => s

/-! ### Addresses and operand shapes (R64, R152) -/

def sizeBytes : Size → Nat
  | .b16 => 2 | .b32 => 4 | .b64 => 8 | .b128 => 16
def sizeShape : Size → Shape
  | .b64 => .pair | .b128 => .quad | _ => .one

/-- GAddr of R152. -/
def gaddr (x : Exec) (t : Thread) (b : VReg) (o : BitVec 5) (scale : Nat) : DWord :=
  t.get2 b + BitVec.ofInt 64 (x.i.imm o false * scale)

/-- The checks of a global access: alignment, translation, permission (R31, R32, R34). -/
def checkGlobal (x : Exec) (va : DWord) (size : Nat) (n : Need) : Except Cause Xlat :=
  let p := x.s.translate (some x.b.core) x.b.pn x.b.ctx va.toNat n
  if va.toNat % size ≠ 0 then .error (Cause.orEarlier { code := .memAlign, addr := va } p) else p

/-- Reads a data operand of a size; a single register may be a port (R150). -/
def readData (x : Exec) (t : Thread) (s : Size) (d : VReg) : Except Cause (Nat × Thread) :=
  match s with
  | .b64 => .ok ((t.get2 d).toNat, t)
  | .b128 => .ok ((t.get4 d).toNat, t)
  | .b32 => (match x.get1 t d with | .error c => .error c | .ok (v, t) => .ok (v.toNat, t))
  | .b16 => (match x.get1 t d with | .error c => .error c | .ok (v, t) => .ok (v.toNat % 65536, t))

/-- A load into a bound port pushes; that it can is checked at issue (R150). -/
def checkDst (x : Exec) (t : Thread) (d : VReg) : Except Cause Unit :=
  match t.boundPort d.toNat with
  | some st => (match x.streamWrite t d.toNat st 0 with | .error c => .error c | .ok _ => .ok ())
  | none => .ok ()

def loadLane (x : Exec) (d b : VReg) (s : Size) (o : BitVec 5) (k : AccKind) (l : Lane) (t : Thread) :
    Except Cause MemOut :=
  let va := gaddr x t b o (sizeBytes s)
  match checkDst x t d with
  | .error c => .error (c.orEarlier (checkGlobal x va (sizeBytes s) .read))
  | .ok _ =>
    match checkGlobal x va (sizeBytes s) .read with
    | .error c => .error c
    | .ok p =>
      .ok { t := t
            drafts := [{ lane := l, kind := k, loc := p.loc, mt := p.mt, size := sizeBytes s, cls := p.cls, va := va,
                         dst := some (d.toNat, (sizeShape s).regs) }]
            touch := [{ lane := l, va := va.toNat, size := sizeBytes s, ld := true, st := false }] }

def storeLane (x : Exec) (d b : VReg) (s : Size) (o : BitVec 5) (k : AccKind) (l : Lane) (t : Thread) :
    Except Cause MemOut :=
  let va := gaddr x t b o (sizeBytes s)
  match readData x t s d with
  | .error c => .error (c.orEarlier (checkGlobal x va (sizeBytes s) .write))
  | .ok (v, t) =>
    match checkGlobal x va (sizeBytes s) .write with
    | .error c => .error c
    | .ok p =>
      .ok { t := t
            drafts := [{ lane := l, kind := k, loc := p.loc, mt := p.mt, size := sizeBytes s, cls := p.cls, va := va,
                         cells := cellsAt p.loc (sizeBytes s) v }]
            touch := [{ lane := l, va := va.toNat, size := sizeBytes s, ld := false, st := true }] }

/-! ### LD, ST, LDA, STRL (R155, R158) -/

def execLd (g : PReg) (d b : VReg) (z : Size) (p : Pol) (o : BitVec 5) (s : State) : Result :=
  withWord s (some g) fun x =>
    x.memRun [src2 b, ⟨sizeShape z, d, .dst⟩] true true (loadLane x d b z o (.load p false false)) nowNothing

def execSt (g : PReg) (d b : VReg) (z : Size) (p : Pol) (o : BitVec 5) (s : State) : Result :=
  withWord s (some g) fun x =>
    x.memRun [src2 b, ⟨sizeShape z, d, .src⟩] false true (storeLane x d b z o (.store p)) nowNothing

/-- The scope of LDA and STRL: pol, or an HPOL override with pol 0; both is ILLEGAL, sub-code 1 (R154, R158). -/
def acqScope (x : Exec) (p : AcqScope) : Option Scope :=
  match x.i.scopeOverride with
  | none => some (match p with | .clu => .clu | .die => .die | .dev => .dev | .sys => .sys)
  | some o => if p = .clu then some o else none

/-- The level a scope performs at (R158). -/
def scopeLevel : Scope → Pol
  | .blk => .l1 | .sys => .sys | _ => .l2

def execLda (g : PReg) (d b : VReg) (z : Size) (p : AcqScope) (o : BitVec 5) (s : State) : Result :=
  withWord s (some g) fun x =>
    match acqScope x p with
    | none => x.trapAll { code := .illegal, sub := 1 }
    | some sc =>
      x.memRun [src2 b, ⟨sizeShape z, d, .dst⟩] true true
        (loadLane x d b z o (.load (scopeLevel sc) true (sc == .sys))) nowNothing

/-- An atomic: it counts as a load and as a store (R264). -/
def Access.isAtomic (a : Access) : Bool :=
  match a.kind with
  | .atomic _ _ _ _ | .cont _ _ _ _ _ _ => true
  | _ => false

/-- Whether a FENCE at a scope may complete for the warp.  At blk a .l1 store that is in the L1 counts as done; every
other store is acknowledged (R168, R262). -/
def fenceDone (x : Exec) (sc : Scope) (k : FenceKind) : Bool :=
  let mine := x.s.accs.filter fun a => a.bid == x.i.bid && a.w == x.i.w
  let stores :=
    if sc = .blk then
      (x.s.ops.filter fun o => o.bid == x.i.bid && o.w == x.i.w && !o.isLoad).all fun o =>
        (mine.filter fun a => a.op == o.id).all Access.early
    else x.w.stc == 0 && decide (x.w.wct.toNat ≤ x.s.gt)
  let loads := x.w.ldc == 0 && mine.all fun a => !a.isAtomic || a.done.isSome
  match k with
  | .all => stores && loads
  | .stores => stores
  | .loads => loads

/-- What a completed FENCE does to the host lines: write-back for stores, self-invalidation for loads (R168). -/
def fenceEffect (x : Exec) (sc : Scope) (k : FenceKind) (s : State) : State :=
  if sc = .sys then
    let s := if k = .loads then s else s.sysRelease (dieOfCore x.b.core) x.b.pn x.b.ctx
    if k = .stores then s else s.sysAcquire x.b.core x.b.pn x.b.ctx
  else s

def execFence (sc : Scope) (k : FenceKind) (s : State) : Result :=
  withWord s none fun x =>
    if fenceDone x sc k then x.orTrap [] [] (.next (fenceEffect x sc k (x.commit id))) else x.hold

/-- WAITC: holds until every counter is at or below its threshold (R169). -/
def execWaitc (l k c m : BitVec 4) (s : State) : Result :=
  withWord s none fun x =>
    if x.w.ldc ≤ l.toNat ∧ x.w.stc ≤ k.toNat ∧ x.w.cpc ≤ c.toNat ∧ x.w.mxc ≤ m.toNat then
      x.orTrap [] [] (.next (x.commit id))
    else x.hold

/-- STRL: FENCE of kind all, then the store, whose conditions are decided once the fence is over (R158). -/
def execStrl (g : PReg) (d b : VReg) (z : Size) (p : AcqScope) (o : BitVec 5) (s : State) : Result :=
  withWord s (some g) fun x =>
    match acqScope x p with
    | none => x.trapAll { code := .illegal, sub := 1 }
    | some sc =>
      if fenceDone x sc .all then
        x.memRun [src2 b, ⟨sizeShape z, d, .src⟩] false true (storeLane x d b z o (.store (scopeLevel sc)))
          fun _ => fenceEffect x sc .all
      else x.hold

/-! ### PREF, DISC (R159) -/

/-- The extent of PREF and DISC. -/
def extentBytes (e : BitVec 2) : Nat :=
  match e.toNat with | 0 => 128 | 1 => 1024 | 2 => 4096 | _ => 65536

/-- What R366 finds on a prefetch of a peer page. -/
def Exec.peerPref (x : Exec) (va : Nat) : Except Cause Unit :=
  match x.s.leafOf (some x.b.core) x.b.pn x.b.ctx va with
  | some (e, size) =>
    if va < 2 ^ 60 ∧ x.b.ctx ≠ stewardCtx ∧ pteMT e = 3 ∧ size = 2 ^ 16 then
      (match x.s.peerCheck x.b.pn x.b.ctx va e .read with | .error c => .error c | .ok _ => .ok ())
    else .ok ()
  | none => .ok ()

/-- A lane of PREF: the range, which is checked for its alignment (R159), and in a peer window by R366. -/
def prefLane (x : Exec) (b : VReg) (e : BitVec 2) (o : BitVec 5) (l : Lane) (t : Thread) : Except Cause MemOut :=
  let n := extentBytes e
  let va := gaddr x t b o n
  let peer := x.peerPref va.toNat
  if va.toNat % n ≠ 0 then .error (Cause.orEarlier { code := .memAlign, addr := va } peer)
  else
    match peer with
    | .error c => .error c
    | .ok _ =>
    .ok { t := t, drafts := [], touch := [{ lane := l, va := va.toNat, size := n, ld := true, st := false }] }

/-- Brings one line of a prefetched page in: a device line into the L1 for PREF.l1, a host line into the RDC, and for
PREF.l1 into the L1.  A line that cannot be read now is passed over. -/
def State.prefetch (s : State) (b : Block) (p : Pol) (q : Xlat) (line : Nat) : State :=
  let loc := 64 * line
  if !s.reachable loc || s.barred b.core loc || s.xleases.any (fun x => x.core != b.core && x.line == line) then s
  else if q.mt = 0 then (if p = .l1 then s.fillL1 b.core b.pn q.cls line else s)
  else if q.mt = 1 then s.fillHost b.core (16 * b.pn + b.ctx) b.pn q.cls (p == .l1) line
  else s

/-- Prefetches the ranges that the active lanes name, where they are readable. -/
def prefFill (x : Exec) (b : VReg) (e : BitVec 2) (p : Pol) (o : BitVec 5) (s : State) : State :=
  (lanesIn x.act).foldl (fun s l =>
    (List.range (extentBytes e / 64)).foldl (fun s k =>
      match x.s.translate (some x.b.core) x.b.pn x.b.ctx
          ((gaddr x (x.w.thread l) b o (extentBytes e)).toNat + 64 * k) .read with
      | .ok q => s.prefetch x.b p q (lineOf q.loc)
      | .error _ => s) s) s

def execPref (g : PReg) (b : VReg) (e : BitVec 2) (p : Pol) (o : BitVec 5) (s : State) : Result :=
  withWord s (some g) fun x =>
    if p = .str then x.trapAll { code := .illegal }
    else
      x.memRun [src2 b] true false (prefLane x b e o)
        fun _ s => prefFill x b e p o s

/-- The range of a discard as pieces that lie together: 4 KiB of the page, the least that R390 keeps together. -/
def discParts (x : Exec) (va n : Nat) (q : Xlat) : List (Nat × Nat) :=
  (q.loc, min n 4096) :: (List.range (n / 4096 - 1)).map fun i =>
    match x.s.translate (some x.b.core) x.b.pn x.b.ctx (va + 4096 * (i + 1)) .none with
    | .ok r => (r.loc, 4096)
    | .error _ => (q.loc + 4096 * (i + 1), 4096)

def discLane (x : Exec) (b : VReg) (e : BitVec 2) (p : Pol) (o : BitVec 5) (l : Lane) (t : Thread) : Except Cause MemOut :=
  let n := extentBytes e
  let va := gaddr x t b o n
  match checkGlobal x va n (if p = .l1 then .drop else .write) with
  | .error c => .error c
  | .ok q =>
    if p ≠ .l1 ∧ q.mt = 2 then .error { code := .memPerm, addr := va }
    else
      .ok { t := t
            drafts := if p = .l1 then [] else
              (discParts x va.toNat n q).map fun (loc, k) =>
                { lane := l, kind := .disc p k, loc := loc, mt := q.mt, size := k, cls := q.cls, va := va }
            touch := [{ lane := l, va := va.toNat, size := n, ld := false, st := true }] }

/-- DISC.l1 drops the issuer's L1 copies of the ranges. -/
def discDrop (x : Exec) (b : VReg) (e : BitVec 2) (o : BitVec 5) (s : State) : State :=
  (lanesIn x.act).foldl (fun s l =>
    let n := extentBytes e
    let va := (gaddr x (x.w.thread l) b o n).toNat
    match x.s.translate (some x.b.core) x.b.pn x.b.ctx va .drop with
    | .ok q => (discParts x va n q).foldl (fun s (loc, k) => { s with copies := s.copies.filter fun c =>
        !(c.place == x.s.l1Of x.b.core && decide (lineOf loc ≤ c.line ∧ c.line < lineOf (loc + k))) }) s
    | .error _ => s) s

def execDisc (g : PReg) (b : VReg) (e : BitVec 2) (p : Pol) (o : BitVec 5) (s : State) : Result :=
  withWord s (some g) fun x =>
    x.memRun [src2 b] false (p != .l1) (discLane x b e p o)
      fun _ s => if p = .l1 then discDrop x b e o s else s

end Sys2Proof.Machine
end

