-- ==== Sys2Proof/Machine/Place.lean ====
section
/-! DEFINITION. Room on a core, eviction marks and reservations: fits, MakeRoom, stopping and withdrawing
(spec/10_scheduling.md, R219 to R222; spec/12_progress_classes.md, R245, R246, R249 to R252; spec/15_async_copies.md, R297). -/

namespace Sys2Proof.Machine

/-! ### Room on a core (R11, R17, R219, R220) -/

/-- What a block takes of a core: warps and registers of a lane on each quad, KiB of window. -/
structure Room where
  warps : List Nat
  regs : List Nat
  kb : Nat
  deriving DecidableEq, Repr

/-- Warps that a block of w warps puts on a quad (R11). -/
def quadShare (w q : Nat) : Nat := (w + 3 - q) / 4

/-- The room of a block of w warps of n registers. -/
def roomFor (w n kb : Nat) : Room :=
  ⟨(List.range 4).map (quadShare w), (List.range 4).map fun q => n * quadShare w q, kb⟩

def Launch.room (l : Launch) : Room := roomFor l.warps (8 * l.regs8) l.localKb

def Launch.lateOf (l : Launch) (k : Nat) : Option Late := l.late.find? fun e => e.blk == k

/-- The reorder bin block k comes from (R241). -/
def Launch.binOf (l : Launch) (k : Nat) : Option BinStart := (l.lateOf k).bind (·.bin)

/-- What block k takes as its launch has it: a block from a reorder bin has one warp (R241). -/
def Launch.roomOf (l : Launch) (k : Nat) : Room :=
  if (l.binOf k).isSome then roomFor 1 (8 * l.regs8) l.localKb else l.room

/-- The warp slots a block holds on a quad, and their registers: a warp that has released its slot holds none. -/
def Block.quadWarps (b : Block) (q : Nat) : List Warp :=
  (b.warps.mapIdx fun i w => (i, w)).filterMap fun (i, w) => if i % 4 = q ∧ !w.released then some w else none

/-- What a block that has been placed takes: warps that have released their slots take none (R118). -/
def Block.room (b : Block) : Room :=
  ⟨(List.range 4).map fun q => (b.quadWarps q).length, (List.range 4).map fun q => ((b.quadWarps q).map (·.alloc)).sum,
   b.lm / 1024⟩

def State.blockOf (s : State) (lid k : Nat) : Option Block :=
  s.blocks.find? fun b => b.launch == lid && b.blk == k && b.kind == .task

/-- What block k of a launch takes of a core. -/
def State.roomOf (s : State) (l : Launch) (k : Nat) : Room := (s.blockOf l.lid k).elim (l.roomOf k) Block.room

def State.residents (s : State) (core : Nat) : List Block :=
  s.blocks.filter fun b => b.kind == .task && b.core == core && b.resident

/-- Resident warps of a block. -/
def Block.warpCount (b : Block) : Nat := (b.warps.filter fun w => !w.released).length

/-- Resident warps of a core. -/
def State.warpCount (s : State) (core : Nat) : Nat := ((s.residents core).map Block.warpCount).sum

/-- Those of a core with its marked blocks counted as gone (R251). -/
def State.warpsLeft (s : State) (core : Nat) : Nat :=
  (((s.residents core).filter fun b => !b.marked).map Block.warpCount).sum

/-- What a partition reserves for RESIDENT blocks on every core: warps and registers per quad, KiB per core (R220). -/
def State.reservation (s : State) (pn : Nat) : Room :=
  let r := (s.csr (.part pn) 0x0100).toNat
  ⟨List.replicate 4 (min 16 (r / 2 ^ 10 % 32)), List.replicate 4 (8 * min 128 (r / 2 ^ 15 % 256)), min 256 (r / 2 ^ 23 % 512)⟩

/-- The rooms promised on a core by reservations that stand (R252). -/
def State.promised (s : State) (core : Nat) (not : Option (Nat × Nat)) : List Room :=
  s.resvs.filterMap fun r =>
    if r.core = core ∧ some (r.launch, r.blk) ≠ not then (s.launch? r.launch).map (s.roomOf · r.blk) else none

/-- The limits of R219 for rooms on one core, with `held` still free. -/
def roomsFit (rs : List Room) (held : Room) : Bool :=
  decide (rs.length ≤ 16) &&
  ((List.range 4).all fun q =>
    decide ((rs.map fun r => r.warps.getD q 0).sum + held.warps.getD q 0 ≤ 16) &&
    decide ((rs.map fun r => r.regs.getD q 0).sum + held.regs.getD q 0 ≤ 1024)) &&
  decide ((rs.map (·.kb)).sum + held.kb ≤ 256)

/-- A room fits a core beside its residents, those gone left out, the promised rooms counted, and with `held` still
free (R219, R251). -/
def State.fits (s : State) (core : Nat) (gone : List Nat) (mine : Option (Nat × Nat)) (held r : Room) : Bool :=
  roomsFit (r :: s.promised core mine ++ ((s.residents core).filter fun b => !gone.contains b.bid).map Block.room) held

def noRoom : Room := ⟨[], [], 0⟩

/-- What a block of a class must leave free: the reservation, unless it is RESIDENT (R219). -/
def State.heldFor (s : State) (pn cls : Nat) : Room := if cls = 3 then noRoom else s.reservation pn

/-- The logical cores of a launch's core set (R334). -/
def State.coreSet (s : State) (l : Launch) : List Nat :=
  let cs := s.coresOf l.pn
  if l.ncore = 0 then cs else (cs.drop l.core0).take l.ncore

/-- The cores block k may take: of a reorder bin, the four of its cluster (R241). -/
def State.coreSetOf (s : State) (l : Launch) (k : Nat) : List Nat :=
  match l.binOf k with
  | some b => (s.coreSet l).filter fun c => clusterOfCore c == b.cluster
  | none => s.coreSet l

/-! ### Members, classes and states of blocks that need not have been placed (R12, R245, R247) -/

/-- Block k of a launch has retired. -/
def State.blkRetired (s : State) (l : Launch) (k : Nat) : Bool :=
  l.retiredBlks.contains k || match s.blockOf l.lid k with
    | some b => b.life == .retired
    | none => false

def State.blkClass (s : State) (l : Launch) (k : Nat) : Nat :=
  match s.blockOf l.lid k with
  | some b => b.cls
  | none => (l.lateOf k).elim l.cls (·.cls)

/-- The class in which a block that waits for a place is placed (R221, R248, R252). -/
def State.placeClass (s : State) (l : Launch) (k : Nat) : Nat :=
  if (l.lateOf k).elim false (·.asRes) then 3 else s.blkClass l k

/-- Block k is pending as RESIDENT from now on. -/
def State.pendRes (s : State) (l : Launch) (k cls : Nat) : State :=
  s.modLaunch l.lid fun l => { l with
    late := { blk := k, cls := cls, order := (l.lateOf k).elim l.order (·.order), bin := l.binOf k, asRes := true } ::
      l.late.filter fun e => e.blk != k }

/-- Its place in launch order. -/
def State.blkOrder (s : State) (l : Launch) (k : Nat) : Nat :=
  match s.blockOf l.lid k with
  | some b => b.order
  | none => (l.lateOf k).elim l.order (·.order)

/-- Block k is a member of the group (R12). -/
def GroupEntry.has (g : GroupEntry) (k : Nat) : Bool :=
  if g.count = 0 then false
  else if g.stride = 0 then k == g.first
  else decide (g.first ≤ k) && (k - g.first) % g.stride == 0 && decide ((k - g.first) / g.stride < g.count)

def Launch.members (l : Launch) (g : Nat) : List Nat :=
  match l.groups[g]? with
  | some e => (List.range l.nblk).filter e.has
  | none => []

/-! ### What the trace counts (R379) -/

def State.modTrace (s : State) (core ctx : Nat) (f : TraceCount → TraceCount) : State :=
  { s with traces := s.traces.map fun t => if t.core == core && t.ctx == ctx then f t else t }

/-- A context comes to run on a core, in a switch or not. -/
def State.startTrace (s : State) (core ctx : Nat) (moved : Bool) : State :=
  if s.traces.any fun t => t.core == core && t.ctx == ctx then s
  else { s with traces := s.traces ++
    [{ core := core, ctx := ctx, since := s.gt, issue := 0, lanes := 0, bins := List.replicate 8 0, moved := moved }] }

/-- A churn move, an eviction or a context switch falls in the period. -/
def State.markTrace (s : State) (core : Nat) : State :=
  { s with traces := s.traces.map fun t => if t.core == core then { t with moved := true } else t }

/-- The running context of a core (R341). -/
def State.running (s : State) (core : Nat) : Option Nat := numLookup s.coreCtx core

/-- Blocks of a context that are switched out over a core. -/
def State.outOver (s : State) (core pn ctx : Nat) : List Block :=
  s.blocks.filter fun b => b.core == core && b.pn == pn && b.ctx == ctx &&
    (match b.life with | .switchedOut _ => true | _ => false)

/-- The context is switched out of all these cores: blocks of it are out over them, and it runs on none (R283, R342). -/
def State.outOf (s : State) (cores : List Nat) (pn ctx : Nat) : Bool :=
  (cores.any fun c => !(s.outOver c pn ctx).isEmpty) && !(cores.any fun c => s.running c == some ctx)

/-- The context may run: it is valid and not suspended (R341). -/
def State.ctxRuns (s : State) (pn ctx : Nat) : Bool := (s.ctx? pn ctx).elim false fun c => c.valid && !c.susp

/-- The context is not resident: it may not run, or is switched out everywhere. -/
def State.ctxOut (s : State) (pn ctx : Nat) : Bool := !s.ctxRuns pn ctx || s.outOf (s.coresOf pn) pn ctx

/-- The context runs on the core from now on (R341). -/
def State.setRunning (s : State) (core ctx : Nat) (switched : Bool) : State :=
  State.startTrace { s with coreCtx := (core, ctx) :: s.coreCtx.filter fun e => e.1 != core } core ctx switched

/-! ### Stopping for eviction, and withdrawing (R246, R251, R252) -/

/-- A stop request for an eviction.  A block already stopped for something else is only marked. -/
def State.markBlock (s : State) (bid : Nat) : State :=
  (s.modBlock bid fun b =>
    if b.life = .running then { b.askStop .eviction s.gt (s.hiRail b.core) with life := .stopped, marked := true }
    else { b with marked := true }).settleLocks

/-- Marked blocks that run, because what had stopped them is over, are asked to stop for their eviction. -/
def State.resumeMarks (s : State) (bs : List Block) : State :=
  bs.foldl (fun s b =>
    match s.block? b.bid with
    | some k => if k.marked && k.life == .running then s.markBlock k.bid else s
    | none => s) s

/-- Takes an eviction back: the block runs on, or stays stopped for a move of its cluster (R246, R322). -/
def Block.withdraw (moving : Bool) (b : Block) : Block :=
  if b.life = .stopped ∧ b.stopFor = some .eviction then
    if moving then { b with marked := false, stopFor := some .churn }
    else { b with life := .running, marked := false, stopFor := none, warps := b.warps.map Warp.clearStop }
  else { b with marked := false }

/-- What the state of a block takes of a save area. -/
def Block.saveSize (b : Block) : Nat := Config.saveBytes b.warps.length ((b.warps.head?).elim 0 (·.alloc)) (b.lm / 1024)

/-- The state of the block is in its context's save area, or on its way there: not that of a standby (R340, R341). -/
def State.inSave (s : State) (b : Block) : Bool :=
  match b.life with
  | .evicted => true
  | .switchedOut _ => !s.cellar.contains (b.core, b.ctx)
  | _ => b.marked

/-- Room in the context's save area for the state of some more of its blocks (R340). -/
def State.saveRoom (s : State) (pn ctx : Nat) (bs : List Block) : Bool :=
  bs.isEmpty || (s.ctx? pn ctx).elim false fun c =>
    let held := s.blocks.filter fun e => e.pn == pn && e.ctx == ctx && s.inSave e && !(bs.any fun b => b.bid == e.bid)
    c.savesz != 0 && decide (((held ++ bs).map Block.saveSize).sum ≤ c.savesz)

/-- The unmarked OPPORTUNE blocks of a core that may be evicted, the latest residency first (R251), as far as the save
areas take them beside `taken`.  DESIGN CHOICE: of one residency start, the block first in the list comes first (log 69). -/
def State.victims (s : State) (core : Nat) (taken : List Block) : List Block :=
  (sortBy (fun a b => decide (b.resid ≤ a.resid)) ((s.residents core).filter fun b =>
    b.cls == 1 && !b.marked && (b.life == .running || b.life == .stopped))).foldl (fun vs b =>
      if s.saveRoom b.pn b.ctx (b :: (taken ++ vs).filter fun e => e.pn == b.pn && e.ctx == b.ctx) then vs ++ [b] else vs) []

def State.markedIds (s : State) : List Nat := (s.blocks.filter (·.marked)).map (·.bid)

/-- The least number of victims that makes a room fit a core, as the victims themselves (R251). -/
def State.needOn (s : State) (core : Nat) (taken : List Block) (r : Room) : Option (List Block) :=
  let vs := s.victims core taken
  (List.range (vs.length + 1)).findSome? fun n =>
    if s.fits core (s.markedIds ++ (vs.take n).map (·.bid)) none noRoom r then some (vs.take n) else none

/-- The cores a unit needs: one core, or the four of a logical cluster; its blocks in the same order. -/
structure Unit' where
  cores : List Nat
  blks : List Nat

/-- Four blocks of a CLUSTERED launch are placed together while none of them has been placed (R297). -/
def Launch.clusteredFour (l : Launch) (s : State) (k : Nat) : Bool :=
  l.flags.getLsbD 0 && (s.blockOf l.lid k).isNone

/-- The units a block may take: any core of the set, the core it left, or the clusters of the set. -/
def State.unitsFor (s : State) (l : Launch) (k : Nat) : List Unit' :=
  let cs := s.coreSetOf l k
  if l.clusteredFour s k then
    (cs.filter fun c => c % 4 == 0 && (List.range 4).all fun j => cs.contains (c + j)).map fun c =>
      ⟨(List.range 4).map (c + ·), (List.range 4).map (4 * (k / 4) + ·)⟩
  else
    match s.blockOf l.lid k with
    | some b => if l.flags.getLsbD 0 then [⟨[b.core], [k]⟩] else cs.map fun c => ⟨[c], [k]⟩
    | none => cs.map fun c => ⟨[c], [k]⟩

/-- What a core costs a block: OPPORTUNE blocks evicted, at once or after its context has come in, in place of another one
or not (R229, R251). -/
inductive CoreCost where
  | evict (victims : List Block)
  | switch (out : Bool) (victims : List Block)

def CoreCost.victims : CoreCost → List Block
  | .evict vs => vs
  | .switch _ vs => vs

/-- R229 does not say how a context switch ranks beside evictions: the model counts it as sixteen, so that a core that
costs evictions alone is preferred (DESIGN CHOICE, log 59). -/
def CoreCost.num : CoreCost → Nat
  | .evict vs => vs.length
  | .switch out vs => (if out then 16 else 0) + vs.length

/-- What a core costs a block of a room, beside the blocks taken elsewhere; none where it cannot take it. -/
abbrev Pricing := Nat → List Block → Room → Option CoreCost

/-- MakeRoom's price: evictions alone. -/
def State.evictions (s : State) : Pricing := fun core taken r => (s.needOn core taken r).map .evict

/-- What the cores of a unit cost its blocks. -/
def unitCost (price : Pricing) : List (Nat × Room) → List Block → Option (List CoreCost)
  | [], _ => some []
  | (c, r) :: rest, taken =>
    match price c taken r with
    | none => none
    | some k => (unitCost price rest (taken ++ k.victims)).map fun ks => k :: ks

/-- The first least element of a list by a key. -/
def leastBy {α : Type} (key : α → Nat × Nat) : List α → Option α
  | [] => none
  | a :: rest =>
    match leastBy key rest with
    | none => some a
    | some b => if (key b).1 < (key a).1 ∨ ((key b).1 = (key a).1 ∧ (key b).2 < (key a).2) then some b else some a

/-- The unit a block takes: where it fits with fewest resident warps, else where it costs least (R251). -/
def State.bestUnit (s : State) (price : Pricing) (l : Launch) (k : Nat) : Option (Unit' × List CoreCost) :=
  let cands := (s.unitsFor l k).filterMap fun u =>
    (unitCost price (u.cores.zip (u.blks.map (s.roomOf l))) []).map fun c => (u, c)
  leastBy (fun e =>
    let n := (e.2.map CoreCost.num).sum
    (n, if n = 0 then (e.1.cores.map s.warpsLeft).sum else 0)) cands

/-- The evictions that a room on a core counts on: none where it fits beside all that is there (R252). -/
def State.reliesOn (s : State) (core : Nat) (mine : Nat × Nat) (r : Room) : CoreCost → List Nat
  | .evict vs =>
    if s.fits core [] (some mine) noRoom r then []
    else ((s.residents core).filter (·.marked)).map (·.bid) ++ vs.map (·.bid)
  | .switch _ vs => vs.map (·.bid)

/-- Marks the victims of a unit and promises the room to its blocks (R251). -/
def State.takeUnit (s : State) (l : Launch) (u : Unit') (cost : List CoreCost) : State :=
  let rs : List Reservation := (u.blks.zip (u.cores.zip cost)).map fun (k, c, g) =>
    { launch := l.lid, blk := k, core := c, cls := 3, relies := s.reliesOn c (l.lid, k) (s.roomOf l k) g }
  let s := ((cost.flatMap CoreCost.victims).map (·.bid)).foldl State.markBlock s
  { s with resvs := s.resvs ++ rs }

/-- The loop body of R251 for one block. -/
def State.makeRoomOne (s : State) (l : Launch) (k : Nat) : Option State :=
  (s.bestUnit s.evictions l k).map fun e => s.takeUnit l e.1 e.2

def State.reserved (s : State) (lid k : Nat) : Bool := s.resvs.any fun r => r.launch == lid && r.blk == k

/-- MakeRoom for the blocks U in order; nothing where one finds no room (R251). -/
def State.makeRoom (s : State) (l : Launch) : List Nat → Option State
  | [] => some s
  | k :: rest =>
    if s.reserved l.lid k then s.makeRoom l rest
    else (match s.makeRoomOne l k with | none => none | some s => s.makeRoom l rest)

/-- A reservation that relied on a mark taken back (R252). -/
def State.broken (s : State) (r : Reservation) : Bool :=
  r.relies.any fun m => match s.block? m with
    | some b => b.resident && !b.marked
    | none => false

/-- Decides such a reservation again by the loop body; where it finds no room the block stays pending as RESIDENT. -/
def State.redecide (s : State) : State :=
  s.resvs.foldl (fun s r =>
    if s.resvs.contains r && s.broken r then
      match s.launch? r.launch with
      | some l =>
        let four := l.clusteredFour s r.blk
        let s := { s with resvs := s.resvs.filter fun e =>
          !(e.launch == r.launch && (e.blk == r.blk || (four && e.blk / 4 == r.blk / 4))) }
        (s.makeRoomOne l r.blk).getD
          ((if four then (List.range 4).map (4 * (r.blk / 4) + ·) else [r.blk]).foldl
            (fun s k => s.pendRes l k (s.blkClass l k)) s)
      | none => { s with resvs := s.resvs.erase r }
    else s) s

/-- An eviction that has been made is one no reservation waits for any more. -/
def State.evictionMade (s : State) (bid : Nat) : State :=
  { s with resvs := s.resvs.map fun r => { r with relies := r.relies.filter (· != bid) } }

end Sys2Proof.Machine
end

