-- ==== Sys2Proof/Machine/Wait.lean ====
section
/-! DEFINITION. Capabilities and the objects they name, targets and their classes, WaitCheck, promotion, and lanes that
sleep in checked words (spec/01_machine_state.md, R23, R24, R416; spec/12_progress_classes.md, R244 to R250;
spec/18_launch_contexts_faults.md, R339). -/

namespace Sys2Proof.Machine

/-! ### Capabilities (R23, R24, R339, R416) -/

/-- Every bit of the mask is set. -/
def permAll (m p : BitVec 5) : Bool := p &&& m == m
/-- Some bit of the mask is set. -/
def permAny (m p : BitVec 5) : Bool := p &&& m != 0

def capBad (code : TrapCode) (c : Cap) : Cause := { code := code, detail := c.setWidth 32 }

/-- The capability of a word, with what its object check finds: type, object, permissions, in this order (R24, R416). -/
def Exec.cap {α : Type} (x : Exec) (c : Cap) (types : List Nat) (obj : CapEntry → Except Cause α)
    (perm : BitVec 5 → Bool) : Except Cause (CapEntry × α) :=
  match x.s.capEntry x.b.pn x.b.ctx c.toNat with
  | none => .error (capBad .capInvalid c)
  | some e =>
    if !types.contains e.type then .error (capBad .capInvalid c)
    else
      match obj e with
      | .error k => .error k
      | .ok a => if perm e.perms then .ok (e, a) else .error (capBad .capPerm c)

def noObject : CapEntry → Except Cause Unit := fun _ => .ok ()

/-- The memory type of the page of an address, where one is mapped. -/
def State.pageMt (s : State) (core : Option Nat) (pn ctx va : Nat) : Option Nat :=
  if va ≥ 2 ^ 60 ∨ ctx = stewardCtx then none else (s.leafOf core pn ctx va).map fun e => pteMT e.1

/-- Where an object lies: alignment, mapping, device memory, permission (R416, steps 1 to 4). -/
def Exec.objLoc (x : Exec) (c : Cap) (va : DWord) (align : Nat) (n : Need) : Except Cause Nat :=
  let named (k : Cause) : Cause := { k with addr := va, detail := c.setWidth 32 }
  if va.toNat % align ≠ 0 then .error (named (capBad .capInvalid c))
  else
    if ((x.s.pageMt (some x.b.core) x.b.pn x.b.ctx va.toNat).getD 0) ≠ 0 then .error (named (capBad .capInvalid c))
    else
      match x.s.translate (some x.b.core) x.b.pn x.b.ctx va.toNat n with
      | .error k => .error (named k)
      | .ok q => .ok q.loc

/-- ECC where the bytes of an object hold an uncorrectable soft error (R33). -/
def Exec.sound {α : Type} (x : Exec) (c : Cap) (va : DWord) (loc size : Nat) (r : Except Cause α) : Except Cause α :=
  if x.s.badAt loc size then .error { capBad .ecc c with addr := va } else r

/-- The register conditions of the active lanes, each with the operands it uses. -/
def Exec.regCauses (x : Exec) (uses : Lane → List RegUse) : List (Lane × Cause) :=
  (lanesIn x.act).filterMap fun l => (x.regCause (uses l) false l).map fun c => (l, c)

/-- A word that names a capability, once nothing holds it: the conditions that rank before the capability's, the
capability, then the rest with what registers still meet (R24, R34). -/
def Exec.capRest {α : Type} (x : Exec) (regs : List (Lane × Cause)) (cap : Except Cause α)
    (k : List (Lane × Cause) → α → Result) : Result :=
  if regs.any fun e => e.2.code.rank < TrapCode.capInvalid.rank then x.orTrap regs [] (.next x.s)
  else
    match cap with
    | .error c => x.orTrap (inLaneOrder (x.everyLane c ++ regs)) [] (.next x.s)
    | .ok a => k regs a

/-- Runs such a word. -/
def Exec.capRanked {α : Type} (x : Exec) (uses : List RegUse) (cap : Except Cause α)
    (k : List (Lane × Cause) → α → Result) : Result :=
  if x.interlocked uses then x.holdOn uses else x.capRest (x.regCauses fun _ => uses) cap k

/-- Runs such a word that acts once for its active set (R176). -/
def Exec.capOnce {α : Type} (x : Exec) (uses : List RegUse) (cap : Except Cause α)
    (k : List (Lane × Cause) → α → Result) : Result :=
  if x.onceLocked uses then x.onceHold uses else x.capRest (x.onceCauses uses false) cap k

/-- Such a word with no further condition of its lanes. -/
def Exec.capRun {α : Type} (x : Exec) (uses : List RegUse) (cap : Except Cause α) (k : α → Result) : Result :=
  x.capRanked uses cap fun regs a => if regs.isEmpty then k a else x.orTrap regs [] (.next x.s)

/-- Such a word that acts once; `more` is what it still meets. -/
def Exec.capOnceRun {α : Type} (x : Exec) (uses : List RegUse) (cap : Except Cause α) (more : α → List (Lane × Cause))
    (k : α → Result) : Result :=
  x.capOnce uses cap fun regs a =>
    let cs := inLaneOrder (regs ++ more a)
    if cs.isEmpty then k a else x.orTrap cs [] (.next x.s)

/-! ### Targets (R247, R339) -/

def Launch.live (l : Launch) : Bool := l.state == .known || l.state == .ready

/-- The launch a number names: the live one, else the one that ended last (R339). -/
def State.namedLaunch (s : State) (pn ctx num : Nat) : Option Launch :=
  let ls := s.launches.filter fun l => l.pn == pn && l.ctx == ctx && l.kern.toNat == num
  match ls.find? Launch.live with
  | some l => some l
  | none => ls.foldl (fun m l => match m with
      | none => some l
      | some k => if k.endGt ≤ l.endGt then some l else some k) none

def State.groupOf (s : State) (pn ctx : Nat) (ep : DWord) : Option (Nat × Nat) :=
  match s.namedLaunch pn ctx (ep.toNat % 2 ^ 32) with
  | none => none
  | some l => if ep.toNat / 2 ^ 32 % 256 < l.groups.length then some (l.lid, ep.toNat / 2 ^ 32 % 256) else none

def State.blockNamed (s : State) (pn ctx : Nat) (ep : DWord) : Option (Nat × Nat) :=
  match s.namedLaunch pn ctx (ep.toNat % 2 ^ 32) with
  | none => none
  | some l => if ep.toNat / 2 ^ 32 % 2 ^ 24 < l.nblk then some (l.lid, ep.toNat / 2 ^ 32 % 2 ^ 24) else none

/-- The target of a capability: none where a GROUP or BLOCK number names no launch. -/
def State.targetOf (s : State) (pn ctx : Nat) (e : CapEntry) : Option Target :=
  match e.type with
  | 1 => (s.groupOf pn ctx e.endpoint).map fun g => .group g.1 g.2
  | 2 => (s.blockNamed pn ctx e.endpoint).map fun g => .block g.1 g.2
  | 3 => some (.card e.card)
  | 4 => some (.queue e.pclass)
  | 6 => (s.groupOf pn ctx e.aux).map fun g => .lock g.1 g.2
  | _ => none

/-- The object check of a word that waits on its capability's target. -/
def Exec.target (x : Exec) (c : Cap) (e : CapEntry) : Except Cause Target :=
  match x.s.targetOf x.b.pn x.b.ctx e with
  | some t => .ok t
  | none => .error (capBad .capInvalid c)

/-- The launch and blocks of a target that names blocks. -/
def State.targetBlocks (s : State) : Target → Option (Launch × List Nat)
  | .group lid g | .lock lid g => (s.launch? lid).map fun l => (l, l.members g)
  | .block lid k => (s.launch? lid).map fun l => (l, [k])
  | _ => none

def State.card? (s : State) (gen : Nat) : Option Card := s.cards.find? fun k => k.gen == gen

def State.modCard (s : State) (gen : Nat) (f : Card → Card) : State :=
  { s with cards := s.cards.map fun k => if k.gen == gen then f k else k }

def State.retiredT (s : State) (t : Target) : Bool :=
  match t with
  | .card gen => (s.card? gen).isNone
  | .queue _ => false
  | .self bid => (s.block? bid).isNone
  | t =>
    match s.targetBlocks t with
    | none => true
    | some (l, ks) => !l.live || ks.all (s.blkRetired l)

/-- The class of a target: the lowest among the members that have not retired. -/
def State.classT (s : State) (t : Target) : Nat :=
  match t with
  | .card gen => (s.card? gen).elim 3 (·.cls)
  | .queue c => c
  | .self bid => (s.block? bid).elim 3 (·.cls)
  | t =>
    match s.targetBlocks t with
    | none => 3
    | some (l, ks) => ((ks.filter fun k => !s.blkRetired l k).map (s.blkClass l)).foldl min 3

/-! ### Promotion (R248 to R250) -/

/-- The blocks for which a check must find room: not resident, below the class, of a ready launch (R248). -/
def State.homeless (s : State) (t : Target) (wc : Nat) : Option (Launch × List Nat) :=
  match s.targetBlocks t with
  | some (l, ks) =>
    if l.state = .ready then
      some (l, ks.filter fun k =>
        !s.blkRetired l k && decide (s.blkClass l k < wc) &&
          (s.blockOf l.lid k).elim true fun b => b.life == .evicted || b.life == .unlaunched)
    else none
  | none => none

/-- Raises one block, which if it has never been placed is pending as RESIDENT from then on; the blocks whose sleepers
must be checked again (R221, R248). -/
def State.raiseBlk (s : State) (l : Launch) (wc k : Nat) : State × List Nat :=
  if s.blkRetired l k ∨ wc ≤ s.blkClass l k then (s, [])
  else
    match s.blockOf l.lid k with
    | some b => (s.modBlock b.bid fun b => { b.withdraw (s.moveOf b.core) with cls := wc }, [b.bid])
    | none =>
      (s.pendRes l k wc, [])

/-- Promote(T, wc): the blocks of the target, or the class of a card, which the device writes to its image (R249). -/
def State.promote (s : State) (t : Target) (wc : Nat) : State × List Nat :=
  match t with
  | .card gen =>
    match s.card? gen with
    | some k =>
      ((s.modCard gen fun e => { e with cls := wc }).writeOwn (k.loc + 9) 1 (cellsAt (k.loc + 9) 1 wc), [])
    | none => (s, [])
  | .queue _ => (s, [])
  | t =>
    match s.targetBlocks t with
    | none => (s, [])
    | some (l, ks) =>
      ks.foldl (fun (s, bs) k => let (s', more) := s.raiseBlk l wc k; (s', bs ++ more)) (s, [])

/-- The body of WaitCheck for a target below the class: its sub-code, or the state with room made and the target
promoted, and the blocks raised. -/
def State.checkClass (s : State) (t : Target) (wc : Nat) (mayPromote : Bool) : Except Byte (State × List Nat) :=
  if wc ≤ s.classT t then .ok (s, [])
  else if !mayPromote || (match t with | .queue _ => true | _ => false) then .error 1
  else
    match s.homeless t wc with
    | none => .ok (s.promote t wc)
    | some (l, ks) =>
      match s.redecide.makeRoom l ks with
      | none => .error 2
      | some s => .ok (s.promote t wc)

/-- Traps a group of sleeping lanes precisely on their word: what the word did before it slept stays, but a counted WQ
increment and an arrival in a mask are withdrawn (R250, R255).  Lanes of a warp already parked run into the trap when
they issue the word again. -/
def State.trapSleepers (s : State) (g : SleepGroup) (code : TrapCode) (sub : Byte) : State :=
  let s := s.withdrawWq g
  let s := s.modWarp g.bid g.w fun w =>
    let w := w.modThreads fun l t => if inMask g.lanes l then { t with life := .run, held := false } else t
    match g.z.kind with
    | .mask k => { w with a := Vector.ofFn fun j : Fin 12 => if j.val = k then w.arr j &&& ~~~g.lanes else w.arr j }
    | _ => w
  match s.block? g.bid with
  | none => s
  | some b =>
    match b.warp? g.w with
    | none => s
    | some w =>
      if w.parked.isSome then s
      else
        let lane := ((lanesIn g.lanes).head?).elim 0 (·.val)
        let pc := if h : lane < 32 then (w.thread ⟨lane, h⟩).pc else 0
        let i : Issue := ⟨g.bid, g.w, g.lanes, pc, g.z.word, if g.z.hint = 0 then none else some g.z.hint⟩
        let c : Cause :=
          { code := code, sub := sub
            detail := if code = .progress then (if g.z.cap = 64 then 0xFFFFFFFF else BitVec.ofNat 32 g.z.cap) else 0 }
        s.parkWarp b g.w w g.lanes i.len (trapRecordOf s i b w c lane g.lanes)

/-- The comparison of WAITF and POLL. -/
def condHolds (k : WaitCond) (x y : Word) : Bool :=
  match k with
  | .eq => x == y
  | .ne => x != y
  | .geu => decide (y.toNat ≤ x.toNat)
  | .ltu => decide (x.toNat < y.toNat)

def State.homeWord (s : State) (loc : Nat) : Word := BitVec.ofNat 32 (s.load loc 4)

/-- The condition some lane of the group waits for has come, and it has yet to wake: only a WAITF wakes later (R248). -/
def State.condMet (s : State) (g : SleepGroup) : Bool :=
  (s.warp? g.bid g.w).elim false fun w => w.sleepers.any fun e =>
    inMask g.lanes e.1 && match e.2.kind with
      | .waitf loc _ k y => s.reachable loc && condHolds k (s.homeWord loc) y
      | _ => false

/-- Checks the sleepers of a promoted block again, and the sleepers of the blocks that raises in turn (R250). -/
def State.recheckGroup (s : State) (wc : Nat) (g : SleepGroup) : State × List Nat :=
  match g.z.target with
  | none => (s, [])
  | some t =>
    if s.retiredT t then (if s.condMet g then (s, []) else (s.trapSleepers g .progress 3, []))
    else
      match s.checkClass t wc g.z.canPromote with
      | .error sub => (s.trapSleepers g .progress sub, [])
      | .ok r => r

/-- The sleepers that are checked again at once: those of a block off its core or in the transfer of a move issue their words
again when they go on, and are checked then (R170, R253). -/
def Block.recheckable (b : Block) : List SleepGroup := if b.resident && b.life != .moving then b.sleepGroups else []

def recheck : Nat → State → List Nat → State
  | 0, s, _ => s
  | _, s, [] => s
  | n + 1, s, bid :: rest =>
    match s.block? bid with
    | none => recheck n s rest
    | some b =>
      let (s, more) := b.recheckable.foldl (fun (s, bs) g =>
        let (s', m) := s.recheckGroup b.cls g; (s', bs ++ m)) (s, [])
      recheck n s (rest ++ more)

/-- WaitCheck (R248): the sub-code of PROGRESS, or the state with what the check did. -/
def State.waitCheck (s : State) (b : Block) (t : Target) (mayPromote met : Bool) : Except Byte State :=
  if s.retiredT t then (if met then .ok s else .error 3)
  else
    match s.checkClass t b.cls mayPromote with
    | .error sub => .error sub
    | .ok (s', raised) => .ok (recheck (4 * s.blocks.length + 1) s' raised).settleLocks

/-- The word in issue over a changed state: its block and warp as they now are. -/
def Exec.inState (x : Exec) (s : State) : Exec :=
  let b := (s.block? x.i.bid).getD x.b
  { x with s := s, b := b, w := (b.warp? x.i.w).getD x.w }

/-- Applies the class check of a word: PROGRESS ranks after the conditions of its lanes, and before a last condition that
the word meets once it has passed (R34, R170). -/
def Exec.checked (x : Exec) (c : Option Cap) (t : Target) (mayPromote met : Bool) (causes : List (Lane × Cause))
    (ts : List Touch) (k : Exec → Result) (last : Exec → Option Result := fun _ => none) : Result :=
  if !(x.allCauses causes).isEmpty then x.orTrap causes ts (.next x.s)
  else
    match x.s.waitCheck x.b t mayPromote met with
    | .error sub =>
      x.orTrap (x.everyLane { code := .progress, sub := sub, detail := c.elim 0xFFFFFFFF (·.setWidth 32) }) ts (.next x.s)
    | .ok s' =>
      match last (x.inState s'), x.debugCauses ts with
      | some r, _ => r
      | none, [] => withEvents x (x.debugEvents ts) (k (x.inState s'))
      | none, _ => x.orTrap [] ts (.next x.s)

/-! ### Sleeping in a word -/

/-- A sleep on the word in issue, from the thread as the word leaves it. -/
def Exec.sleepOn (x : Exec) (t' : Thread) (k : SleepKind) (t : Option Target) (cap : Nat) (mayPromote : Bool) : Sleep where
  kind := k
  next := x.i.pc + BitVec.ofNat 64 x.i.len
  word := x.i.word
  hint := x.i.hint.getD 0
  target := t
  cap := cap
  canPromote := mayPromote
  hang := 0
  order := x.s.nextId
  ports := t'.ports

/-- The thread of a lane that sleeps: as it was before the word, but for a breakpoint exemption, which this issue has used
up (R375). -/
def Exec.putToSleep (x : Exec) (l : Lane) (z : Sleep) : Thread :=
  let t := x.w.thread l
  { t with life := .asleep { z with hang := t.hangKept }, held := false, hangKept := 0, exempt := false }

/-- Writes a register of a lane outside its word: a bound port takes a push (R150, R153). -/
def State.deliverReg (s : State) (bid w : Nat) (l : Lane) (r : VReg) (v : Word) : State :=
  match s.block? bid with
  | none => s
  | some b =>
    match b.warp? w with
    | none => s
    | some wp =>
      match (wp.thread l).boundPort r.toNat with
      | none =>
        s.modWarp bid w fun wp =>
          (wp.modThreads fun k t => if k = l then t.setReg r v else t).cleanReg l.val r.toNat
      | some st =>
        match s.resolveLocal b st.addr st.size with
        | .error _ => s
        | .ok (wb, off) =>
          (s.winWrite wb (cellsAt off st.size v.toNat)).modThread bid w l fun t =>
            t.setPort (r.toNat - 124) (some { st with pos := st.pos + 1 })

/-- Registers r, r + 1, … take the words of a value. -/
def State.deliverRegs (s : State) (bid w : Nat) (l : Lane) (r : VReg) (n v : Nat) : State :=
  (List.range n).foldl (fun s i => s.deliverReg bid w l (r + BitVec.ofNat 7 i) (BitVec.ofNat 32 (v / 2 ^ (32 * i)))) s

/-- Registers r to r + n - 1 of a lane are poisoned from the access to an address (R329, R359). -/
def State.poisonRegs (s : State) (bid w lane : Nat) (dst : Nat × Nat) (addr : DWord) : State :=
  s.modWarp bid w fun w => { w with poison := ((List.range dst.2).map fun i => ⟨lane, dst.1 + i, addr, 0⟩) ++ w.poison }

/-- The thread has read some of these bytes as a .l1 store of its core has left them in the L1, and that store is still to
be performed (R263). -/
def State.readEarly (s : State) (me : Nat × Nat × Nat) (loc size : Nat) : Bool :=
  s.accs.any fun a =>
    a.early && a.done.isNone && a.readers.contains me && decide (a.loc < loc + size ∧ loc < a.loc + a.size)

/-- Whether an access of an active thread to some of these bytes of global memory, or an acquire of one, is still to be
performed (R158, R264).  Other groups of the warp are not ordered with this word (R238). -/
def Exec.overlaps (x : Exec) (loc size : Nat) : Bool :=
  (lanesIn x.act).any fun l => x.acquiring l || x.s.readEarly (x.i.bid, x.i.w, l.val) loc size || (x.accsOf l).any fun a =>
    a.done.isNone && a.win?.isNone && decide (a.loc < loc + size ∧ loc < a.loc + a.size)

end Sys2Proof.Machine
end

