-- ==== Sys2Proof/Machine/Local.lean ====
section
/-! DEFINITION. Local memory: LDL and STL, plain and with full-empty bits (spec/07_isa_memory_sync.md, R156, R157;
spec/13_ordering_by_goal.md, R265). -/

namespace Sys2Proof.Machine

/-! ### Full-empty bits (R156, R157, R298) -/

def granuleFull (s : State) (bid off : Nat) : Bool := (s.block? bid).elim false fun b => b.full.contains (off / 16)

def State.setEmpty (s : State) (bid g : Nat) : State := s.modBlock bid fun b => { b with full := b.full.filter (· != g) }

/-- A lane that waits on a granule: its warp, lane and sleep. -/
structure FullWaiter where
  bid : Nat
  w : Nat
  l : Lane
  z : Sleep

def State.fullWaiters (s : State) (bid g : Nat) : List FullWaiter :=
  s.blocks.flatMap fun b => (b.warps.mapIdx fun i w => (i, w)).flatMap fun (i, w) =>
    if w.stop = .none then
      w.sleepers.filterMap fun (l, z) =>
        match z.kind with
        | .full wb off _ _ _ => if wb = bid ∧ off / 16 = g then some ⟨b.bid, i, l, z⟩ else none
        | _ => none
    else []

/-- A waiting lane loads and goes on; from a poisoned granule its registers are poisoned (R329). -/
def State.wakeFull (s : State) (f : FullWaiter) : State :=
  match f.z.kind with
  | .full wb off size d _ =>
    let n := max 1 (size / 4)
    let s' := (s.modThread f.bid f.w f.l Thread.wake).deliverRegs f.bid f.w f.l d n (s.winRead wb off size)
    if s.winBad wb off size then s'.poisonRegs f.bid f.w f.l.val (d.toNat, n) (BitVec.ofNat 64 off) else s'
  | _ => s

def FullWaiter.clears (f : FullWaiter) : Bool := match f.z.kind with | .full _ _ _ _ c => c | _ => false

/-- A granule becomes full: every lane waiting on it wakes, and of several LDL.fec words the one issued first loads and
empties the bit (R157). -/
def State.setFull (s : State) (bid g : Nat) : State :=
  let s := s.modBlock bid fun b => { b with full := insertRising g b.full }
  let ws := s.fullWaiters bid g
  let s := (ws.filter fun f => !f.clears).foldl State.wakeFull s
  let cs := ws.filter FullWaiter.clears
  match cs.map fun f => f.z.order with
  | [] => s
  | o :: os =>
    let first := os.foldl min o
    ((cs.filter fun f => f.z.order == first).foldl State.wakeFull s).setEmpty bid g

/-! ### Addresses -/

def laddr (x : Exec) (v : Word) (o : BitVec 5) (scale : Nat) : Nat := (v + BitVec.ofInt 32 (x.i.imm o false * scale)).toNat

/-- The window and offset a lane names, with the thread after its base is read. -/
def localAt (x : Exec) (t : Thread) (b : VReg) (o : BitVec 5) (z : Size) : Except Cause (Thread × Nat × Nat) :=
  match x.get1 t b with
  | .error c => .error c
  | .ok (v, t) =>
    match x.s.checkLocal x.b (laddr x v o (sizeBytes z)) (sizeBytes z) with
    | .error c => .error c
    | .ok (wb, off) => .ok (t, wb, off)

/-- An active lane has an earlier access to these bytes still to be performed, or an acquire (R151, R158); `later`: an
access to another slot's window is put in flight behind those in flight before it. -/
def localWaits (x : Exec) (b : VReg) (o : BitVec 5) (z : Size) (later : Bool) (l : Lane) : Bool :=
  match localAt x (x.w.thread l) b o z with
  | .ok (_, wb, off) =>
    if later && wb != x.b.bid then (x.pushesAhead l).any (Span.meets ⟨wb, off, sizeBytes z⟩)
    else x.mustWait l [⟨wb, off, sizeBytes z⟩]
  | .error _ => false

def localHold (x : Exec) (b : VReg) (o : BitVec 5) (z : Size) (later : Bool) : Bool :=
  (lanesIn x.act).any (localWaits x b o z later)

/-- Whether some active lane names another slot's window (R153). -/
def namesOther (x : Exec) (b : VReg) (o : BitVec 5) (z : Size) : Bool :=
  (lanesIn x.act).any fun l =>
    match localAt x (x.w.thread l) b o z with
    | .ok (_, wb, _) => wb != x.b.bid
    | .error _ => false

/-- A loaded value into a register, a pair, a quad, or a bound port. -/
def putData (x : Exec) (t : Thread) (z : Size) (d : VReg) (v : Nat) : Except Cause LaneOut :=
  match z with
  | .b64 => .ok ⟨t.put2 d (BitVec.ofNat 64 v), []⟩
  | .b128 => .ok ⟨t.put4 d (BitVec.ofNat 128 v), []⟩
  | _ => x.put1 t d (BitVec.ofNat 32 v)

/-! ### LDL, STL plain (R156, R265) -/

def ldlLane (x : Exec) (d b : VReg) (z : Size) (o : BitVec 5) (l : Lane) (t : Thread) : Except Cause MemOut :=
  match localAt x t b o z with
  | .error c => .error c
  | .ok (t, wb, off) =>
    if wb = x.b.bid then
      match x.s.readWin wb off (sizeBytes z) off with
      | .error c => .error c
      | .ok v =>
        match putData x t z d v with
        | .error c => .error c
        | .ok out => .ok { t := out.t, drafts := [], pushes := out.pushes }
    else
      match checkDst x t d with
      | .error c => .error c
      | .ok _ =>
        .ok { t := t
              drafts := [{ lane := l, kind := .winLoad wb, loc := off, mt := 4, size := sizeBytes z,
                           dst := some (d.toNat, (sizeShape z).regs) }] }

/-- LDL.fe and LDL.fec: the feeder group the launch declares, or the issuer's own block (R157). -/
def feeder (x : Exec) : Target :=
  match x.s.launch? x.b.launch with
  | some l => if l.flags.getLsbD 2 then .group l.lid l.feedg else .block l.lid x.b.blk
  | none => .self x.b.bid

/-- What a lane of LDL.fe or LDL.fec does: it loads, or it sleeps. -/
def feLane (x : Exec) (d b : VReg) (z : Size) (clear : Bool) (o : BitVec 5) (l : Lane) : Except Cause LaneOut :=
  match localAt x ((x.w.thread l).pass x.i.len) b o z with
  | .error c => .error c
  | .ok (t, wb, off) =>
    if granuleFull x.s wb off then
      (match x.s.readWin wb off (sizeBytes z) off with
       | .error c => .error c
       | .ok v => putData x t z d v)
    else
      match checkDst x t d with
      | .error c => .error c
      | .ok _ => .ok ⟨x.putToSleep l (x.sleepOn t (.full wb off (sizeBytes z) d clear) (some (feeder x)) 64 false), []⟩

/-- The granules the active lanes name, with whether every one is full. -/
def feGranules (x : Exec) (b : VReg) (o : BitVec 5) (z : Size) : List (Nat × Nat) :=
  (lanesIn x.act).filterMap fun l =>
    match localAt x (x.w.thread l) b o z with
    | .ok (_, wb, off) => some (wb, off / 16)
    | .error _ => none

/-- LDL.fe and LDL.fec.  One that names another slot's window is held at the limit of LDC; a lane that loads does so in
the step of the word, and one that sleeps raises no counter, as R153 has it of waits (DESIGN CHOICE, log 54). -/
def feWord (x : Exec) (d b : VReg) (z : Size) (clear : Bool) (o : BitVec 5) : Result :=
  let uses := [src1 b, ⟨sizeShape z, d, .dst⟩]
  let gs := feGranules x b o z
  if x.interlocked uses then x.holdOn uses
  else if localHold x b o z false then x.holdLanes (x.lanesWith (localWaits x b o z false))
  else if namesOther x b o z ∧ x.w.counterFull true then x.hold
  else
    let outs := lanesOf fun l =>
      if inMask x.act l then
        match x.regCause uses false l with
        | some c => some (.error (c.orEarlier (x.ranked uses (x.w.thread l) (feLane x d b z clear o l))))
        | none => some (x.ranked uses (x.w.thread l) (feLane x d b z clear o l))
      else none
    let fulls := gs.filter fun g => granuleFull x.s g.1 (16 * g.2)
    x.checked none (feeder x) false (fulls.length == gs.length) (laneCauses outs) [] fun x =>
      let s := (x.finish uses outs id).bump
      .next (if clear then fulls.foldl (fun s g => s.setEmpty g.1 g.2) s else s)

def execLdl (g : PReg) (d b : VReg) (z : Size) (p : LdlMode) (o : BitVec 5) (s : State) : Result :=
  withWord s (some g) fun x =>
    match p with
    | .plain =>
      if localHold x b o z true then x.holdLanes (x.lanesWith (localWaits x b o z true))
      else x.memRun [src1 b, ⟨sizeShape z, d, .dst⟩] true (namesOther x b o z) (ldlLane x d b z o) nowNothing
    | .fe => feWord x d b z false o
    | .fec => feWord x d b z true o

def stlLane (x : Exec) (d b : VReg) (z : Size) (fs : Bool) (o : BitVec 5) (l : Lane) (t : Thread) : Except Cause MemOut :=
  match localAt x t b o z with
  | .error c => .error c
  | .ok (t, wb, off) =>
    match readData x t z d with
    | .error c => .error c
    | .ok (v, t) =>
      let cells := cellsAt off (sizeBytes z) v
      if wb = x.b.bid then .ok { t := t, drafts := [], pushes := [(wb, cells)] }
      else .ok { t := t, drafts := [{ lane := l, kind := .winStore wb fs, loc := off, mt := 4, size := sizeBytes z, cells := cells }] }

/-- The issuer's own granules become full at issue, with the data of all lanes, each once (R157, R265). -/
def fillOwn (x : Exec) (b : VReg) (o : BitVec 5) (z : Size) (s : State) : State :=
  ((feGranules x b o z).filter fun g => g.1 == x.b.bid).eraseDups.foldl (fun s g => s.setFull g.1 g.2) s

def execStl (g : PReg) (d b : VReg) (z : Size) (p : StlMode) (o : BitVec 5) (s : State) : Result :=
  withWord s (some g) fun x =>
    if localHold x b o z true then x.holdLanes (x.lanesWith (localWaits x b o z true))
    else x.memRun [src1 b, ⟨sizeShape z, d, .src⟩] false (namesOther x b o z) (stlLane x d b z (p == .fs) o)
      fun _ s => if p = .fs then fillOwn x b o z s else s

end Sys2Proof.Machine
end

