-- ==== Sys2Proof/Machine/Sync.lean ====
section
/-! DEFINITION. Waiting on memory, locks and barriers: WAITF, POLL, the lock words, the barrier words
(spec/07_isa_memory_sync.md, R166 to R173; spec/12_progress_classes.md, R256). -/

namespace Sys2Proof.Machine

/-! ### Reading a word at its home (R171) -/

/-- A synchronising word cannot be performed at the home yet: an access of its own threads, an exclusive lease, or the
host's copy comes first, or it cannot reach the home at all (R391). -/
def Exec.mustHold (x : Exec) (loc size : Nat) (writes : Bool) : Bool :=
  x.overlaps loc size || x.s.barred x.b.core loc || x.s.xleased x.b.core loc size || (writes && x.s.snooped loc size)

/-- A lane of WAITF or POLL: its thread with its operands read, its place and its comparison value. -/
structure Watch where
  t : Thread
  p : Xlat
  va : Nat
  y : Word

def watchLane (x : Exec) (a b : VReg) (l : Lane) : Except Cause Watch :=
  let t := (x.w.thread l).pass x.i.len
  match x.get1 t b with
  | .error c => .error c
  | .ok (y, t) =>
    match checkGlobal x ((x.w.thread l).get2 a) 4 .read with
    | .error c => .error c
    | .ok p =>
      if x.s.badAt p.loc 4 then .error { code := .ecc, addr := (x.w.thread l).get2 a }
      else .ok ⟨t, p, ((x.w.thread l).get2 a).toNat, y⟩

/-- The lanes of a WAITF or POLL: what each waits on, or its trap. -/
def watchLanes (x : Exec) (a b : VReg) : Vector (Option (Except Cause Watch)) 32 :=
  lanesOf fun l => if inMask x.act l then some (watchLane x a b l) else none

/-- The capability types that name a target (R170). -/
def targetTypes : List Nat := [capGroup, capBlock, capCard, capQueue, capLock]

/-- The words WAITF and POLL: capability, lanes, class check, then what each does (R171). -/
def flagWord (x : Exec) (uses : List RegUse) (a b : VReg) (c : Cap) (np : Bool) (k : WaitCond)
    (go : Exec → Target → Bool → List (Lane × Watch) → Result) : Result :=
  x.capRanked uses (x.cap c targetTypes (x.target c) (permAll permWait)) fun regs (e, t) =>
    let ws := watchLanes x a b
    let oks := okList ws
    let causes := inLaneOrder (regs ++ errList ws)
    if causes.isEmpty && oks.any (fun w => x.mustHold w.2.p.loc 4 false) then x.hold
    else
      let may := permAll permPromote e.perms && !np
      let met := oks.any fun w => x.s.reachable w.2.p.loc && condHolds k (x.s.homeWord w.2.p.loc) w.2.y
      x.checked (some c) t may met causes
        (oks.map fun w => { lane := w.1, va := w.2.va, size := 4, ld := true, st := false })
        fun x => go (x.inState (oks.foldl (fun s w => (s.readHome x.b.core w.2.p.loc 4).keepLeaf (some x.b.core) x.b.pn x.b.ctx
          w.2.va) x.s)) t may oks

/-- Lanes that return from a wait on host or peer memory acquire at sys scope (R171, R264). -/
def acquireFor (core pn ctx : Nat) (host : Bool) (s : State) : State := if host then s.sysAcquire core pn ctx else s

def outsOf (ws : List (Lane × LaneOut)) : Vector (Option (Except Cause LaneOut)) 32 :=
  lanesOf fun l => (ws.find? fun w => w.1 == l).map fun w => .ok w.2

def execWaitf (g : PReg) (a b : VReg) (c : Cap) (np : Bool) (k : WaitCond) (s : State) : Result :=
  withWord s (some g) fun x =>
    let uses := [src2 a, src1 b]
    flagWord x uses a b c np k fun x t may ws =>
      let met (w : Watch) := x.s.reachable w.p.loc && condHolds k (x.s.homeWord w.p.loc) w.y
      let outs := outsOf (ws.map fun (l, w) =>
        (l, if met w then ⟨w.t, []⟩
            else ⟨x.putToSleep l (x.sleepOn w.t (.waitf w.p.loc w.p.mt k w.y) (some t) c.toNat may), []⟩))
      .next (acquireFor x.b.core x.b.pn x.b.ctx (ws.any fun w => met w.2 && w.2.p.mt != 0) (x.finish uses outs id).bump)

/-- One lane of POLL: the word read and the comparison; a failed request poisons V[b+1] and leaves p0 open (R359). -/
def pollLane (k : WaitCond) (b : VReg) (s : State) (w : Watch) : State × Thread × Bool :=
  if s.reachable w.p.loc then
    let v := s.homeWord w.p.loc
    (s, (w.t.setReg (b + 1) v).setPred 0 (condHolds k v w.y), condHolds k v w.y)
  else
    let (f, s) := s.drawBits
    (s.failedAt w.p.loc, (w.t.setReg (b + 1) (f.setWidth 32)).setPred 0 (f.getLsbD 127), f.getLsbD 127)

def pollLanes (k : WaitCond) (b : VReg) : State → List (Lane × Watch) → State × List (Lane × Thread × Bool)
  | s, [] => (s, [])
  | s, (l, w) :: rest =>
    let (s, t, p) := pollLane k b s w
    let (s, more) := pollLanes k b s rest
    (s, (l, t, p) :: more)

def execPoll (g : PReg) (a b : VReg) (c : Cap) (np : Bool) (k : WaitCond) (s : State) : Result :=
  withWord s (some g) fun x =>
    let uses := [src2 a, ⟨.pair, b, .dst⟩, src1 b]
    flagWord x uses a b c np k fun x _ _ ws =>
      let (s', rs) := pollLanes k b x.s ws
      let bad := (ws.filter fun w => !x.s.reachable w.2.p.loc).map fun w =>
        ({ lane := w.1.val, reg := (b + 1).toNat, addr := BitVec.ofNat 64 w.2.va } : Poison)
      let hit := rs.any fun r => r.2.2
      let x' : Exec := { x with s := s' }
      let st := x'.finish uses (outsOf (rs.map fun (l, t, _) => (l, ⟨t, []⟩)))
        fun w => { w with backoff := if hit then 0 else min (w.backoff + 1) 7 }
      let st := st.modWarp x.i.bid x.i.w fun w => { w with poison := bad ++ w.poison }
      .next (acquireFor x.b.core x.b.pn x.b.ctx
        ((rs.zip ws).any fun (r, w) => r.2.2 && w.2.p.mt != 0) st)

/-! ### Lock words (R166, R167) -/

/-- The lock word of a capability: its location, checked (R166, R416). -/
def Exec.lockObj (x : Exec) (c : Cap) (e : CapEntry) : Except Cause Nat :=
  match x.objLoc c e.endpoint 8 .readWrite with
  | .error k => .error k
  | .ok loc =>
    if lockReserved (x.s.load loc 8) then .error { capBad .capInvalid c with addr := e.endpoint }
    else x.sound c e.endpoint loc 8 (.ok loc)

/-- A lock word, queue header or queue slot that every active lane accesses, for the watchpoints (R374; log 63). -/
def Exec.objTouches (x : Exec) (va : DWord) (size : Nat) (ld st : Bool) : List Touch :=
  (lanesIn x.act).map fun l => { lane := l, va := va.toNat, size := size, ld := ld, st := st }

/-- A lock wait: also the holder group it is checked against. -/
def Exec.lockWait (x : Exec) (c : Cap) (e : CapEntry) : Except Cause (Nat × Target) :=
  match x.lockObj c e with
  | .error k => .error k
  | .ok loc => (match x.target c e with | .error k => .error k | .ok t => .ok (loc, t))

/-- RLOCK and WLOCK: take the lock, or sleep (R167). -/
def lockWord (s : State) (g : PReg) (c : Cap) (write : Bool) : Result :=
  withWord s (some g) fun x =>
    x.capRun [] (x.cap c [capLock] (x.lockWait c) (permAll (permWait ||| permRecv))) fun (e, loc, t) =>
      if x.mustHold loc 8 true then x.hold
      else
        let may := permAll permPromote e.perms && !x.i.noPromote
        x.checked (some c) t may (lockFree write (x.s.load loc 8)) [] (x.objTouches e.endpoint 8 true true) fun x =>
          let v := x.s.load loc 8
          if lockFree write v then
            .next ((x.finish [] (outsOf ((lanesIn x.act).map fun l => (l, ⟨(x.w.thread l).pass x.i.len, []⟩))) id).storeHome
              x.b.core loc 8 (lockTaken write false x.b.blk v))
          else
            let counted := write && decide (lockWq v < 255) && x.w.stop == .none
            let outs := outsOf ((lanesIn x.act).map fun l =>
              (l, ⟨x.putToSleep l (x.sleepOn (x.w.thread l) (.lock loc write counted) (some t) c.toNat may), []⟩))
            let s' := (x.finish [] outs id).bump
            .next (if counted then s'.storeHome x.b.core loc 8 (v + 2 ^ 24) else s')

def execRlock (g : PReg) (c : Cap) (s : State) : Result := lockWord s g c false
def execWlock (g : PReg) (c : Cap) (s : State) : Result := lockWord s g c true

/-- RUNLK and WUNLK: FENCE.dev, then the condition and the update in one step (R167). -/
def unlockWord (s : State) (g : PReg) (c : Cap) (ok : Exec → Nat → Bool) (upd : Nat → Nat) : Result :=
  withWord s (some g) fun x =>
    x.capRun [] (x.cap c [capLock] (x.lockObj c) (permAll permSend)) fun (e, loc) =>
      if x.mustHold loc 8 true ∨ !fenceDone x .dev .all then x.hold
      else if ok x (x.s.load loc 8) then
        x.writeAll [] (fun _ t => .ok ⟨t, []⟩)
          (fun s => (s.storeHome x.b.core loc 8 (upd (x.s.load loc 8))).settleLocks) (x.objTouches e.endpoint 8 true true)
      else x.trapAll (capBad .capPerm c)

def execRunlk (g : PReg) (c : Cap) (s : State) : Result :=
  unlockWord s g c (fun _ v => lockRc v != 0) (· - 1)
def execWunlk (g : PReg) (c : Cap) (s : State) : Result :=
  unlockWord s g c (fun x v => lockWh v && lockOwner v == x.b.blk % 2 ^ 24) (· % 2 ^ 32)

/-- RTRY and WTRY: neither a wait nor a safe point (R167). -/
def tryWord (s : State) (g : PReg) (d : VReg) (c : Cap) (write : Bool) : Result :=
  withWord s (some g) fun x =>
    x.capRun [dst1 d] (x.cap c [capLock] (x.lockObj c) (permAll permRecv)) fun (e, loc) =>
      if x.mustHold loc 8 true then x.hold
      else
        let v := x.s.load loc 8
        let ok := lockFree write v
        x.writeAll [dst1 d] (fun _ t => x.put1 t d (if ok then 1 else 0))
          (fun s => if ok then s.storeHome x.b.core loc 8 (lockTaken write false x.b.blk v) else s.readHome x.b.core loc 8)
          (x.objTouches e.endpoint 8 true true)

def execRtry (g : PReg) (d : VReg) (c : Cap) (s : State) : Result := tryWord s g d c false
def execWtry (g : PReg) (d : VReg) (c : Cap) (s : State) : Result := tryWord s g d c true

/-! ### Barriers (R172, R173, R256) -/

/-- The expected count of a barrier: the group's, or the table's entry for the block, 0 standing for its warps; a block
from a reorder bin has one (R241). -/
def State.barX (s : State) (r : BarRef) : Nat :=
  match r with
  | .block lid k n => (s.launch? lid).elim 1 fun l =>
      match (l.bartab[n]?).getD 0 with
      | 0 => if l.late.any fun e => e.blk == k && e.bin.isSome then 1 else l.warps
      | x => x
  | .group lid g _ => ((s.launch? lid).bind fun l => l.groups[g]?).elim 1 (·.x)

/-- A barrier, with the expected count its table holds (R223). -/
def State.barOf (s : State) (r : BarRef) : Barrier :=
  { ((s.bars.find? fun e => e.1 == r).map (·.2)).getD { x := 0, arrived := 0, phase := 0, ovrc := 0, mxst := 0 } with
    x := s.barX r }

def State.setBar (s : State) (r : BarRef) (b : Barrier) : State :=
  { s with bars := (r, b) :: s.bars.filter fun e => e.1 != r }

/-- The status word. -/
def Barrier.status (b : Barrier) : Word := BitVec.ofNat 32 (2 ^ 24 * b.ovrc + b.mxst)

/-- Wakes the waiters of a barrier whose phase has passed: each reads the status word after the flip (R172). -/
def State.wakeBar (s : State) (r : BarRef) : State :=
  let b := s.barOf r
  let ws := s.blocks.flatMap fun k => (k.warps.mapIdx fun i w => (i, w)).flatMap fun (i, w) =>
    if w.stop = .none then
      w.sleepers.filterMap fun (l, z) =>
        match z.kind with
        | .bar q p d => if q = r ∧ p ≠ b.phase then some (k.bid, i, l, d) else none
        | _ => none
    else []
  ws.foldl (fun s (bid, i, l, d) => (s.modThread bid i l Thread.wake).deliverReg bid i l d b.status) s

/-- Records an arrival that would pass X: OVRC rises, saturating (R173). -/
def State.overrun (s : State) (r : BarRef) : State :=
  let b := s.barOf r
  s.setBar r { b with ovrc := min 255 (b.ovrc + 1) }

/-- n arrivals at once, or none where they would pass X. -/
def State.arrive (s : State) (r : BarRef) (n : Nat) : Option State :=
  let b := s.barOf r
  if b.x < b.arrived + n then none
  else if n = 0 then some s
  else if b.arrived + n = b.x then some ((s.setBar r { b with arrived := 0, phase := b.phase + 1 }).wakeBar r).unhold
  else some (s.setBar r { b with arrived := b.arrived + n })

/-- The barrier a word names: the target of its capability and V[a] bits [3:0]. -/
def barRefOf (t : Target) (n : Nat) : BarRef :=
  match t with
  | .block lid k => .block lid k n
  | .group lid g => .group lid g n
  | _ => .group 0 0 n

/-- The scope of a barrier: blk through a BLOCK capability, dev through a GROUP one (R264). -/
def barScope (t : Target) : Scope := match t with | .block _ _ => .blk | _ => .dev

/-- A word over a barrier: its capability and the operands of the highest active lane (R173). -/
def barWord (s : State) (g : PReg) (a : VReg) (c : Cap) (uses : List RegUse) (perm : BitVec 5 → Bool)
    (go : Exec → CapEntry → Target → BarRef → Nat → Result) : Result :=
  withWord s (some g) fun x =>
    x.capOnceRun (src2 a :: uses) (x.cap c [capGroup, capBlock] (x.target c) perm) (fun _ => []) fun (e, t) =>
      let v := x.hiPair a
      go x e t (barRefOf t (v.toNat % 16)) (v.toNat / 2 ^ 32)

/-- BARRIER_OVERRUN: no arrival, and OVRC rises. -/
def Exec.barOverrun (x : Exec) (r : BarRef) : Result :=
  ({ x with s := x.s.overrun r } : Exec).trapAll { code := .barrierOverrun }

/-- BARA and BARX: the arrivals, after a FENCE at the scope (R173, R264). -/
def arriveWord (s : State) (g : PReg) (d a : VReg) (c : Cap) (count : Nat → Nat) : Result :=
  barWord s g a c [dst1 d] (permAll permSend) fun x _ t r n =>
    if !fenceDone x (barScope t) .all then x.hold
    else
      match x.s.arrive r (count n) with
      | none => x.barOverrun r
      | some _ =>
        x.writeAll [dst1 d] (fun _ t => x.put1 t d (x.s.barOf r).phase) fun s => (s.arrive r (count n)).getD s

def execBara (g : PReg) (d a : VReg) (c : Cap) (s : State) : Result := arriveWord s g d a c fun _ => 1
def execBarx (g : PReg) (d a : VReg) (c : Cap) (s : State) : Result := arriveWord s g d a c id

/-- What the active lanes of a waiting form do once it has arrived: a phase already past returns at once. -/
def barLanes (x : Exec) (d : VReg) (t : Target) (c : Cap) (may : Bool) (r : BarRef) (keep : Bool) (phase : Lane → Word) :
    Vector (Option (Except Cause LaneOut)) 32 :=
  lanesOf fun l =>
    if inMask x.act l then
      if (x.s.barOf r).phase ≠ phase l then some (x.put1 ((x.w.thread l).pass x.i.len) d (x.s.barOf r).status)
      else
        some (.ok ⟨{ x.putToSleep l (x.sleepOn (x.w.thread l) (.bar r (phase l) d) (some t) c.toNat may) with
          kept := if keep then some (r, phase l) else none }, []⟩)
    else none

/-- BARW: waits until the phase named has passed (R173). -/
def execBarw (g : PReg) (d a : VReg) (c : Cap) (s : State) : Result :=
  barWord s g a c [dst1 d] (permAll permWait) fun x e t r n =>
    let may := permAll permPromote e.perms
    let p := BitVec.ofNat 32 n
    let outs := barLanes x d t c may r false fun _ => p
    x.checked (some c) t may ((x.s.barOf r).phase != p) (laneCauses outs) [] fun x =>
      .next (x.finish [dst1 d] (barLanes x d t c may r false fun _ => p) id).bump

/-- The phase a lane has already arrived in at this barrier (R173). -/
def keptPhase (x : Exec) (r : BarRef) (l : Lane) : Option Word :=
  match (x.w.thread l).kept with
  | some (q, p) => if q = r then some p else none
  | none => none

/-- BARAW and BARXW: arrive once for the lanes that have not yet, then wait for that phase (R173). -/
def arriveWaitWord (s : State) (g : PReg) (d a : VReg) (c : Cap) (count : Nat → Nat) : Result :=
  barWord s g a c [dst1 d] (permAll (permSend ||| permWait)) fun x e t r n =>
    let may := permAll permPromote e.perms
    let fresh := (lanesIn x.act).any fun l => (keptPhase x r l).isNone
    let now := (x.s.barOf r).phase
    let phase (l : Lane) : Word := (keptPhase x r l).getD now
    let met := (lanesIn x.act).all fun l => phase l != now
    if fresh && !fenceDone x (barScope t) .all then x.hold
    else
      let overrun (y : Exec) : Option Result :=
        if fresh && (y.s.arrive r (count n)).isNone then some (x.barOverrun r) else none
      x.checked (some c) t may met (laneCauses (barLanes x d t c may r true phase)) []
        (fun y =>
          let y := y.inState (if fresh then (y.s.arrive r (count n)).getD y.s else y.s)
          .next (y.finish [dst1 d] (barLanes y d t c may r true phase) id).bump) overrun

def execBaraw (g : PReg) (d a : VReg) (c : Cap) (s : State) : Result := arriveWaitWord s g d a c fun _ => 1
def execBarxw (g : PReg) (d a : VReg) (c : Cap) (s : State) : Result := arriveWaitWord s g d a c id

/-- BARST: the status word and P; SEND or WAIT suffices (R173). -/
def execBarst (g : PReg) (d a : VReg) (c : Cap) (s : State) : Result :=
  barWord s g a c [dst2 d] (permAny (permSend ||| permWait)) fun x _ _ r _ =>
    x.writeAll [dst2 d] (fun _ t => .ok ⟨t.put2 d ((x.s.barOf r).phase ++ (x.s.barOf r).status), []⟩) id

end Sys2Proof.Machine
end

