-- ==== Sys2Proof/Machine/Atomic.lean ====
section
/-! DEFINITION. The atomics as they issue, and what each computes (spec/07_isa_memory_sync.md, R160 to R165;
spec/02_number_formats.md, R58, R59; spec/19_host_coupling.md, R358). -/

namespace Sys2Proof.Machine

/-! ### What an atomic computes (R161 to R163) -/

/-- One BF16 or FP32 addition, rounded in RNE with subnormals kept; no flag is set (R163). -/
def atomFadd (x y : Word) : Word := (onWord (fpAdd fp32 {} x.toNat y.toNat)).1
def atomBfadd2 (x y : Word) : Word := (packed2 (fpAdd bf16 {}) x y).1

/-- The new memory value, from the old one and the operands: lo is y or the compare value, hi the swap value. -/
def atomNew (op : AtomOp) (old lo hi : BitVec 128) : BitVec 128 :=
  let o := old.setWidth 32
  let y := lo.setWidth 32
  let w (v : Word) : BitVec 128 := v.setWidth 128
  match op with
  | .add => w (o + y)
  | .min => w (if o.toInt ≤ y.toInt then o else y)
  | .max => w (if y.toInt ≤ o.toInt then o else y)
  | .exch => w y
  | .and => w (o &&& y)
  | .or => w (o ||| y)
  | .xor => w (o ^^^ y)
  | .inc => w (if y.toNat ≤ o.toNat then 0 else o + 1)
  | .cas32 | .cas64 | .cas128 => if old = lo then hi else old
  | .fadd => w (atomFadd o y)
  | .fmin => w (onWord (fpMinMax fp32 {} false o.toNat y.toNat)).1
  | .fmax => w (onWord (fpMinMax fp32 {} true o.toNat y.toNat)).1
  | .bfadd2 => w (atomBfadd2 o y)

def AtomOp.bytes : AtomOp → Nat
  | .cas64 => 8
  | .cas128 => 16
  | _ => 4

/-- The bit of ATOMW that a host over PCIe must have for the word; none where no AtomicOp exists (R358). -/
def AtomOp.pcie : AtomOp → Option Nat
  | .add | .exch | .cas32 => some 0
  | .cas64 => some 1
  | .cas128 => some 2
  | _ => none

/-! ### Issuing (R160 to R163) -/

/-- MT 2 pages take only what PCIe has (R358). -/
def pcieCause (x : Exec) (op : AtomOp) (va : DWord) (p : Xlat) : Option Cause :=
  if p.mt ≠ 2 then none
  else
    let bad : Option Cause := some { code := .memPerm, addr := va }
    match op.pcie with
    | none => bad
    | some k =>
      match x.s.hostPort p.loc with
      | some q => if (x.s.csr .module (0x0500 + q)).getLsbD (24 + k) then none else bad
      | none => none

/-- The operands of a lane: lo and hi of `atomNew`, with the thread after its pops. -/
abbrev AtomRead := Exec → Thread → Except Cause (BitVec 128 × BitVec 128 × Thread)

def readOne (b : VReg) : AtomRead := fun x t =>
  match x.get1 t b with
  | .error c => .error c
  | .ok (v, t) => .ok (v.setWidth 128, 0, t)
def readCas32 (b : VReg) : AtomRead := fun _ t => .ok ((t.reg b).setWidth 128, (t.reg (b + 1)).setWidth 128, t)
def readCas64 (b : VReg) : AtomRead := fun _ t => .ok ((t.get2 b).setWidth 128, (t.get2 (b + 2)).setWidth 128, t)
def readCas128 (b : VReg) : AtomRead := fun _ t => .ok (t.get4 b, t.get4 (b + 4), t)

def atomLane (op : AtomOp) (near : Bool) (rd : AtomRead) (x : Exec) (d a : VReg) (n : Nat) (l : Lane) (t : Thread) :
    Except Cause MemOut :=
  let va := t.get2 a
  match rd x t with
  | .error c => .error (c.orEarlier (checkGlobal x va op.bytes .readWrite))
  | .ok (lo, hi, t) =>
    match checkDst x t d with
    | .error c => .error (c.orEarlier (checkGlobal x va op.bytes .readWrite))
    | .ok _ =>
      match checkGlobal x va op.bytes .readWrite with
      | .error c => .error c
      | .ok p =>
        match pcieCause x op va p with
        | some c => .error c
        | none =>
          .ok { t := t
                drafts := [{ lane := l, kind := .atomic op (near && p.mt == 0) lo hi, loc := p.loc, mt := p.mt,
                             size := op.bytes, cls := p.cls, va := va, dst := some (d.toNat, n) }]
                touch := [{ lane := l, va := va.toNat, size := op.bytes, ld := true, st := true }] }

/-- An integer atomic or an FP atomic out of order: one value operand. -/
def atomWord (s : State) (g : PReg) (d a b : VReg) (op : AtomOp) (near : Bool) : Result :=
  withWord s (some g) fun x =>
    x.memRun [src2 a, src1 b, dst1 d] false true (atomLane op near (readOne b) x d a 1) nowNothing

def execAaddNear (g : PReg) (d a b : VReg) (s : State) : Result := atomWord s g d a b .add true
def execAminNear (g : PReg) (d a b : VReg) (s : State) : Result := atomWord s g d a b .min true
def execAmaxNear (g : PReg) (d a b : VReg) (s : State) : Result := atomWord s g d a b .max true
def execAexchNear (g : PReg) (d a b : VReg) (s : State) : Result := atomWord s g d a b .exch true
def execAadd (g : PReg) (d a b : VReg) (s : State) : Result := atomWord s g d a b .add false
def execAmin (g : PReg) (d a b : VReg) (s : State) : Result := atomWord s g d a b .min false
def execAmax (g : PReg) (d a b : VReg) (s : State) : Result := atomWord s g d a b .max false
def execAexch (g : PReg) (d a b : VReg) (s : State) : Result := atomWord s g d a b .exch false
def execAand (g : PReg) (d a b : VReg) (s : State) : Result := atomWord s g d a b .and false
def execAor (g : PReg) (d a b : VReg) (s : State) : Result := atomWord s g d a b .or false
def execAxor (g : PReg) (d a b : VReg) (s : State) : Result := atomWord s g d a b .xor false
def execAinc (g : PReg) (d a b : VReg) (s : State) : Result := atomWord s g d a b .inc false

/-- Compare and swap, by the shapes of its registers (R162). -/
def casWord (s : State) (g : PReg) (d a : VReg) (op : AtomOp) (near : Bool) (rd : AtomRead) (ub ud : RegUse) : Result :=
  withWord s (some g) fun x =>
    x.memRun [src2 a, ub, ud] false true (atomLane op near rd x d a ud.sh.regs) nowNothing

def execCas (g : PReg) (d a b : VReg) (s : State) : Result :=
  casWord s g d a .cas32 true (readCas32 b) (src2 b) (dst1 d)
def execCash (g : PReg) (d a b : VReg) (s : State) : Result :=
  casWord s g d a .cas32 false (readCas32 b) (src2 b) (dst1 d)
def execCash64 (g : PReg) (d a b : VReg) (s : State) : Result :=
  casWord s g d a .cas64 false (readCas64 b) (src4 b) (dst2 d)
def execCas128 (g : PReg) (d a b : VReg) (s : State) : Result :=
  casWord s g d a .cas128 false (readCas128 b) ⟨.oct, b, .src⟩ (dst4 d)

/-! ### FP atomics (R163, R164) -/

/-- The launch that selects ordered FP atomics for the block. -/
def Exec.ordered (x : Exec) : Option Launch :=
  match x.s.launch? x.b.launch with
  | some l => if l.flags.getLsbD 1 then some l else none
  | none => none

/-- A lane of an ordered word: its entry, once its address has been checked. -/
def ordLane (op : AtomOp) (x : Exec) (a b : VReg) (l : Lane) (t : Thread) : Except Cause (Thread × OrdEntry × Touch) :=
  match atomLane op false (readOne b) x 0 a 1 l t with
  | .error c => .error c
  | .ok o =>
    match o.drafts with
    | [dr] =>
      match dr.kind with
      | .atomic _ _ lo _ =>
        .ok (o.t, { blk := x.b.blk, w := x.i.w, op := op, loc := dr.loc, mt := dr.mt, y := lo.setWidth 32, die := dieOfCore x.b.core },
          { lane := l, va := (t.get2 a).toNat, size := 4, ld := true, st := true })
      | _ => .error streamFault
    | _ => .error streamFault

/-- MEM_PERM where the entries would pass the end of the block's area; an entry is reached through the block's translation
(R164, R386; DESIGN CHOICE, log 73). -/
def areaCauses (x : Exec) (ln : Launch) : List (Lane × Cause) :=
  let held := (ln.ords.filter fun e => e.blk == x.b.blk).length
  if held + (lanesIn x.act).length ≤ ln.ordsz / 16 then
    ((lanesIn x.act).mapIdx fun k l => (l, held + k)).filterMap fun (l, n) =>
      match x.s.translate (some x.b.core) x.b.pn x.b.ctx (ln.ordbase.toNat + ln.ordsz * x.b.blk + 16 * n) .write with
      | .error c => some (l, c)
      | .ok _ => none
  else x.everyLane
    { code := .memPerm, addr := ln.ordbase + BitVec.ofNat 64 (ln.ordsz * (x.b.blk + 1)) }

/-- An ordered FP atomic: one entry per lane, memory and d unchanged; acknowledged when they are appended (R164). -/
def ordWord (x : Exec) (a b : VReg) (op : AtomOp) (ln : Launch) (uses : List RegUse) : Result :=
  if x.interlocked uses then x.holdOn uses
  else if x.w.counterFull false then x.hold
  else
    let res := lanesOf fun l =>
      if inMask x.act l then
        match x.regCause uses false l with
        | some c => some (.error (c.orEarlier (x.ranked uses (x.w.thread l) (ordLane op x a b l ((x.w.thread l).pass x.i.len)))))
        | none => some (x.ranked uses (x.w.thread l) (ordLane op x a b l ((x.w.thread l).pass x.i.len)))
      else none
    let oks := okList res
    let outs := outsOf (oks.map fun (l, t, _) => (l, ⟨t, []⟩))
    let s' := (x.finish uses outs fun w =>
      { w with wct := if w.wct.toNat < x.s.gt then BitVec.ofNat 64 x.s.gt else w.wct }).modLaunch ln.lid
        fun k => { k with ords := k.ords ++ oks.map (·.2.2.1) }
    x.orTrap (errList res ++ areaCauses x ln) (oks.map (·.2.2.2)) (.next s')

def fatomWord (s : State) (g : PReg) (d a b : VReg) (op : AtomOp) : Result :=
  withWord s (some g) fun x =>
    match x.ordered with
    | some ln => ordWord x a b op ln [src2 a, src1 b, ⟨.one, d, .named⟩]
    | none => x.memRun [src2 a, src1 b, dst1 d] false true (atomLane op false (readOne b) x d a 1) nowNothing

def execFaadd (g : PReg) (d a b : VReg) (s : State) : Result := fatomWord s g d a b .fadd
def execFamin (g : PReg) (d a b : VReg) (s : State) : Result := fatomWord s g d a b .fmin
def execFamax (g : PReg) (d a b : VReg) (s : State) : Result := fatomWord s g d a b .fmax
def execBfaadd2 (g : PReg) (d a b : VReg) (s : State) : Result := fatomWord s g d a b .bfadd2

/-! ### Continuation atomics (R165) -/

/-- The card of a CARD entry as a word finds it (R25, R275). -/
def State.cardRef (s : State) (e : CapEntry) : CardRef :=
  (s.card? e.card).elim ⟨e.card, e.endpoint, 0, 0⟩ fun k => ⟨k.gen, k.va, k.loc, k.quota⟩

def contLane (op : ContOp) (x : Exec) (a b : VReg) (c : Cap) (k : CardRef) (l : Lane) (t : Thread) : Except Cause MemOut :=
  let va := t.get2 a
  match checkGlobal x va 4 .readWrite with
  | .error k => .error k
  | .ok p =>
    if p.mt ≠ 0 then .error { code := .memPerm, addr := va }
    else
      .ok { t := t
            drafts := [{ lane := l, kind := .cont op (t.reg b) (t.reg (b + 1)) c.toNat k x.w.wct, loc := p.loc
                         mt := p.mt, size := 4, cls := p.cls, va := va, dst := some ((b + 1).toNat, 1) }]
            touch := [{ lane := l, va := va.toNat, size := 4, ld := true, st := true }] }

def contWord (s : State) (g : PReg) (a b : VReg) (c : Cap) (op : ContOp) : Result :=
  withWord s (some g) fun x =>
    let uses := [src2 a, src2 b, dst1 (b + 1)]
    x.capRun uses (x.cap c [capCard] noObject (permAll permLaunch)) fun (e, _) =>
      x.memRun uses false true (contLane op x a b c (x.s.cardRef e)) nowNothing

def execCasc (g : PReg) (a b : VReg) (c : Cap) (s : State) : Result := contWord s g a b c .casc
def execIncc (g : PReg) (a b : VReg) (c : Cap) (s : State) : Result := contWord s g a b c .incc
def execMinc (g : PReg) (a b : VReg) (c : Cap) (s : State) : Result := contWord s g a b c .minc

end Sys2Proof.Machine
end

