-- ==== Sys2Proof/Machine/Energy.lean ====
section
/-! DEFINITION. Token buckets, requests for energy, telemetry, droop and rails (spec/22_power_health_identity.md, R402 to
R411). -/

namespace Sys2Proof.Machine

/-! ### Telemetry (R411) -/

def State.teleOf (s : State) (pclu ctr : Nat) : Word := ((s.tele.find? fun e => e.1 == (pclu, ctr)).map (·.2)).getD 0
def State.setTele (s : State) (pclu ctr : Nat) (v : Word) : State :=
  { s with tele := ((pclu, ctr), v) :: s.tele.filter fun e => e.1 != (pclu, ctr) }
def State.addTele (s : State) (pclu ctr n : Nat) : State :=
  s.setTele pclu ctr (s.teleOf pclu ctr + BitVec.ofNat 32 n)

/-- The physical cluster of a logical one. -/
def State.pcluOf (s : State) (cluster : Nat) : Nat := s.physCluster (4 * cluster)

/-! ### Balances (R404) -/

def State.energyCap (s : State) : Nat := (s.csr .module 0x0820).toNat

/-- A balance; a bucket that is not listed is full. -/
def State.balance (s : State) (cluster : Nat) : Int := (numLookup s.energy cluster).getD s.energyCap

def State.setBalance (s : State) (cluster : Nat) (v : Int) : State :=
  { s with energy := if v = s.energyCap then numErase s.energy cluster else numSet s.energy cluster v }

/-- A cost on the cluster's rail: 11/8, rounded up, on the high rail. -/
def State.railCost (s : State) (cluster n : Nat) : Nat :=
  if s.hiRail (4 * cluster) then (11 * n + 7) / 8 else n

/-- What an island's clusters receive at a refill. -/
def State.refillShare (s : State) (island : Nat) : Nat := (s.csr .module (0x0800 + island)).toNat % 65536 / 4

/-- Refills due: whole tens of ns since the last. -/
def State.refillsDue (s : State) (die : Nat) : Nat := s.gt / 10 - (numLookup s.refills die).getD 0

/-- TOKEN_REFILL: as many refills as GT has passed, each capped (R404). -/
def execTokenRefill (die : Nat) (s : State) : Result :=
  let n := s.refillsDue die
  if n = 0 then .next s
  else
    let mine := s.energy.filter fun e => e.1 / 32 == die
    let s' := mine.foldl (fun s e =>
      s.setBalance e.1 (min s.energyCap (e.2 + (n * s.refillShare (e.1 / 4) : Nat)))) s
    .next { s' with refills := numSet s'.refills die (s.gt / 10) }

/-! ### Requests (R405) -/

/-- Makes a request, unless the same one waits already; the warps that it is held for (R405). -/
def State.askEnergy (s : State) (cluster : Nat) (u : EnergyFor) (cost : Nat) (warps : List (Nat × Nat) := []) : State :=
  if s.ereqs.any fun r => r.use == u then
    { s with ereqs := s.ereqs.map fun r =>
        if r.use == u then { r with warps := r.warps ++ warps.filter fun w => !r.warps.contains w } else r }
  else
    { s with ereqs := s.ereqs ++
        [{ cluster := cluster, use := u, cost := s.railCost cluster cost, gt := s.gt, warps := warps }] }

/-- The oldest request of a cluster. -/
def State.oldestReq (s : State) (cluster : Nat) : Option EnergyReq := s.ereqs.find? fun r => r.cluster == cluster

/-- The oldest request is covered by the balance. -/
def State.reqReady (s : State) (cluster : Nat) : Bool :=
  (s.oldestReq cluster).elim false fun r => decide ((r.cost : Int) ≤ s.balance cluster)

/-- Takes a cost from a balance, and counts it. -/
def State.payEnergy (s : State) (cluster cost wait : Nat) : State :=
  ((s.setBalance cluster (s.balance cluster - cost)).addTele (s.pcluOf cluster) 0 cost).addTele (s.pcluOf cluster) 2 wait

def State.dropReq (s : State) (u : EnergyFor) : State := { s with ereqs := s.ereqs.filter fun r => r.use != u }

/-- Issues left of the quad's burst. -/
def State.burstLeft (s : State) (core quad : Nat) : Nat :=
  ((s.bursts.find? fun e => e.1 == core && e.2.1 == quad).map (·.2.2)).getD 0

def State.setBurst (s : State) (core quad n : Nat) : State :=
  { s with bursts := (core, quad, n) :: s.bursts.filter fun e => !(e.1 == core && e.2.1 == quad) }

/-- Majors whose issues count as vector issues (R404). -/
def vectorMajor (w : Word) : Bool := decide (0x19 ≤ w.toNat / 2 ^ 26 ∧ w.toNat / 2 ^ 26 ≤ 0x22)

/-- One vector issue of a quad: covered by its burst, or by a new one that can be granted at once; nothing where it
must wait (R404, R405). -/
def State.vectorEnergy (s : State) (core quad : Nat) : Option State :=
  let n := s.burstLeft core quad
  let cl := clusterOfCore core
  if n ≠ 0 then some (s.setBurst core quad (n - 1))
  else
    let cost := s.railCost cl 1
    if (s.oldestReq cl).isNone && decide ((cost : Int) ≤ s.balance cl) then
      some ((s.payEnergy cl cost 0).setBurst core quad 63)
    else none

/-! ### Droop (R406) -/

/-- DROOP_DETECT: the cluster clock is stretched; a rail switch in progress is aborted, and made again later. -/
def execDroopDetect (cluster : Nat) (s : State) : Result :=
  let s := if s.droops.contains cluster then s
    else State.addTele { s with droops := cluster :: s.droops } cluster 3 1
  .next (if s.hops.any fun h => s.pcluOf h.1 == cluster then s.addTele cluster 5 1 else s)

/-- DROOP_RECOVER: how many cycles were stretched is a free count (R411). -/
def execDroopRecover (cluster : Nat) (s : State) : Result :=
  if s.droops.contains cluster then
    let (n, s) := s.drawBits
    .next (State.addTele { s with droops := s.droops.filter (· != cluster) } cluster 4 (n.toNat % 2 ^ 32))
  else .next s

/-! ### Rails (R402, R403) -/

/-- The island has a fused-off cluster: DARK 7 (R320). -/
def State.fused (s : State) (island : Nat) : Bool := (s.csr (.die (island / 8)) (0x0228 + island)).getLsbD 31

/-- The rail HIGHREQ asks for the logical position of a cluster. -/
def State.railWanted (s : State) (cluster : Nat) : Bool :=
  !s.fused (cluster / 4) && (s.csr .module (0x0800 + cluster / 4)).getLsbD (28 + cluster % 4)

/-- None of its cores holds a resident block. -/
def State.railPoint (s : State) (cluster : Nat) : Bool :=
  !(s.blocks.any fun b => b.kind == .task && b.resident && clusterOfCore b.core == cluster)

/-- RAIL_SWITCH: the hop is made, unless a droop holds it (R403, R406). -/
def execRailSwitch (cluster : Nat) (s : State) : Result :=
  match numLookup s.hops cluster with
  | some hi =>
    let p := s.pcluOf cluster
    if s.droops.contains p then .next s
    else
      let s : State := { s with
        hops := numErase s.hops cluster
        rails := if hi then p :: s.rails.filter (· != p) else s.rails.filter (· != p) }
      .next (s.addTele p 6 1).unhold
  | none => .next s

/-- The cluster takes a rail before a block is placed: nothing to do, or a hop that the block awaits. -/
def State.selectRail (s : State) (cluster : Nat) (hi : Bool) : State :=
  if s.hiRail (4 * cluster) = hi then { s with hops := numErase s.hops cluster }
  else { s with hops := numSet s.hops cluster hi }

/-- The rail a cluster is on, or is about to take. -/
def State.railNext (s : State) (cluster : Nat) : Bool := (numLookup s.hops cluster).getD (s.hiRail (4 * cluster))

/-- A block that has run on a rail may come to the cluster (R403); a fused island stays on the low rail (R320, R407). -/
def State.railTakes (s : State) (cluster : Nat) (hi : Bool) : Bool :=
  (s.railPoint cluster && !(hi && s.fused (cluster / 4))) || s.railNext cluster == hi

/-- TEMP_SAMPLE: the last sample of a physical cluster, in steps of 0.25 °C (R411). -/
def execTempSample (cluster : Nat) (temp : Int) (s : State) : Result :=
  .next (s.setTele cluster 7 (BitVec.ofInt 32 temp))

/-- The counter TEL_SEL names, for a reader of a partition (R410, R411). -/
def State.telemetry (s : State) (pclu ctr : Nat) (mine : Bool) : Word :=
  if pclu ≥ 160 ∨ ctr > 8 ∨ !mine then 0
  else if ctr = 8 then
    let dark := (s.csr (.die (pclu / 40)) (0x0228 + 8 * (pclu / 40) + pclu % 40 / 5)).toNat / 2 ^ 27 % 8 == pclu % 5
    if dark then 2 else if s.rails.contains pclu then 1 else 0
  else s.teleOf pclu ctr

end Sys2Proof.Machine
end

