-- ==== Sys2Proof/Machine/Queue.lean ====
section
/-! DEFINITION. The queue words (spec/07_isa_memory_sync.md, R174, R175). -/

namespace Sys2Proof.Machine

/-- A queue as its header gives it (R174). -/
structure QueueHdr where
  loc : Nat
  base : DWord
  cap : Nat
  head : Nat
  tail : Nat

/-- Reads a header, or nothing where it breaks its limits. -/
def State.queueHdr (s : State) (loc : Nat) : Option QueueHdr :=
  let base := s.load loc 8
  let l := s.load (loc + 8) 1
  if base % 16 ≠ 0 ∨ l < 1 ∨ 24 < l ∨ s.load (loc + 9) 7 ≠ 0 then none
  else some ⟨loc, BitVec.ofNat 64 base, 2 ^ l, s.load (loc + 16) 8, s.load (loc + 24) 8⟩

/-- Elements present, modulo 2^64. -/
def QueueHdr.len (q : QueueHdr) : Nat := (q.tail + 2 ^ 64 - q.head) % 2 ^ 64

/-- Address of the slot of element i. -/
def QueueHdr.slot (q : QueueHdr) (i : Nat) : DWord := q.base + BitVec.ofNat 64 (16 * (i % q.cap))

/-- The locations of n slots from element i on, each checked (R416). -/
def Exec.slots (x : Exec) (c : Cap) (q : QueueHdr) (i : Nat) : Nat → Except Cause (List Nat)
  | 0 => .ok []
  | n + 1 =>
    match x.objLoc c (q.slot i) 16 .readWrite with
    | .error k => .error k
    | .ok loc => (match x.slots c q (i + 1) n with | .error k => .error k | .ok ls => .ok (loc :: ls))

/-- The accesses of the active lanes to n slots from element i on, one each (R374; log 63). -/
def Exec.slotTouches (x : Exec) (q : QueueHdr) (i n : Nat) (ld : Bool) : List Touch :=
  ((lanesIn x.act).zip (List.range n)).map fun (l, k) =>
    { lane := l, va := (q.slot (i + k)).toNat, size := 16, ld := ld, st := !ld }

/-- The header of a capability, checked, with the slots the word would use: from element `first`, `count` of them. -/
def Exec.queueObj (x : Exec) (c : Cap) (n : Need) (first count : QueueHdr → Nat) (e : CapEntry) :
    Except Cause (QueueHdr × List Nat) :=
  match x.objLoc c e.endpoint 32 n with
  | .error k => .error k
  | .ok loc =>
    match x.s.queueHdr loc with
    | none => .error { capBad .capInvalid c with addr := e.endpoint }
    | some q =>
      (match x.slots c q (first q) (count q) with
       | .error k => .error k
       | .ok ls => x.sound c e.endpoint loc 32 (.ok (q, ls)))

def Exec.actCount (x : Exec) : Nat := (lanesIn x.act).length

/-! ### ENQ, ENQT (R175) -/

/-- The slots an enqueue of n elements would write. -/
def enqCount (n : Nat) (q : QueueHdr) : Nat := min n (q.cap - q.len)

/-- Spends send allowance; 0xFFFFFFFF is never spent (R339). -/
def State.spend (s : State) (pn ctx c n : Nat) : State :=
  s.modCtx pn ctx fun k => { k with caps := k.caps.map fun e =>
    if e.1 = c ∧ e.2.allow ≠ 0xFFFFFFFF then (c, { e.2 with allow := e.2.allow - BitVec.ofNat 32 n }) else e }

/-- Writes elements at the tail: value and ready time, in the order of the lanes. -/
def enqStore (core : Nat) (s : State) : List (Nat × DWord × Nat) → State
  | [] => s
  | (loc, v, ready) :: rest => enqStore core ((s.storeHome core loc 8 v.toNat).storeHome core (loc + 8) 8 ready) rest

def enqWord (s : State) (g : PReg) (d a : VReg) (c : Cap) (timed : Bool) : Result :=
  withWord s (some g) fun x =>
    let uses := [⟨if timed then .quad else .pair, a, .src⟩, dst1 d]
    let obj := x.queueObj c .readWrite (·.tail) (enqCount x.actCount)
    let allowed (r : CapEntry × QueueHdr × List Nat) : Except Cause (CapEntry × QueueHdr × List Nat) :=
      if r.1.allow ≠ 0xFFFFFFFF ∧ r.1.allow.toNat < x.actCount then .error (capBad .capPerm c) else .ok r
    let cap := match x.cap c [capQueue] obj (permAll permSend) with
      | .error k => .error k
      | .ok r => allowed r
    x.capRun uses cap fun (e, q, slots) =>
      if x.mustHold q.loc 32 true ∨ slots.any (fun l => x.mustHold l 16 true) then x.hold
      else
        let lanes := lanesIn x.act
        let ready (l : Lane) : Nat :=
          max x.w.wct.toNat (if timed then ((x.w.thread l).get2 (a + 2)).toNat else 0)
        let items := (lanes.zip slots).map fun (l, loc) => (loc, x.w.lane2 l a, ready l)
        let took (l : Lane) : Bool := ((lanes.take slots.length).contains l)
        x.writeAll uses (fun l t => x.put1 t d (if took l then 1 else 0))
          (fun s =>
            ((enqStore x.b.core s items).storeHome x.b.core (q.loc + 24) 8 ((q.tail + slots.length) % 2 ^ 64)).spend x.b.pn
              x.b.ctx c.toNat slots.length)
          (x.objTouches e.endpoint 32 true true ++ x.slotTouches q q.tail slots.length false)

def execEnq (g : PReg) (d a : VReg) (c : Cap) (s : State) : Result := enqWord s g d a c false
def execEnqt (g : PReg) (d a : VReg) (c : Cap) (s : State) : Result := enqWord s g d a c true

/-! ### DEQ, DEQT, QLEN (R175) -/

/-- The elements at the head that are ready, in order: later ones wait behind one that is not (R174). -/
def readyElems (s : State) : List Nat → List DWord
  | [] => []
  | loc :: rest =>
    if s.load (loc + 8) 8 ≤ s.gt then BitVec.ofNat 64 (s.load loc 8) :: readyElems s rest else []

/-- A dequeued element in its registers; DEQT adds 1 and 0. -/
def deqPut (timed : Bool) (d : VReg) (v : Option DWord) (t : Thread) : Thread :=
  if timed then
    ((t.put2 d (v.getD 0)).setReg (d + 2) (if v.isSome then 1 else 0)).setReg (d + 3) 0
  else t.put2 d (v.getD 0)

def deqWord (s : State) (g : PReg) (d : VReg) (a : Option VReg) (c : Cap) : Result :=
  withWord s (some g) fun x =>
    let timed := a.isSome
    let uses := ⟨if timed then .quad else .pair, d, .dst⟩ :: (a.elim [] fun a => [src2 a])
    let obj := x.queueObj c .readWrite (·.head) fun q => min x.actCount q.len
    x.capRun uses (x.cap c [capQueue] obj (permAll (permRecv ||| permWait))) fun (e, q, slots) =>
      if x.mustHold q.loc 32 true ∨ slots.any (fun l => x.mustHold l 16 false) then x.hold
      else
        let elems := readyElems x.s slots
        let lanes := lanesIn x.act
        let deadline (l : Lane) : Option DWord := a.map fun a => x.w.lane2 l a
        let late (l : Lane) : Bool := (deadline l).elim false fun t => decide (t.toNat ≤ x.s.gt)
        let bad := if slots.any fun l => x.s.badAt l 16 then x.everyLane (capBad .ecc c) else []
        x.checked (some c) (.queue e.pclass) (permAll permPromote e.perms) (decide (lanes.length ≤ elems.length)) bad
          (x.objTouches e.endpoint 32 true true ++ x.slotTouches q q.head slots.length true) fun x =>
            let given (l : Lane) : Option DWord := ((lanes.zip elems).find? fun p => p.1 == l).map (·.2)
            let outs := outsOf (lanes.map fun l =>
              let t := (x.w.thread l).pass x.i.len
              (l, if (given l).isSome ∨ late l then ⟨deqPut timed d (given l) t, []⟩
                  else ⟨x.putToSleep l (x.sleepOn (x.w.thread l) (.deq q.loc d (deadline l)) (some (.queue e.pclass))
                    c.toNat (permAll permPromote e.perms)), []⟩))
            .next (((slots.take elems.length).foldl (fun s l => s.readHome x.b.core l 16) (x.finish uses outs id).bump).storeHome
              x.b.core (q.loc + 16) 8 ((q.head + min elems.length lanes.length) % 2 ^ 64))

def execDeq (g : PReg) (d : VReg) (c : Cap) (s : State) : Result := deqWord s g d none c
def execDeqt (g : PReg) (d a : VReg) (c : Cap) (s : State) : Result := deqWord s g d (some a) c

def execQlen (g : PReg) (d : VReg) (c : Cap) (s : State) : Result :=
  withWord s (some g) fun x =>
    let obj := x.queueObj c .read (·.head) fun _ => 0
    x.capRun [dst1 d] (x.cap c [capQueue] obj (permAny (permSend ||| permRecv))) fun (e, q, _) =>
      if x.mustHold q.loc 32 false then x.hold
      else
        x.writeAll [dst1 d] (fun _ t => x.put1 t d (BitVec.ofNat 32 (min q.len (2 ^ 32 - 1)))) id
          (x.objTouches e.endpoint 32 true false)

end Sys2Proof.Machine
end

