-- ==== Sys2Proof/Machine/MemEvents.lean ====
section
/-! DEFINITION. Accesses in flight: how each is performed, returned and acknowledged; leases, the lanes that wake on
memory, and the host's and peers' part (spec/07_isa_memory_sync.md, R152, R153, R159, R160, R165, R171, R175;
spec/13_ordering_by_goal.md, R257 to R267; spec/14_continuations.md, R281; spec/19_host_coupling.md, R356 to R361). -/

namespace Sys2Proof.Machine

/-! ### What an access waits for -/

def State.acc? (s : State) (id : Nat) : Option Access := s.accs.find? fun a => a.id == id
def State.modAcc (s : State) (id : Nat) (f : Access → Access) : State :=
  { s with accs := s.accs.map fun a => if a.id == id then f a else a }

def Access.isLoad (a : Access) : Bool :=
  match a.kind with
  | .load _ _ _ | .winLoad _ => true
  | _ => false

def Access.isCont (a : Access) : Bool := match a.kind with | .cont _ _ _ _ _ _ => true | _ => false

/-- A store to another slot's window that fills the granule. -/
def Access.fills (a : Access) : Bool := match a.kind with | .winStore _ fs => fs | _ => false

/-- Accesses of one word that are performed together, in ascending lane order: to the same bytes (R74); of a continuation
atomic, at one slice, where each takes its entry (R165); that fill one granule, which fills once (R157). -/
def State.peers (s : State) (a : Access) : List Access :=
  s.accs.filter fun e => e.op == a.op && e.win? == a.win? && e.done.isNone &&
    (e.loc == a.loc || (e.isCont && a.isCont && homeSlice e.loc == homeSlice a.loc) ||
      (e.fills && a.fills && e.loc / 16 == a.loc / 16))

/-- The accesses have a byte in common. -/
def Access.meets (e a : Access) : Bool :=
  e.win? == a.win? && decide (e.loc < a.loc + a.size ∧ a.loc < e.loc + e.size)

/-- An access that is performed before a later one: one of its own thread; a .l1 store of its core that is in the L1 with
bytes of both, where the later one is such a store too, or its thread has read that store there (R263, R264). -/
def State.goesFirst (s : State) (core : Nat) (e a : Access) : Bool :=
  e.before a ||
  (e.done.isNone && e.early && e.meets a && e.op != a.op &&
    ((a.early && (s.block? e.bid).elim false fun b => b.core == core) ||
      (e.readers.contains (a.bid, a.w, a.lane) && !(match a.kind with | .load lvl _ _ => lvl == .l1 | _ => false))))

/-- An exclusive lease defers the access: a near atomic or an L1 load of the holding core is not deferred (R160). -/
def State.deferred (s : State) (core : Nat) (a : Access) : Bool :=
  let own := match a.kind with
    | .atomic _ near _ _ => near
    | .load lvl _ _ => lvl == .l1
    | _ => false
  isDeviceLoc a.loc && a.win?.isNone &&
    s.xleases.any fun x =>
      decide (lineOf a.loc ≤ x.line ∧ x.line ≤ lineOf (a.loc + a.size - 1) ∧ s.gt < x.expiry) && !(own && x.core == core)

/-- The window's block is over (R199, R340): nothing of the window is left. -/
def State.windowGone (s : State) (bid : Nat) : Bool := (s.block? bid).elim true fun b => b.life == .retired

/-- The access may be performed now. -/
def State.ready (s : State) (core : Nat) (a : Access) : Bool :=
  a.done.isNone && a.win?.elim true (fun wb => s.windowHere wb || s.windowGone wb) &&
  !((s.accs.takeWhile fun e => e.id != a.id).any fun e => s.goesFirst core e a) &&
  !s.deferred core a && !(a.win?.isNone && s.barred core a.loc) &&
  !(!a.isLoad && a.win?.isNone && isDeviceLoc a.loc && s.snooped a.loc a.size)

/-- A valid copy from which a load of host memory by a context is served, if any: the L1's for .l1, else the RDC's
(R152, R263). -/
def State.hostHit (s : State) (core pnctx : Nat) (lvl : Pol) (line : Nat) : Option CopyLine :=
  let rdc := (s.copy? (.rdc (dieOfCore core)) line).bind fun c => if c.ctxs.contains pnctx then some c else none
  match lvl with
  | .l1 => (s.copy? (s.l1Of core) line).orElse fun _ => rdc
  | .l2 => rdc
  | _ => none

/-- The access has to leave the module: it ends with HOST_COMPLETION or PEER_RESPONSE (R357, R358, R364).  Where no port or
link takes it, it fails, whatever copies are held (R359, R360). -/
def State.outward (s : State) (b : Block) (a : Access) : Bool :=
  if a.win?.isSome || a.mt == 0 then false
  else if !s.reachable a.loc then true
  else
    match a.kind with
    | .load lvl _ _ => !(a.mt == 1 && (s.hostHit b.core (16 * b.pn + b.ctx) lvl (lineOf a.loc)).isSome)
    | .store lvl => !(a.mt == 1 && (lvl == .l1 || lvl == .l2))
    | .disc _ _ => a.mt == 3
    | _ => true

/-! ### Loads (R152, R153, R263) -/

/-- The value a load returns, with what it does to the copies. -/
def State.loadValue (s : State) (b : Block) (a : Access) (lvl : Pol) : Nat × State :=
  let line := lineOf a.loc
  let off := a.loc % 64
  let copied (c : Option CopyLine) : Nat := c.elim (s.load a.loc a.size) fun c => sliceNat c.bytes off a.size
  if a.mt = 0 then
    if lvl = .l1 then
      match s.copy? (s.l1Of b.core) line with
      | some c => (sliceNat c.bytes off a.size, s)
      | none =>
        let s := s.fillL1 b.core b.pn a.cls line
        (copied (s.copy? (s.l1Of b.core) line), s)
    else (s.load a.loc a.size, s.readHome b.core a.loc a.size)
  else if a.mt = 1 ∧ (lvl = .l1 ∨ lvl = .l2) then
    let pnctx := 16 * b.pn + b.ctx
    match s.hostHit b.core pnctx lvl line with
    | some c =>
      (sliceNat c.bytes off a.size,
        if c.place = s.l1Of b.core then s
        else if lvl = .l1 then s.fillHost b.core pnctx b.pn a.cls true line else s.putCopy c)
    | none =>
      (sliceNat (s.withOwn b.core line (s.hostLine (dieOfCore b.core) pnctx b.pn a.cls line).bytes) off a.size,
        s.fillHost b.core pnctx b.pn a.cls (lvl == .l1) line)
  else (s.load a.loc a.size, s)

/-- An operation whose accesses have all gone: its counter falls, and sr.wct takes the largest completion time. -/
def State.endOp (s : State) (op : Nat) : State :=
  match s.ops.find? fun o => o.id == op with
  | none => s
  | some o =>
    let s := s.modWarp o.bid o.w fun w =>
      let w := if o.counted then (if o.isLoad then { w with ldc := w.ldc - 1 } else { w with stc := w.stc - 1 }) else w
      if o.isLoad then w else { w with wct := if w.wct.toNat < o.tmax then BitVec.ofNat 64 o.tmax else w.wct }
    { s with ops := s.ops.filter fun e => e.id != op }

/-- A returned load leaves; with the last of its word, the operation ends. -/
def State.dropAcc (s : State) (a : Access) : State :=
  let s := { s with accs := s.accs.filter fun e => e.id != a.id }
  if s.accs.any fun e => e.op == a.op then s else (s.endOp a.op).reap a.bid

/-- Poisons the destination of a failed access; a bound port is pushed an open value (R359). -/
def State.poisonDst (s : State) (a : Access) (l : Lane) : State :=
  match a.dst with
  | none => s
  | some (r, n) =>
    let (f, s) := s.drawBits
    (s.deliverRegs a.bid a.w l (BitVec.ofNat 7 r) n f.toNat).poisonRegs a.bid a.w l.val (r, n) a.va

def laneOfNat (n : Nat) : Lane := ⟨n % 32, Nat.mod_lt _ (by decide)⟩

def State.deliverDst (s : State) (a : Access) (v : Nat) : State :=
  match a.dst with
  | none => s
  | some (r, n) => s.deliverRegs a.bid a.w (laneOfNat a.lane) (BitVec.ofNat 7 r) n v

/-- A load that meets a soft error at its home, no copy serving it (R33, R329). -/
def State.loadBad (s : State) (b : Block) (a : Access) (lvl : Pol) : Bool :=
  s.badAt a.loc a.size && !(lvl == .l1 &&
    ((s.copy? (s.l1Of b.core) (lineOf a.loc)).isSome ||
      (homeDie a.loc != dieOfCore b.core && (s.rdcHit b.core (lineOf a.loc)).isSome)))

/-- The threads have read stores of their core in its L1 that are still to be performed (R263). -/
def State.noteReaders (s : State) (core : Nat) (lanes : List Access) : State :=
  { s with accs := s.accs.map fun e =>
      if e.early && e.done.isNone && ((s.block? e.bid).elim false fun b => b.core == core) then
        { e with readers := (lanes.filter e.meets).foldl (fun rs a =>
            if rs.contains (a.bid, a.w, a.lane) then rs else (a.bid, a.w, a.lane) :: rs) e.readers }
      else e }

/-- Loads that return no value: their destinations are poisoned. -/
def State.poisonLoads (s : State) (lanes : List Access) : State :=
  lanes.foldl (fun s e => (s.poisonDst e (laneOfNat e.lane)).dropAcc e) s

/-- Performs a load of some lanes that name the same bytes, and returns it to each (R74).  Of a window that is gone it
returns a free value (log 74). -/
def State.returnLoads (s : State) (b : Block) (a : Access) (lanes : List Access) : State :=
  let give (v : Nat) (s : State) : State := lanes.foldl (fun s e => (s.deliverDst e v).dropAcc e) s
  match a.kind with
  | .load lvl _ sys =>
    let s := if sys then s.sysAcquire b.core b.pn b.ctx else s
    if s.loadBad b a lvl then s.poisonLoads lanes
    else
      let (v, s) := s.loadValue b a lvl
      give v (if lvl = .l1 then s.noteReaders b.core lanes else s)
  | .winLoad wb =>
    if s.windowGone wb then give (s.drawBits.1.toNat % 2 ^ (8 * a.size)) s.drawBits.2
    else if s.winBad wb a.loc a.size then s.poisonLoads lanes
    else give (s.winRead wb a.loc a.size) s
  | _ => s

/-- A load that fails: its destinations are poisoned, and the error is counted (R359). -/
def State.failLoads (s : State) (a : Access) (lanes : List Access) : State :=
  (s.failedAt a.loc).poisonLoads lanes

/-! ### Stores, atomics, discards, continuation atomics at their homes -/

/-- A device write drops the issuing die's RDC copy of a line homed elsewhere, and settles the issuer's L1 copy (R152). -/
def State.settleCopies (s : State) (core line : Nat) (keepL1 : Bool) (cells : List Host.Cell) : State :=
  let die := dieOfCore core
  let s := if homeDie (64 * line) ≠ die then s.dropCopy (.rdc die) line else s
  if keepL1 then s.updateL1 core line cells else s.dropCopy (s.l1Of core) line

/-- The completion time of a write at the home (R260). -/
def State.homeTime (s : State) (line : Nat) : Nat := max s.gt (s.leaseOf line)

def State.setDone (s : State) (a : Access) (t : Nat) : State := s.modAcc a.id fun e => { e with done := some t, dst := none }

/-- A store to a host line of the RDC: the written bytes become dirty (R152, R357).  One that is in the issuer's L1
already leaves it as it is. -/
def State.storeHostLine (s : State) (b : Block) (a : Access) (lvl : Pol) : State :=
  let line := lineOf a.loc
  let c := s.hostLine (dieOfCore b.core) (16 * b.pn + b.ctx) b.pn a.cls line
  let s := s.putRdc { c with bytes := updateBytes c.bytes line a.cells, dirty := touchBytes c.dirty line a.cells }
  if lvl = .l1 then s.updateL1 b.core line (if a.early then [] else a.cells) else s.dropCopy (s.l1Of b.core) line

/-- Bytes written through to the home agent are no longer dirty in the RDC (R357). -/
def State.writeThrough (s : State) (core line : Nat) (cells : List Host.Cell) : State :=
  let s := (s.storeCells cells).dropCopy (s.l1Of core) line
  { s with copies := s.copies.map fun c =>
      if c.place == .rdc (dieOfCore core) && c.line == line then
        { c with bytes := updateBytes c.bytes line cells
                 dirty := c.dirty.mapIdx fun i d => d && !(cells.any fun e => e.1 == 64 * line + i) }
      else c }

def State.performStore (s : State) (b : Block) (a : Access) (lvl : Pol) : State :=
  let line := lineOf a.loc
  if a.mt = 0 then
    let s' := (s.settleCopies b.core line (lvl == .l1) (if a.early then [] else a.cells)).storeCells a.cells
    s'.setDone a (s.homeTime line)
  else if a.mt = 1 ∧ (lvl = .l1 ∨ lvl = .l2) then
    (s.storeHostLine b a lvl).setDone a s.gt
  else if a.mt = 3 then (s.storeCells a.cells).setDone a s.gt
  else (s.writeThrough b.core line a.cells).setDone a s.gt

/-- Records a near atomic's exclusive lease at the home as a read lease too (R259). -/
def State.takeXLease (s : State) (core line : Nat) : State × Nat :=
  let e := s.gt + s.leaseLen (homeDie (64 * line)) / 4
  let s' := { s with xleases := { line := line, core := core, expiry := e } :: s.xleases.filter fun x => x.line != line }
  (s'.grant line e, max e (s.leaseOf line))

/-- An atomic at its home.  One that meets a soft error changes nothing there and poisons its destination (R33, R329;
log 26). -/
def State.performAtomic (s : State) (b : Block) (a : Access) (op : AtomOp) (near : Bool) (lo hi : BitVec 128) : State :=
  if s.badAt a.loc a.size then (s.poisonDst a (laneOfNat a.lane)).setDone a s.gt
  else
  let line := lineOf a.loc
  let s := if a.mt = 0 then s.readHome b.core a.loc a.size else s.flushLine (dieOfCore b.core) line
  let old := s.load a.loc a.size
  let new := (atomNew op (BitVec.ofNat 128 old) lo hi).toNat
  let cells := cellsAt a.loc a.size new
  let (s, t) :=
    if a.mt ≠ 0 then (s, s.gt)
    else if near then s.takeXLease b.core line
    else (s, s.homeTime line)
  let s := if a.mt = 0 then s.settleCopies b.core line near cells else s.dropCopy (s.l1Of b.core) line
  ((s.storeCells cells).deliverDst a old).setDone a t

/-- A last-use discard: each granule keeps its content or becomes zero, freely (R159, R267).  The bytes that a copy of a
host line holds clean, which no lease ends, are settled with it (log 16). -/
def State.discardRange (s : State) (loc n : Nat) : State :=
  let zero (a : Nat) : Bool :=
    decide (loc ≤ a ∧ a < loc + n) && Config.freePick (s.free + (a - loc) / 16) % 2 == 1
  { s with
    free := s.free + n / 16
    mem := s.mem.filter fun c => !zero c.1
    badMem := s.badMem.filter fun a => !zero a
    copies := s.copies.map fun c =>
      if isHostLoc loc then
        let settled (i : Nat) (v : Byte) : Byte := if zero (64 * c.line + i) && !c.dirty.getD i false then 0 else v
        { c with bytes := c.bytes.mapIdx settled }
      else c }

/-- DISC.l2, DISC.str and DISC.sys at the home (R159, R267).  Host lines leave the issuing die's RDC, their dirty bytes
written back first but for the context's own under .sys, and the issuer's L1. -/
def State.performDisc (s : State) (b : Block) (a : Access) (lvl : Pol) : State :=
  let lines := (List.range (a.size / 64)).map fun k => lineOf a.loc + k
  if a.mt = 0 then
    let t := (lines.map s.leaseOf).foldl max s.gt
    ((lines.foldl (fun s l => s.settleCopies b.core l false []) s).discardRange a.loc a.size).setDone a t
  else
    let mine (c : CopyLine) : Bool :=
      lines.contains c.line && (c.place == .rdc (dieOfCore b.core) || c.place == s.l1Of b.core)
    let s := (s.copies.filter fun c => mine c && !(lvl == .sys && c.ctxs.contains (16 * b.pn + b.ctx))).foldl State.evict s
    let s : State := { s with copies := s.copies.filter fun c => !mine c }
    (s.discardRange a.loc a.size).setDone a s.gt

/-- The slice's launch queue takes one more entry of the card (R281). -/
def State.sliceRoom (s : State) (slice pn : Nat) (k : CardRef) : Bool :=
  let es := s.slices.filter fun e => e.slice == slice
  decide (es.length < 64) && decide ((es.filter fun e => e.loc == k.loc && e.pn == pn).length < k.quota)

def contTest (op : ContOp) (old cmp : Word) : Bool :=
  match op with
  | .casc => old == cmp
  | .incc => decide (old.toNat < cmp.toNat)
  | .minc => decide (cmp.toNat < old.toNat)

def contNew (op : ContOp) (old cmp nv : Word) : Word :=
  match op with
  | .casc => nv
  | .incc => old + 1
  | .minc => cmp

/-- A lane of a continuation atomic at its home slice: FAIL 0, DONE 1, BUSY 2 (R165).  The entry takes the binding that
the card has at the reservation; where it has none, the one that the capability check found, so that the record later
meets a revoked card (R25, R281).  R165 states no completion time for FAIL and BUSY: GT (DESIGN CHOICE, log 55). -/
def State.performCont (s : State) (b : Block) (a : Access) (op : ContOp) (cmp nv : Word) (cap : Nat) (card : CardRef)
    (wct0 : DWord) : State :=
  if s.badAt a.loc 4 then (s.poisonDst a (laneOfNat a.lane)).setDone a s.gt
  else
  let old := s.homeWord a.loc
  let slice := homeSlice a.loc
  if !contTest op old cmp then (s.deliverDst a 0).setDone a s.gt
  else
    let k := ((s.cards.find? fun k => k.pn == b.pn && k.loc == card.loc).map fun k => { card with gen := k.gen, quota := k.quota }).getD card
    if !s.sliceRoom slice b.pn k then (s.deliverDst a 2).setDone a s.gt
    else
      let new := contNew op old cmp nv
      let cells := cellsAt a.loc 4 new.toNat
      let t := s.homeTime (lineOf a.loc)
      let s := (s.settleCopies b.core (lineOf a.loc) false cells).storeCells cells
      let s : State := { s with slices := s.slices ++
        [{ slice := slice, va := a.va, old := old, new := new, carried := max wct0.toNat t, card := k.gen, cardVa := k.va
           loc := k.loc, pn := b.pn, ctx := b.ctx, cap := cap }] }
      (s.deliverDst a 1).setDone a t

/-! ### Performing and failing -/

/-- Performs a store-class access of one lane. -/
def State.performAcc (s : State) (b : Block) (a : Access) : State :=
  match a.kind with
  | .store lvl => s.performStore b a lvl
  | .atomic op near lo hi => s.performAtomic b a op near lo hi
  | .disc lvl _ => s.performDisc b a lvl
  | .winStore wb _ => (s.winWrite wb a.cells).setDone a s.gt
  | .cont op cmp nv cap card wct0 => s.performCont b a op cmp nv cap card wct0
  | _ => s

/-- The granules that some accesses fill, each once (R157). -/
def filledBy (lanes : List Access) : List (Nat × Nat) :=
  (lanes.filterMap fun e => match e.kind with | .winStore wb true => some (wb, e.loc / 16) | _ => none).eraseDups

/-- Performs the lanes that go together, one after another (R74); then granules become full, and what lock words owe is
settled. -/
def State.performAll (s : State) (b : Block) (lanes : List Access) : State :=
  let s := lanes.foldl (fun s e =>
    let s := s.performAcc b e
    if e.win?.isSome then s else s.touchSlots e.loc e.size) s
  ((filledBy lanes).foldl (fun s g => s.setFull g.1 g.2) s).settleLocks

/-- Store-class accesses that fail: a store is dropped and acknowledged, an atomic's destination is poisoned (R359). -/
def State.failAll (s : State) (a : Access) (lanes : List Access) : State :=
  lanes.foldl (fun s e => (s.poisonDst e (laneOfNat e.lane)).setDone e s.gt) (s.failedAt a.loc)

/-! ### The events -/

/-- What performs an access: the state, its block, the access, and with it the lanes that name the same bytes, where all
may be performed. -/
def withAcc (s : State) (id : Nat) (k : Block → Access → List Access → State) : Result :=
  match s.acc? id with
  | none => .next s
  | some a =>
    match s.block? a.bid with
    | none => .next s
    | some b => if (s.peers a).all (s.ready b.core) && s.ready b.core a then .next (k b a (s.peers a)) else .next s

/-- LOAD_RETURN: a load on this module is performed and its value returned; one that can reach no one fails (R153). -/
def execLoadReturn (op : Nat) (s : State) : Result :=
  withAcc s op fun b a lanes =>
    if !a.isLoad then s
    else if !s.outward b a then (s.returnLoads b a lanes).unhold
    else if !s.reachable a.loc then (s.failLoads a lanes).unhold
    else s

/-- STORE_PERFORMED_AT_HOME (R153, R260). -/
def execStorePerformedAtHome (op : Nat) (s : State) : Result :=
  withAcc s op fun b a lanes =>
    if a.isLoad then s
    else if !s.outward b a then (s.performAll b lanes).unhold
    else if !s.reachable a.loc then (s.failAll a lanes).unhold
    else s

/-- STORE_ACK: every lane's completion time has been returned (R153). -/
def execStoreAck (op : Nat) (s : State) : Result :=
  let mine := s.accs.filter fun a => a.op == op
  if (s.ops.any fun o => o.id == op && !o.isLoad) && mine.all fun a => a.done.isSome then
    let t := (mine.map fun a => a.done.getD 0).foldl max 0
    let s : State := { s with
      accs := s.accs.filter fun a => a.op != op
      ops := s.ops.map fun o => if o.id = op then { o with tmax := max o.tmax t } else o }
    .next ((s.endOp op).reap ((mine.head?).elim 0 (·.bid))).unhold
  else .next s

/-- The end of a request that left the module: without the port or the link that took it, it has failed (R359, R364). -/
def endOutward (s : State) (op mt : Nat) (ok : Bool) : Result :=
  withAcc s op fun b a lanes =>
    let ok := ok && s.reachable a.loc
    if s.outward b a ∧ (if mt = 3 then a.mt = 3 else a.mt = 1 ∨ a.mt = 2) then
      if a.isLoad then (if ok then s.returnLoads b a lanes else s.failLoads a lanes).unhold
      else (if ok then s.performAll b lanes else s.failAll a lanes).unhold
    else s

/-- HOST_COMPLETION (R357 to R359). -/
def execHostCompletion (op : Nat) (ok : Bool) (s : State) : Result := endOutward s op 1 ok
/-- PEER_RESPONSE (R359, R364). -/
def execPeerResponse (op : Nat) (ok : Bool) (s : State) : Result := endOutward s op 3 ok

/-- The number of a copy's place: an L1 by its physical core, or 640 and the die of an RDC. -/
def CopyPlace.num : CopyPlace → Nat
  | .l1 c => c
  | .rdc d => 640 + d

/-- Replacement in an L1, whose sets no rule gives: a copy may leave at any time (R259; log 8).  The lines of an RDC leave
as R261 and R388 say. -/
def State.replaceCopy (s : State) (place line : Nat) : State :=
  match s.copies.find? fun c => c.place.num == place && c.line == line with
  | some c => (match c.place with | .l1 _ => (s.dropCopy c.place c.line).unhold | .rdc _ => s)
  | none => s

/-- LEASE_EXPIRE: a copy whose lease is over is dropped; only host lines are dirty, and those carry none (R259). -/
def execLeaseExpire (place line : Nat) (s : State) : Result :=
  .next { s with copies := s.copies.filter fun c =>
    !(c.place.num == place && c.line == line && decide (c.expiry ≤ s.gt + 8)) }

/-- EXCLUSIVE_LEASE_END: the lease ends, perhaps early (R259). -/
def execExclusiveLeaseEnd (line : Nat) (s : State) : Result :=
  .next (State.unhold { s with xleases := s.xleases.filter fun x => x.line != line })

/-! ### Lanes that wake -/

/-- A lane's sleep, where its warp is not stopping. -/
def State.sleeper (s : State) (bid w : Nat) (l : Lane) : Option (Block × Sleep) :=
  match s.block? bid with
  | none => none
  | some b =>
    match b.warp? w with
    | none => none
    | some x => if x.stop = .none then ((x.thread l).asleep).map fun z => (b, z) else none

/-- A sleeping lane whose word meets a trap as it reads again: the lanes that sleep with it in that word trap on it, unless
their warp is parked. -/
def State.trapLane (s : State) (bid warp : Nat) (lane : Lane) (code : TrapCode) : State :=
  match (s.warp? bid warp).bind fun w =>
      if w.parked.isNone then (w.sleepGroups bid warp).find? fun g => inMask g.lanes lane else none with
  | some g => (s.trapSleepers g code 0).settleLocks.unhold
  | none => s

/-- WAITF_WAKE: the lane reads again at home and returns if its condition holds (R171); of a word with a soft error it traps
(R33). -/
def execWaitfWake (bid warp : Nat) (lane : Lane) (s : State) : Result :=
  match s.sleeper bid warp lane with
  | some (b, z) =>
    match z.kind with
    | .waitf loc mt k y =>
      if s.badAt loc 4 then .next (s.trapLane bid warp lane .ecc)
      else if !s.xleased b.core loc 4 && !s.readEarly (bid, warp, lane.val) loc 4 && s.reachable loc &&
          condHolds k (s.homeWord loc) y then
        .next (acquireFor b.core b.pn b.ctx (mt != 0) ((s.readHome b.core loc 4).modThread bid warp lane Thread.wake)).unhold
      else .next s
    | _ => .next s
  | none => .next s

/-- The lowest lane of the warp that sleeps in the same word is served first (R175). -/
def State.firstOfGroup (s : State) (bid w : Nat) (l : Lane) (z : Sleep) : Bool :=
  match s.warp? bid w with
  | none => false
  | some x => !(x.sleepers.any fun e => e.1 < l && e.2.order == z.order)

/-- The location of the head element of a queue for a block's context, where it is present and ready. -/
def State.headElem (s : State) (b : Block) (q : QueueHdr) : Option Nat :=
  if q.len = 0 then none
  else
    match s.translate (some b.core) b.pn b.ctx (q.slot q.head).toNat .readWrite with
    | .ok p => if p.mt = 0 ∧ s.load (p.loc + 8) 8 ≤ s.gt then some p.loc else none
    | .error _ => none

/-- QUEUE_ELEMENT_READY: the head element goes to a lane asleep in DEQ or DEQT (R174, R175). -/
def execQueueElementReady (bid warp : Nat) (lane : Lane) (s : State) : Result :=
  match s.sleeper bid warp lane with
  | some (b, z) =>
    match z.kind with
    | .deq hdr d dl =>
      match s.queueHdr hdr with
      | some q =>
        match s.headElem b q with
        | some loc =>
          if s.badAt hdr 32 || s.badAt loc 16 then .next (s.trapLane bid warp lane .ecc)
          else if s.firstOfGroup bid warp lane z && !s.snooped hdr 32 && !s.xleased b.core hdr 32 then
            let v := BitVec.ofNat 64 (s.load loc 8)
            let s := (s.readHome b.core loc 16).storeHome b.core (hdr + 16) 8 ((q.head + 1) % 2 ^ 64)
            .next (s.modThread bid warp lane fun t => deqPut dl.isSome d (some v) t.wake).unhold
          else .next s
        | none => .next s
      | none => .next s
    | _ => .next s
  | none => .next s

/-- DEQT_DEADLINE (R175). -/
def execDeqtDeadline (bid warp : Nat) (lane : Lane) (s : State) : Result :=
  match s.sleeper bid warp lane with
  | some (_, z) =>
    match z.kind with
    | .deq _ d (some t) =>
      if t.toNat ≤ s.gt then .next (s.modThread bid warp lane fun th => deqPut true d none th.wake).unhold else .next s
    | _ => .next s
  | none => .next s

/-- RDGT_WAKE: GT has reached the target (R112). -/
def execRdgtWake (bid warp : Nat) (lane : Lane) (s : State) : Result :=
  match s.sleeper bid warp lane with
  | some (_, z) =>
    match z.kind with
    | .time t d =>
      if t.toNat ≤ s.gt then
        .next (s.modThread bid warp lane fun th => th.wake.put2 d (BitVec.ofNat 64 s.gt)).unhold
      else .next s
    | _ => .next s
  | none => .next s

/-- HANG_LIMIT in ns: it is compared in whole µs (R352). -/
def State.hangLimit (s : State) (pn : Nat) : Nat := 1000 * (s.csr (.part pn) 0x03D0).toNat

/-- The count has reached the limit; a limit of 0 disables the watchdog (R330). -/
def State.hangs (s : State) (pn : Nat) (z : Sleep) : Bool := s.hangLimit pn != 0 && decide (s.hangLimit pn ≤ z.hang)

/-- The lanes that sleep in the same issue of a word and have reached the limit with a lane. -/
def State.hungWith (s : State) (b : Block) (w : Warp) (z : Sleep) (g : SleepGroup) : SleepGroup :=
  { g with lanes := maskOf fun l => (w.thread l).asleep.elim false fun y => y.order == z.order && s.hangs b.pn y }

/-- HANG_WATCHDOG_EXPIRE: the lanes of a word at the limit are woken and their word traps with WATCHDOG, once; a WLOCK's
counted writer is withdrawn with the last of them.  The lanes of a parked warp wait until it runs again (R167, R255, R352). -/
def execHangWatchdogExpire (bid warp : Nat) (lane : Lane) (s : State) : Result :=
  match s.sleeper bid warp lane with
  | some (b, z) =>
    match (b.warp? warp).bind fun w => (w.sleepGroups bid warp).find? fun g => inMask g.lanes lane with
    | none => .next s
    | some g =>
      match b.warp? warp with
      | none => .next s
      | some w =>
        if w.parked.isNone && (z.target.isSome || (match z.kind with | .mask _ => true | _ => false)) && s.hangs b.pn z then
          let h := s.hungWith b w z g
          let kept : Sleep := match g.z.kind with
            | .lock loc write _ => if h.lanes = g.lanes then g.z else { g.z with kind := .lock loc write false }
            | _ => g.z
          .next (s.trapSleepers { h with z := kept } .watchdog 0).settleLocks.unhold
        else .next s
  | none => .next s

end Sys2Proof.Machine
end

