-- ==== Sys2Proof/Machine/Copy.lean ====
section
/-! DEFINITION. Asynchronous copies: the copy words, CTOK and CSLEEP, and the events of the block-transfer engines
(spec/08_isa_engines_system.md, R178 to R181; spec/15_async_copies.md, R288 to R305). -/

namespace Sys2Proof.Machine

/-! ### Descriptors (R290 to R295) -/

/-- The number in n bytes of a descriptor from an offset on; `descInt` reads it as signed. -/
def descNat (raw : List Byte) (o n : Nat) : Nat := sliceNat raw o n
def descInt (raw : List Byte) (o n : Nat) : Int :=
  let v := descNat raw o n
  if v < 2 ^ (8 * n - 1) then v else (v : Int) - 2 ^ (8 * n)

def descSize (kind : Nat) : Nat := match kind with | 1 => 48 | 2 => 96 | 3 => 80 | _ => 64

/-- The common head (R290). -/
structure CopyHead where
  es : Nat
  srcl : Bool
  dstl : Bool
  mc : Bool
  nlb : Bool
  mask : Nat
  src : Nat
  dst : Nat

def copyHead (raw : List Byte) : CopyHead :=
  let f := descNat raw 2 1
  { es := 2 ^ descNat raw 1 1
    srcl := f % 2 == 1
    dstl := f / 2 % 2 == 1
    mc := f / 4 % 2 == 1
    nlb := f / 8 % 2 == 1
    mask := descNat raw 3 1
    src := descNat raw 8 8
    dst := descNat raw 16 8 }

def copyTag (raw : List Byte) : Nat := descNat raw 24 8

/-- The head's own checks (R290, R296). -/
def headOk (kind : Nat) (raw : List Byte) : Bool :=
  let h := copyHead raw
  descNat raw 0 1 == kind && decide (descNat raw 1 1 ≤ 4) && descNat raw 2 1 / 16 == 0 && h.mask / 16 == 0 &&
  descNat raw 4 4 == 0 && (h.mc || h.mask == 0) && (!h.nlb || kind == 3) && (!h.mc || h.dstl) &&
  (!h.srcl || h.src / 2 ^ 32 == 0) && (!h.dstl || h.dst / 2 ^ 32 == 0) &&
  (match kind with
   | 1 => h.es == 1
   | 2 => h.srcl != h.dstl && h.es != 16
   | 3 => !h.srcl && h.dstl && h.es != 16
   | _ => !h.srcl)

/-! One unit of a copy: its source, and its place in the destination. -/

inductive UnitSrc where
  | fill (bytes : List Byte)
  | win (off : Nat)
  | glob (va : Nat)
  /-- A pixel of an image row: the row and the byte within it. -/
  | row (y off : Nat)
  | skip
  deriving DecidableEq

/-- A unit: source, destination offset from the first destination byte (an address for a global destination), bytes. -/
structure CopyUnit where
  src : UnitSrc
  dst : Nat
  n : Nat

def fillBytes (raw : List Byte) (o es : Nat) : List Byte := ((raw.drop o).take 8 ++ List.replicate 8 0).take es

/-- Units of a one-dimensional copy: its destination bytes by aligned sixteens (R291). -/
def unit1 (raw : List Byte) (k : Nat) : CopyUnit :=
  let h := copyHead raw
  let len := descNat raw 32 8
  let lo := if k = 0 then 0 else 16 * k - h.dst % 16
  let hi := min len (16 * (k + 1) - h.dst % 16)
  { src := if h.srcl then .win lo else .glob (h.src + lo)
    dst := if h.dstl then lo else h.dst + lo
    n := hi - lo }

/-- An element of a tiled copy (R292). -/
def unit2 (raw : List Byte) (k : Nat) : CopyUnit :=
  let h := copyHead raw
  let dim (i : Nat) : Int := descNat raw (48 + 4 * i) 4
  let start (i : Nat) : Int := descInt raw (60 + 4 * i) 4
  let box (i : Nat) : Nat := descNat raw (72 + 2 * i) 2
  let b0 := k % box 0
  let b1 := k / box 0 % box 1
  let b2 := k / box 0 / box 1
  let i0 := start 0 + b0
  let i1 := start 1 + b1
  let i2 := start 2 + b2
  let l := b0 * h.es + b1 * descNat raw 80 4 + b2 * descNat raw 84 4
  let inb := decide (0 ≤ i0 ∧ i0 < dim 0 ∧ 0 ≤ i1 ∧ i1 < dim 1 ∧ 0 ≤ i2 ∧ i2 < dim 2)
  let g := (if h.dstl then h.src else h.dst) + i0.toNat * h.es + i1.toNat * descNat raw 32 8 + i2.toNat * descNat raw 40 8
  if h.dstl then { src := if inb then .glob g else .fill (fillBytes raw 88 h.es), dst := l, n := h.es }
  else if inb then { src := .win l, dst := g, n := h.es }
  else { src := .skip, dst := 0, n := 0 }

/-- The bytes of an image row. -/
def rowBytes (raw : List Byte) : Nat := descNat raw 44 4 * descNat raw 48 2 * (copyHead raw).es

/-- An element of an im2col copy (R293). -/
def unit3 (raw : List Byte) (k : Nat) : CopyUnit :=
  let h := copyHead raw
  let c := descNat raw 48 2
  let kh := descNat raw 50 1
  let kw := descNat raw 51 1
  let per := kh * kw * c
  let p := k / per
  let e := k % per
  let y := descInt raw 56 4 + (e / (kw * c) : Nat)
  let x := descInt raw 60 4 + (p * descNat raw 52 1 + e / c % kw : Nat)
  let inb := decide (0 ≤ y ∧ y < descNat raw 40 4 ∧ 0 ≤ x ∧ x < descNat raw 44 4)
  { src := if inb then .row y.toNat ((x.toNat * c + e % c) * h.es) else .fill (fillBytes raw 72 h.es)
    dst := p * descNat raw 64 4 + e * h.es
    n := h.es }

/-- An element of a gather copy (R295). -/
def unit4 (raw : List Byte) (idx : List Nat) (k : Nat) : CopyUnit :=
  let h := copyHead raw
  let i := (idx[k]?).getD 0
  { src := if i < descNat raw 48 4 then .glob (h.src + i * descNat raw 40 8) else .fill (fillBytes raw 56 h.es)
    dst := if h.dstl then k * h.es else h.dst + k * h.es
    n := h.es }

def unitOf (kind : Nat) (raw : List Byte) (idx : List Nat) (k : Nat) : CopyUnit :=
  match kind with
  | 1 => unit1 raw k
  | 2 => unit2 raw k
  | 3 => unit3 raw k
  | _ => unit4 raw idx k

/-- The number of units of a command. -/
def unitCount (kind : Nat) (raw : List Byte) : Nat :=
  match kind with
  | 1 => ((copyHead raw).dst % 16 + descNat raw 32 8 + 15) / 16
  | 2 => descNat raw 72 2 * descNat raw 74 2 * descNat raw 76 2
  | 3 => descNat raw 54 2 * (descNat raw 50 1 * descNat raw 51 1 * descNat raw 48 2)
  | _ => descNat raw 36 4

/-- Bytes from the first to the last local byte, of the source or of each destination window. -/
def localSpan (kind : Nat) (raw : List Byte) : Nat :=
  let es := (copyHead raw).es
  match kind with
  | 1 => descNat raw 32 8
  | 2 => (descNat raw 76 2 - 1) * descNat raw 84 4 + (descNat raw 74 2 - 1) * descNat raw 80 4 + descNat raw 72 2 * es
  | 3 => (descNat raw 54 2 - 1) * descNat raw 64 4 + descNat raw 50 1 * descNat raw 51 1 * descNat raw 48 2 * es
  | _ => descNat raw 36 4 * es

/-- The largest in-bounds coordinate of a span of n from a start, if any. -/
def lastIn (start : Int) (n bound : Nat) : Option Nat :=
  let hi := min (start + n) bound
  if max 0 start < hi then some (hi - 1).toNat else none

/-- The end of the global bytes a command accesses, as an exact integer, for source and destination (R296). -/
def globalEnds (kind : Nat) (raw : List Byte) (idx : List Nat) : List Nat :=
  let h := copyHead raw
  match kind with
  | 1 =>
    (if h.srcl then [] else [h.src + descNat raw 32 8]) ++ (if h.dstl then [] else [h.dst + descNat raw 32 8])
  | 2 =>
    let last (i : Nat) := lastIn (descInt raw (60 + 4 * i) 4) (descNat raw (72 + 2 * i) 2) (descNat raw (48 + 4 * i) 4)
    match last 0, last 1, last 2 with
    | some a, some b, some c =>
      [(if h.dstl then h.src else h.dst) + a * h.es + b * descNat raw 32 8 + c * descNat raw 40 8 + h.es]
    | _, _, _ => []
  | 3 =>
    let w := descNat raw 44 4
    let xs := (List.range (descNat raw 54 2)).filterMap fun p =>
      lastIn (descInt raw 60 4 + (p * descNat raw 52 1 : Nat)) (descNat raw 51 1) w
    match lastIn (descInt raw 56 4) (descNat raw 50 1) (descNat raw 40 4), xs with
    | some y, x :: rest =>
      [h.src + y * descNat raw 32 8 + (rest.foldl max x + 1) * descNat raw 48 2 * h.es]
    | _, _ => []
  | _ =>
    ((idx.filter (· < descNat raw 48 4)).map fun i => h.src + i * descNat raw 40 8 + h.es) ++
      (if h.dstl then [] else [h.dst + descNat raw 36 4 * h.es])

def inRange (lo v hi : Nat) : Bool := decide (lo ≤ v ∧ v ≤ hi)

/-- The fields of a kind within the ranges of its table, and its alignments (R291 to R296). -/
def fieldsOk (kind : Nat) (raw : List Byte) : Bool :=
  let h := copyHead raw
  let mult (v : Nat) : Bool := v % h.es == 0
  match kind with
  | 1 => inRange 1 (descNat raw 32 8) (2 ^ 32) && descNat raw 40 8 == 0
  | 2 =>
    ((List.range 3).all fun i => inRange 1 (descNat raw (48 + 4 * i) 4) (2 ^ 31) &&
      inRange 1 (descNat raw (72 + 2 * i) 2) 4096) &&
    descNat raw 78 2 == 0 && mult (descNat raw 32 8) && mult (descNat raw 40 8) &&
    mult (descNat raw 80 4) && decide (descNat raw 72 2 * h.es ≤ descNat raw 80 4) &&
    mult (descNat raw 84 4) &&
    (descNat raw 76 2 == 1 || decide (descNat raw 74 2 * descNat raw 80 4 ≤ descNat raw 84 4)) &&
    mult (if h.dstl then h.src else h.dst)
  | 3 =>
    mult (descNat raw 32 8) && inRange 1 (descNat raw 40 4) (2 ^ 31) && inRange 1 (descNat raw 44 4) (2 ^ 31) &&
    decide (rowBytes raw ≤ 4096) && inRange 1 (descNat raw 48 2) 4096 && inRange 1 (descNat raw 50 1) 8 &&
    inRange 1 (descNat raw 51 1) 16 && inRange 1 (descNat raw 52 1) 8 && descNat raw 53 1 == 0 &&
    inRange 1 (descNat raw 54 2) 1024 &&
    decide (descNat raw 50 1 * descNat raw 51 1 * descNat raw 48 2 * h.es ≤ descNat raw 64 4) &&
    descNat raw 68 4 == 0 && mult h.src
  | _ =>
    descNat raw 32 4 % 4 == 0 && inRange 1 (descNat raw 36 4) 1024 && descNat raw 52 4 == 0 && mult (descNat raw 40 8) &&
    mult h.src && (h.dstl || mult h.dst)

/-! ### Windows of a command (R297) -/

/-- A local range in one window: the address names the own window or a paired one (R31). -/
def State.localRange (s : State) (b : Block) (addr n : Nat) : Option (Nat × Nat) :=
  match s.resolveLocal b addr n with
  | .ok p => some p
  | .error _ => none

/-- The windows a local destination lies in: the one its address names, or each slot of a multicast (R297). -/
def State.destWindows (s : State) (b : Block) (kind : Nat) (raw : List Byte) : Option (List (Nat × Nat)) :=
  let h := copyHead raw
  let n := localSpan kind raw
  if !h.dstl then some []
  else if h.mc then
    ((List.range 4).filter fun j => h.mask / 2 ^ j % 2 == 1).mapM fun j =>
      match s.pairedBlock b j with
      | some p => if h.dst + n ≤ p.lm then some (p.bid, h.dst) else none
      | none => none
  else (s.localRange b h.dst n).map fun p => [p]

def State.srcWindow (s : State) (b : Block) (kind : Nat) (raw : List Byte) : Option (Option (Nat × Nat)) :=
  let h := copyHead raw
  if h.srcl then (s.localRange b h.src (localSpan kind raw)).map some else some none

/-- The index array of a gather copy holds a soft error (R33, R295). -/
def State.idxBad (s : State) (b : Block) (kind : Nat) (raw : List Byte) : Bool :=
  kind == 4 && s.winBad b.bid (descNat raw 32 4) (4 * descNat raw 36 4)

/-- A gather's index array, in the issuer's window (R295). -/
def State.readIdx (s : State) (b : Block) (kind : Nat) (raw : List Byte) : Option (List Nat) :=
  if kind = 4 then
    if descNat raw 32 4 + 4 * descNat raw 36 4 ≤ b.lm then
      some ((List.range (descNat raw 36 4)).map fun i => s.winRead b.bid (descNat raw 32 4 + 4 * i) 4)
    else none
  else some []

/-! ### Rings (R299, R300) -/

structure RingHdr where
  loc : Nat
  va : DWord
  /-- Address of the records, and how many. -/
  base : DWord
  cap : Nat
  next : Nat

/-- The fields of a RING capability's header, or nothing where they break their limits. -/
def State.ringHdr (s : State) (loc : Nat) (va : DWord) : Option RingHdr :=
  let l := s.load (loc + 8) 1
  let base := va + BitVec.ofNat 64 (s.load loc 8)
  if base.toNat % 32 ≠ 0 ∨ l < 1 ∨ 16 < l ∨ s.load (loc + 9) 7 ≠ 0 ∨ s.load (loc + 20) 12 ≠ 0 then none
  else some ⟨loc, va, base, 2 ^ l, s.load (loc + 16) 4⟩

/-- The location of a token's record: in device memory (R299). -/
def State.recordLoc (s : State) (core : Option Nat) (pn ctx : Nat) (r : RingHdr) (token : Nat) : Option Nat :=
  match s.translate core pn ctx (r.base + BitVec.ofNat 64 (32 * (token % r.cap))).toNat .none with
  | .ok p => if p.mt = 0 then some p.loc else none
  | .error _ => none

/-- Every page of the record area is device memory (R299). -/
def State.recordsOk (s : State) (core : Option Nat) (pn ctx : Nat) (r : RingHdr) : Bool :=
  (List.range (r.cap / 2048 + 2)).all fun k => (s.recordLoc core pn ctx r (min (2048 * k) (r.cap - 1))).isSome

/-- The object check of a ring word: the header, and what the word needs of the records. -/
def Exec.ringObj {α : Type} (x : Exec) (c : Cap) (n : Need) (recs : RingHdr → Option α) (e : CapEntry) :
    Except Cause (RingHdr × α) :=
  match x.objLoc c e.endpoint 32 n with
  | .error k => .error k
  | .ok loc =>
    let bad := { capBad .capInvalid c with addr := e.endpoint }
    match x.s.ringHdr loc e.endpoint with
    | none => .error bad
    | some r =>
      if !x.s.recordsOk (some x.b.core) x.b.pn x.b.ctx r then .error bad
      else (match recs r with | some a => x.sound c e.endpoint loc 32 (.ok (r, a)) | none => .error bad)

/-! ### CPY, CPYT, CPYIM, CPYG (R179, R288, R296) -/

/-- The warp belongs to the block's producer group (R288). -/
def Exec.producer (x : Exec) : Bool :=
  match x.s.launch? x.b.launch with
  | some l => l.flags.getLsbD 3 && x.b.grps.contains l.prodg && decide (x.i.w < l.prodw)
  | none => false

/-- Commands of the core's engine whose record has not been written: its queue (R179).  The entries of a block that has
left the core have left with it (R303). -/
def State.queued (s : State) (core : Nat) : Nat :=
  (s.cmds.filter fun c => c.stage != .recorded && (s.block? c.bid).elim false fun b => b.core == core && b.resident).length

/-- Commands of a ring that have not completed (R299). -/
def State.ringOpen (s : State) (hdr : Nat) : Nat := (s.cmds.filter fun c => c.hdr == hdr).length

/-- The descriptor as a command, or the trap of steps 3 and 4 of R179; a soft error in what it reads ranks last (R34). -/
def Exec.readCopy (x : Exec) (kind : Nat) (off : Nat) (r : RingHdr) (rc : Nat) : Except Cause Copy :=
  let range : Except Cause Copy := .error { code := .copyRange }
  if off % 16 ≠ 0 then .error { code := .memAlign, addr := BitVec.ofNat 64 off }
  else if off / 2 ^ 20 % 2 = 1 ∨ off + descSize kind > x.b.lm then .error { code := .memPerm, addr := BitVec.ofNat 64 off }
  else
    let raw := (List.range (descSize kind)).map fun i => BitVec.ofNat 8 (x.s.winRead x.b.bid (off + i) 1)
    if !headOk kind raw || !fieldsOk kind raw then range
    else
      match x.s.readIdx x.b kind raw, x.s.srcWindow x.b kind raw, x.s.destWindows x.b kind raw with
      | some idx, some src, some dsts =>
        if (globalEnds kind raw idx).any fun e => decide (2 ^ 60 < e) then range
        else if x.s.winBad x.b.bid off (descSize kind) then .error { code := .ecc, addr := BitVec.ofNat 64 off }
        else if x.s.idxBad x.b kind raw then .error { code := .ecc, addr := BitVec.ofNat 64 (descNat raw 32 4) }
        else
          .ok
            { id := x.s.nextId, bid := x.b.bid, w := x.i.w, pn := x.b.pn, ctx := x.b.ctx
              ring := r.va, hdr := r.loc, token := BitVec.ofNat 32 r.next, recAt := rc, kind := kind, raw := raw, idx := idx
              src := src, dsts := dsts, stage := .queued, done := [], part := [], bytes := 0, paid := 0, cgt := 0, dh := false }
      | _, _, _ => range

/-- What the descriptor of a copy word brings; a warp outside the producer group stops before it is read (R179). -/
def Exec.copyCauses (x : Exec) (kind : Nat) (a : VReg) (r : RingHdr) (rc : Nat) : List (Lane × Cause) :=
  if !x.producer then x.everyLane { code := .copyRights }
  else
    match x.operand [] a with
    | none => []
    | some off => (match x.readCopy kind off.toNat r rc with | .error k => x.everyLane k | .ok _ => [])

def copyWord (s : State) (g : PReg) (d a : VReg) (c : Cap) (kind : Nat) : Result :=
  withWord s (some g) fun x =>
    let obj := x.ringObj c .readWrite fun r => x.s.recordLoc (some x.b.core) x.b.pn x.b.ctx r r.next
    x.capOnceRun [src1 a, dst1 d] (x.cap c [capRing] obj (permAll permSend)) (fun e => x.copyCauses kind a e.2.1 e.2.2)
      fun (_, r, rc) =>
        match x.readCopy kind (x.hiWord [] a).toNat r rc with
        | .error k => x.trapAll k
        | .ok cmd =>
          if x.w.cpc ≥ 15 ∨ x.s.queued x.b.core ≥ 16 ∨ x.s.ringOpen r.loc ≥ r.cap ∨ x.mustHold r.loc 32 true then x.hold
          else
            x.answer [a] d cmd.token fun s =>
              let s := (s.storeHome x.b.core (r.loc + 16) 4 ((r.next + 1) % 2 ^ 32)).bump
              let s := s.modWarp x.i.bid x.i.w fun w => { w with cpc := w.cpc + 1 }
              { s with cmds := s.cmds ++ [cmd] }

def execCpy (g : PReg) (d a : VReg) (c : Cap) (s : State) : Result := copyWord s g d a c 1
def execCpyt (g : PReg) (d a : VReg) (c : Cap) (s : State) : Result := copyWord s g d a c 2
def execCpyim (g : PReg) (d a : VReg) (c : Cap) (s : State) : Result := copyWord s g d a c 3
def execCpyg (g : PReg) (d a : VReg) (c : Cap) (s : State) : Result := copyWord s g d a c 4

/-! ### CTOK, CSLEEP (R181) -/

/-- The status of a token by its record slot (R181).  DESIGN CHOICE: a STATUS byte other than 0 and 1 is CANCELLED
(log 68). -/
def State.tokenStatus (s : State) (slot : Nat) (token : Word) : Nat :=
  let u := BitVec.ofNat 32 (s.load slot 4)
  if u = token then
    match s.load (slot + 4) 1 with
    | 0 => if s.load (slot + 16) 8 ≤ s.gt then 0 else 3
    | 1 => 1
    | _ => 2
  else if (u - token).toNat < 2 ^ 31 then 4
  else 3

/-- A record read with status OK whose destination is in host memory: the acquire is at sys scope (R181). -/
def State.tokenHost (s : State) (slot : Nat) (token : Word) : Bool :=
  s.tokenStatus slot token == 0 && s.load (slot + 6) 1 % 2 == 1

/-- The tokens of the active lanes. -/
def Exec.tokens (x : Exec) (a : VReg) (quad : Bool) : List (Lane × Word) :=
  (lanesIn x.act).map fun l =>
    (l, if quad then (x.w.thread l).reg a
        else (match x.get1 (x.w.thread l) a with | .ok (v, _) => v | .error _ => 0))

/-- The record slots of the lanes' tokens. -/
def Exec.slotsOf (x : Exec) (ts : List (Lane × Word)) (r : RingHdr) : Option (List (Lane × Word × Nat)) :=
  ts.mapM fun (l, t) => (x.s.recordLoc (some x.b.core) x.b.pn x.b.ctx r t.toNat).map fun k => (l, t, k)

def execCtok (g : PReg) (d a : VReg) (c : Cap) (s : State) : Result :=
  withWord s (some g) fun x =>
    let uses := [src1 a, dst1 d]
    x.capRun uses (x.cap c [capRing] (x.ringObj c .read (x.slotsOf (x.tokens a false))) (permAll permRecv)) fun (_, _, sl) =>
      x.writeAll uses
        (fun l t => (match x.get1 t a with
          | .error k => .error k
          | .ok (_, t) =>
            if (sl.find? fun e => e.1 == l).elim false fun e => x.s.badAt e.2.2 32 then .error { code := .ecc }
            else x.put1 t d (BitVec.ofNat 32 ((sl.find? fun e => e.1 == l).elim 3 fun e => x.s.tokenStatus e.2.2 e.2.1))))
        (acquireFor x.b.core x.b.pn x.b.ctx (sl.any fun e => x.s.tokenHost e.2.2 e.2.1))

/-- CSLEEP: a lane whose token is pending sleeps, unless its deadline has passed (R181). -/
def execCsleep (g : PReg) (d a : VReg) (c : Cap) (s : State) : Result :=
  withWord s (some g) fun x =>
    let uses := [src4 a, dst1 d]
    x.capRun uses (x.cap c [capRing] (x.ringObj c .read (x.slotsOf (x.tokens a true))) (permAll permRecv)) fun (_, _, sl) =>
      x.writeAll uses
        (fun l t =>
          match sl.find? fun e => e.1 == l with
          | none => .ok ⟨t, []⟩
          | some (_, token, slot) =>
            let st := x.s.tokenStatus slot token
            let dl := t.get2 (a + 2)
            if x.s.badAt slot 32 then .error { code := .ecc }
            else if st = 3 ∧ !(dl.toNat ≠ 0 ∧ dl.toNat ≤ x.s.gt) then
              (match checkDst x t d with
               | .error k => .error k
               | .ok _ => .ok ⟨x.putToSleep l (x.sleepOn t (.csleep slot token dl d) none 64 false), []⟩)
            else x.put1 t d (BitVec.ofNat 32 st))
        fun s => (acquireFor x.b.core x.b.pn x.b.ctx (sl.any fun e => x.s.tokenHost e.2.2 e.2.1) s).bump

/-- CSLEEP_WAKE: the record has come and its completion GT passed, or the deadline has (R181). -/
def execCsleepWake (bid warp : Nat) (lane : Lane) (s : State) : Result :=
  match s.sleeper bid warp lane with
  | some (b, z) =>
    match z.kind with
    | .csleep slot token dl d =>
      let st := s.tokenStatus slot token
      if st ≠ 3 ∨ (dl.toNat ≠ 0 ∧ dl.toNat ≤ s.gt) then
        let s := acquireFor b.core b.pn b.ctx (s.tokenHost slot token) s
        .next ((s.modThread bid warp lane Thread.wake).deliverReg bid warp lane d (BitVec.ofNat 32 st)).unhold
      else .next s
    | _ => .next s
  | none => .next s

/-! ### The engines (R289 to R305) -/

def MxEntry.busy (m : MxEntry) : Bool :=
  match m.stage with
  | .working _ | .run _ _ => true
  | _ => false

/-- Steps 1 and 2 of a move of the cluster are over: every warp has stopped, no STEP is in progress, and granted matrix
operations are complete; its engines stop (R322). -/
def State.moveStopped (s : State) (cluster : Nat) : Bool :=
  let here := s.blocks.filter fun b => b.resident && !b.isSteward && clusterOfCore b.core == cluster
  s.moveOf (4 * cluster) && (here.all fun b => b.warps.all Warp.hasStopped) &&
    !(s.stepReq.elim false fun r => r.started && here.any fun b => b.bid == r.tbid) &&
    s.engines.all fun e => e.cluster != cluster || e.entries.all fun m => !m.busy

/-- The engines move bytes of the block: it is resident and has not stopped, be it halted; a churn move stops all engines of
its cluster at one time (R303, R322, R377). -/
def State.enginesRun (s : State) (b : Block) : Bool :=
  b.resident && b.life != .moving && !s.moveStopped (clusterOfCore b.core) &&
    (match b.stopFor with
     | none | some .halt | some .churn => true
     | _ => !(b.warps.all Warp.hasStopped))

def State.cmd? (s : State) (id : Nat) : Option Copy := s.cmds.find? fun c => c.id == id
def State.modCmd (s : State) (id : Nat) (f : Copy → Copy) : State :=
  { s with cmds := s.cmds.map fun c => if c.id == id then f c else c }

/-- A command with its block, where the engine may go on with it. -/
def withCmd (s : State) (id : Nat) (may : Copy → Block → Bool) (k : Copy → Block → Result) : Result :=
  match s.cmd? id with
  | none => .next s
  | some c => (match s.block? c.bid with | none => .next s | some b => if may c b then k c b else .next s)

/-- An element begun is moved to its end before a stop freezes the command (R303). -/
def State.endsUnit (s : State) (k : Nat) (c : Copy) (b : Block) : Bool :=
  s.enginesRun b || (c.kind != 1 && b.resident && b.life != .moving && (numLookup c.part k).isSome)

/-- No element of the block's commands is half moved (R303). -/
def State.atElements (s : State) (b : Block) : Bool :=
  s.cmds.all fun c => c.bid != b.bid || c.kind == 1 || c.part.isEmpty

/-- COPY_BEGIN: commands of a core begin in the order of issue (R289); NLB empties the engine's line buffers (R294). -/
def execCopyBegin (copy : Nat) (s : State) : Result :=
  withCmd s copy (fun _ b => s.enginesRun b) fun c b =>
    let earlier := (s.cmds.takeWhile fun e => e.id != copy).any fun e =>
      e.stage == .queued && (s.block? e.bid).elim false fun k => k.core == b.core && s.enginesRun k && !k.frozen
    if c.stage = .queued ∧ !earlier ∧ !b.frozen then
      let s := if (copyHead c.raw).nlb then
        { s with lineBufs := s.lineBufs.filter fun e => e.core != s.physCore b.core } else s
      .next (s.modCmd copy fun e => { e with stage := .begun })
    else .next s

/-- What stops a command: FCODE, the address, and the place of a read that could not be made (R300, R301, R359). -/
structure CopyFault where
  code : Byte
  addr : Nat
  lost : Option Nat := none

/-- What a byte of global memory gives a copy: its place, or the fault (R301, R305). -/
def State.copyByte (s : State) (core : Nat) (c : Copy) (va : Nat) (n : Need) : Except CopyFault Xlat :=
  match s.translate (some core) c.pn c.ctx va n with
  | .error k => .error { code := if k.code = .xlate then 0x0B else 0x0C, addr := va }
  | .ok p =>
    if n = .read ∧ !s.reachable p.loc then .error { code := 0x14, addr := va, lost := some p.loc }
    else if n = .read ∧ s.badAt p.loc 1 then .error { code := 0x14, addr := va }
    else .ok p

/-- A byte that a copy cannot reach yet: an exclusive lease or the host's copy of its line comes first, or a closed
boundary lies before its home (R259, R361, R391). -/
def State.byteHeld (s : State) (core : Nat) (p : Xlat) (writes : Bool) : Bool :=
  s.barred core p.loc || (s.xleases.any fun x => x.line == lineOf p.loc && decide (s.gt < x.expiry)) ||
    (writes && isDeviceLoc p.loc && s.snooped p.loc 1)

/-- A byte of global memory at its home or its home agent, which does not see what an RDC holds dirty (R266, R305);
nothing while it is held. -/
def State.globByte (s : State) (core : Nat) (c : Copy) (va : Nat) : Except CopyFault (Option (Byte × State)) :=
  match s.copyByte core c va .read with
  | .error f => .error f
  | .ok p =>
    if s.byteHeld core p false then .ok none
    else .ok (some (memRead s.mem p.loc, s.keepLeaf (some core) c.pn c.ctx va))

/-- The buffered row of an image, if the engine holds it (R294). -/
def State.bufferedRow (s : State) (core : Nat) (c : Copy) (y : Nat) : Option LineBuf :=
  s.lineBufs.find? fun e =>
    e.core == s.physCore core && e.pn == c.pn && e.ctx == c.ctx && e.src.toNat == (copyHead c.raw).src &&
      e.rstride.toNat == descNat c.raw 32 8 && e.row == y && e.bytes.length == rowBytes c.raw

/-- Puts a row at the front of the engine's eight buffers. -/
def State.useRow (s : State) (e : LineBuf) : State :=
  let same (k : LineBuf) : Bool :=
    k.pn == e.pn && k.ctx == e.ctx && k.src == e.src && k.rstride == e.rstride && k.row == e.row &&
      k.bytes.length == e.bytes.length
  let mine := e :: (s.lineBufs.filter fun k => k.core == e.core && !same k)
  { s with lineBufs := mine.take 8 ++ s.lineBufs.filter fun k => k.core != e.core }

/-- The address of a row of the image. -/
def rowAddr (c : Copy) (y : Nat) : Nat := (copyHead c.raw).src + y * descNat c.raw 32 8

/-- A row in the engine, or the buffer that it is to be fetched into. -/
def State.rowBuf (s : State) (core : Nat) (c : Copy) (y : Nat) : LineBuf :=
  (s.bufferedRow core c y).getD
    { core := s.physCore core, pn := c.pn, ctx := c.ctx, src := BitVec.ofNat 64 (copyHead c.raw).src
      rstride := BitVec.ofNat 64 (descNat c.raw 32 8), row := y, bytes := List.replicate (rowBytes c.raw) none }

def LineBuf.whole (e : LineBuf) : Bool := e.bytes.all Option.isSome

/-- A list from its k-th element on, then those before it. -/
def fromPick {α : Type} (l : List α) (k : Nat) : List α := l.drop k ++ l.take k

/-- A row is fetched byte by byte, in any order: a step takes one missing byte that can be read, whichever it is, and of the
others a free choice (R294, R304). -/
def State.fetchRow (s : State) (core : Nat) (c : Copy) (y : Nat) : State :=
  let e := s.rowBuf core c y
  let missing := (List.range e.bytes.length).filter fun k => (e.bytes.getD k none).isNone
  let (k, s) := s.drawPick missing.length
  let base := s.free
  let (s, bytes, _) := (fromPick missing k).foldl (fun (s, bs, taken) j =>
    if taken && Config.freePick (base + j) % 2 == 0 then (s, bs, taken)
    else
      match s.globByte core c (rowAddr c y + j) with
      | .ok (some (w, s)) => (s, bs.set j (some w), true)
      | _ => (s, bs, taken)) (({ s with free := s.free + e.bytes.length } : State), e.bytes, false)
  s.useRow { e with bytes := bytes }

/-- Byte j of a unit from its source, or its fault; nothing while it cannot be read. -/
def State.srcByte (s : State) (core : Nat) (c : Copy) (u : CopyUnit) (j : Nat) : Except CopyFault (Option (Byte × State)) :=
  match u.src with
  | .fill bs => .ok (some (bs.getD j 0, s))
  | .skip => .ok none
  | .win off =>
    match c.src with
    | some (b, base) =>
      if s.winBad b (base + off + j) 1 then .error { code := 0x14, addr := base + off + j }
      else .ok (if s.windowHere b then some (BitVec.ofNat 8 (s.winRead b (base + off + j) 1), s) else none)
    | none => .ok none
  | .glob va => s.globByte core c (va + j)
  | .row y off =>
    match s.bufferedRow core c y with
    | some e => .ok (if e.whole then (e.bytes.getD (off + j) none).map fun v => (v, s.useRow e) else none)
    | none => .ok none

/-- Where byte j of a unit is written in global memory, or its fault. -/
def State.dstByte (s : State) (core : Nat) (c : Copy) (u : CopyUnit) (j : Nat) : Except CopyFault Xlat :=
  s.copyByte core c (u.dst + j) .write

/-- Writes a byte at its home: a device line's RDC copy on the engine's die is dropped, an unreachable byte is dropped and
counted; its completion time (R260, R301, R305). -/
def State.putByte (s : State) (core : Nat) (p : Xlat) (v : Byte) : State × Nat :=
  if !s.reachable p.loc then (s.failedAt p.loc, s.gt)
  else
    let line := lineOf p.loc
    let s := if p.mt = 0 ∧ homeDie p.loc ≠ dieOfCore core then s.dropCopy (.rdc (dieOfCore core)) line else s
    ((s.storeCells [(p.loc, v)]).touchSlots p.loc 1, if p.mt = 0 then s.homeTime line else s.gt)

/-- What moving bytes of a unit has come to: the state, the bytes moved, the latest completion time, and whether one went
to host memory. -/
structure Moved where
  s : State
  js : List Nat
  t : Nat
  host : Bool

/-- Moves one byte of a unit, if it can be. -/
def Moved.byte (core : Nat) (c : Copy) (u : CopyUnit) (m : Moved) (j : Nat) : Moved :=
  match m.s.srcByte core c u j with
  | .ok (some (v, s)) =>
    if (copyHead c.raw).dstl then
      if c.dsts.all fun d => s.windowHere d.1 then
        { m with s := c.dsts.foldl (fun s d => s.winWrite d.1 [(d.2 + u.dst + j, v)]) s, js := m.js ++ [j], t := max m.t s.gt }
      else m
    else
      match m.s.dstByte core c u j with
      | .ok p =>
        if s.byteHeld core p true then m
        else
          let (s, t) := (s.keepLeaf (some core) c.pn c.ctx (u.dst + j)).putByte core p v
          ⟨s, m.js ++ [j], max m.t t, m.host || p.mt == 1 || p.mt == 2⟩
      | .error _ => m
  | _ => m

def Copy.movedMask (c : Copy) (k : Nat) : Nat := if c.done.contains k then 2 ^ 16 - 1 else (numLookup c.part k).getD 0

/-- Bytes of a unit that are still to be moved. -/
def Copy.missing (c : Copy) (k : Nat) (u : CopyUnit) : List Nat := (List.range u.n).filter fun j => c.movedMask k / 2 ^ j % 2 == 0

/-- The command once some bytes of a unit have been moved. -/
def Copy.after (c : Copy) (k : Nat) (u : CopyUnit) (m : Moved) : Copy :=
  let mask := c.movedMask k + (m.js.map fun j => 2 ^ j).foldl (· + ·) 0
  let whole := mask + 1 == 2 ^ u.n
  { c with
    done := if whole then insertRising k c.done else c.done
    part := (if whole then [] else [(k, mask)]) ++ c.part.filter fun e => e.1 != k
    bytes := c.bytes + m.js.length * (if (copyHead c.raw).dstl then c.dsts.length else 1)
    cgt := max c.cgt m.t
    dh := c.dh || m.host }

/-- A granule of a destination window is wholly written: each of its 16 bytes lies in a unit up to 16 before or after this
one that has moved it; destinations rise with the unit number (R298). -/
def granuleDone (c : Copy) (k base g : Nat) : Bool :=
  let near := (List.range 33).filterMap fun j =>
    if 16 ≤ k + j ∧ k + j - 16 < unitCount c.kind c.raw then some (k + j - 16) else none
  let units := near.map fun j => (j, unitOf c.kind c.raw c.idx j)
  (List.range 16).all fun i => units.any fun e =>
    decide (base + e.2.dst ≤ 16 * g + i ∧ 16 * g + i < base + e.2.dst + e.2.n) &&
      c.movedMask e.1 / 2 ^ (16 * g + i - (base + e.2.dst)) % 2 == 1

/-- The granules of each destination window that the bytes just moved have completed become full. -/
def State.fillDone (s : State) (c : Copy) (k : Nat) (u : CopyUnit) (js : List Nat) : State :=
  if (copyHead c.raw).dstl then
    c.dsts.foldl (fun s (wb, base) =>
      (((js.map fun j => (base + u.dst + j) / 16).eraseDups).filter (granuleDone c k base)).foldl
        (fun s g => s.setFull wb g) s) s
  else s

/-- What a choice of the missing bytes of a unit moves: one of them, wherever the choice begins, and of the others those
that it picks (R213, R291, R304). -/
def State.moveBytes (s : State) (core : Nat) (c : Copy) (u : CopyUnit) (js : List Nat) (f : BitVec 128) : Moved :=
  js.foldl (fun m j => if m.js.isEmpty || f.getLsbD j then m.byte core c u j else m) ⟨s, [], 0, false⟩

/-- Moves bytes of a unit, freely chosen, each old or new by itself (R213, R266, R304); an element of an image waits for its
row. -/
def State.moveUnit (s : State) (b : Block) (c : Copy) (k : Nat) : State :=
  let u := unitOf c.kind c.raw c.idx k
  match u.src with
  | .skip => s.modCmd c.id fun e => { e with done := insertRising k e.done }
  | src =>
    let row : Option Nat := match src with
      | .row y _ => if (s.bufferedRow b.core c y).elim false LineBuf.whole then none else some y
      | _ => none
    match row with
    | some y => s.fetchRow b.core c y
    | none =>
      let (i, s) := s.drawPick (c.missing k u).length
      let (f, s) := s.drawBits
      let m := s.moveBytes b.core c u (fromPick (c.missing k u) i) f
      let c' := c.after k u m
      if m.js.isEmpty then s else (m.s.modCmd c.id fun _ => c').fillDone c' k u m.js

/-- The first fault among the bytes of a unit that are still to be moved. -/
def State.unitFault (s : State) (core : Nat) (c : Copy) (k : Nat) : Option CopyFault :=
  let u := unitOf c.kind c.raw c.idx k
  let fault (n : Need) (va : Nat) : Option CopyFault :=
    match s.copyByte core c va n with | .error f => some f | .ok _ => none
  let js := c.missing k u
  let src := match u.src with
    | .glob va => js.findSome? fun j => fault .read (va + j)
    | .win off => c.src.bind fun p => js.findSome? fun j =>
        if s.winBad p.1 (p.2 + off + j) 1 then some { code := 0x14, addr := p.2 + off + j } else none
    | .row y _ =>
      if (s.bufferedRow core c y).elim false LineBuf.whole then none
      else (List.range (rowBytes c.raw)).findSome? fun i => fault .read (rowAddr c y + i)
    | _ => none
  src.orElse fun _ =>
    if (copyHead c.raw).dstl || u.src == .skip then none else js.findSome? fun j => fault .write (u.dst + j)

/-- The next 4 KiB of destination bytes have no energy reservation yet (R404). -/
def Copy.unpaid (c : Copy) : Bool := decide (c.paid ≤ c.bytes)

/-- COPY_GRANULE_FILLED: bytes of a unit of the command are moved, once its burst has its energy (R289, R298, R404). -/
def execCopyGranuleFilled (copy granule : Nat) (s : State) : Result :=
  withCmd s copy (s.endsUnit granule) fun c b =>
    if c.stage = .begun ∧ granule < unitCount c.kind c.raw ∧ !c.done.contains granule then
      if c.unpaid then .next (s.askEnergy (clusterOfCore b.core) (.copy c.id) 48)
      else .next (s.moveUnit b c granule).settleLocks.unhold
    else .next s

/-- The command's global destination lies in host or CXL-attached memory, whether or not a byte of it has been written
(R300). -/
def State.hostDest (s : State) (c : Copy) : Bool :=
  c.dh || (!(copyHead c.raw).dstl && (List.range (unitCount c.kind c.raw)).any fun k =>
    let u := unitOf c.kind c.raw c.idx k
    u.src != .skip && (match s.translate none c.pn c.ctx u.dst .none with
      | .ok p => p.mt == 1 || p.mt == 2
      | .error _ => false))

/-- Writes the record: offsets 4 to 31, then TOKEN (R300). -/
def State.writeRecord (s : State) (c : Copy) (status fcode : Nat) (cgt : Nat) : State :=
  s.writeOwn c.recAt 32
    (cellsAt (c.recAt + 4) 4 (status + 2 ^ 8 * fcode + 2 ^ 16 * (if s.hostDest c then 1 else 0)) ++
      cellsAt (c.recAt + 8) 8 (c.bytes % 2 ^ 32) ++ cellsAt (c.recAt + 16) 8 cgt ++ cellsAt (c.recAt + 24) 8 (copyTag c.raw) ++
      cellsAt c.recAt 4 c.token.toNat)

/-- A command that has ended leaves, and CPC falls (R180). -/
def State.endCmd (s : State) (c : Copy) : State :=
  let s := s.modWarp c.bid c.w fun w => { w with cpc := w.cpc - 1 }
  { s with cmds := s.cmds.filter fun e => e.id != c.id }

/-- The record is written; CPC falls once GT has reached the record's completion GT. -/
def State.recordCmd (s : State) (c : Copy) (status fcode cgt : Nat) : State :=
  let s := s.writeRecord c status fcode cgt
  if cgt ≤ s.gt then s.endCmd c else s.modCmd c.id fun e => { e with stage := .recorded, cgt := cgt }

def Copy.finished (c : Copy) : Bool := c.stage == .begun && c.done.length == unitCount c.kind c.raw

/-- COPY_COMPLETE: every unit has been moved, or the completion GT of a written record has come (R180, R300). -/
def execCopyComplete (copy : Nat) (s : State) : Result :=
  match s.cmd? copy with
  | none => .next s
  | some c =>
    if c.stage = .recorded then
      if c.cgt ≤ s.gt then .next (s.endCmd c).unhold else .next s
    else if c.finished ∧ ((s.block? c.bid).elim false s.enginesRun) then
      .next (s.recordCmd c 0 0 c.cgt).unhold
    else .next s

/-- The first unit not moved whose bytes fault, with code and address. -/
def State.copyFaultOf (s : State) (b : Block) (c : Copy) : Option CopyFault :=
  (List.range (unitCount c.kind c.raw)).findSome? fun k => if c.done.contains k then none else s.unitFault b.core c k

/-- COPY_FAULT: a byte cannot be translated or lacks permission, or, from outside, a source byte is found with an
uncorrectable soft error; the command stops and the fault log says so (R301, R350). -/
def execCopyFault (copy : Nat) (s : State) : Result :=
  withCmd s copy (fun _ b => s.enginesRun b) fun c b =>
    if c.stage = .begun ∧ !c.finished then
      let f := (s.copyFaultOf b c).getD { code := 0x14, addr := (copyHead c.raw).src }
      let s' := (f.lost.elim s s.failedAt).recordCmd c 1 f.code.toNat (max c.cgt s.gt)
      .next (s'.flog c.pn c.ctx
        { code := f.code, sub := 0, source := 1, obj := c.ring, addr := BitVec.ofNat 64 f.addr
          detail := c.token.setWidth 64, tag := BitVec.ofNat 64 (copyTag c.raw) }).unhold
    else .next s

/-- Cancels the commands that a predicate picks: each, though its record may stand already while GT has not reached its
completion, gets a CANCELLED record, and CPC falls (R180, R302). -/
def State.cancelCmds (s : State) (p : Copy → Bool) : State :=
  (s.cmds.filter p).foldl (fun s c => (s.writeRecord c 2 0 (max c.cgt s.gt)).endCmd c) s

end Sys2Proof.Machine
end

