-- ==== Sys2Proof/Machine/Bx.lean ====
section
/-! DEFINITION. Block formats: BXQ, BXPK, BXD (spec/02_number_formats.md, R49 to R53; spec/06_isa_float_lanes.md, R138
to R140). -/

namespace Sys2Proof.Machine

/-- k: the magnitude bits of an element code (R50). -/
def bxK : BxFmt → Nat
  | .bx4 => 3 | .bx6 => 5 | .bx8 => 7

/-- Floor(log2 |x|) of a finite nonzero FP32 pattern. -/
def fp32Log2 (x : Word) : Int :=
  match fp32.decode x.toNat with
  | .fin _ m e => (Nat.log2 m : Int) + e
  | _ => 0

def fp32Mag (x : Word) : Nat := x.toNat % 2 ^ 31
def fp32IsFinite (x : Word) : Bool := fp32Mag x < 0x7F800000

/-- The largest magnitude pattern of some lanes; 0 if there are none. -/
def maxMag (xs : List Word) : Nat := xs.foldl (fun a x => max a (fp32Mag x)) 0

/-- The shared exponent E of a block whose largest magnitude pattern is a (R53). -/
def bxExp (a : Nat) : Nat :=
  if a = 0 then 0 else (max 0 (min 254 (fp32Log2 (BitVec.ofNat 32 a) + 127))).toNat

/-- The group step δ (R53). -/
def bxStep (e b : Nat) : Nat :=
  if b = 0 then 3 else (min 3 ((e : Int) - 127 - fp32Log2 (BitVec.ofNat 32 b))).toNat

/-- The code of one element: sign and magnitude, with NX and UF (R53). -/
def bxCode (k e step : Nat) (x : Word) : Word × Flags :=
  match fp32.decode x.toNat with
  | .fin s m q =>
    let p : Int := q + (127 - (e : Int) + k - 1 + step)
    let (n, exact) := roundTo .rne false m p 0
    let big := n > 2 ^ k - 1
    let n' := if big then 2 ^ k - 1 else n
    (BitVec.ofNat 32 ((if s ∧ n' ≠ 0 then 2 ^ k else 0) + n'),
     { nx := big || !exact, uf := m != 0 && n' == 0 })
  | _ => (0, {})

/-- A quantised block: header, and the code and flags of each active element (R53). -/
structure BxBlock where
  header : Word
  codes : List (Option (Word × Flags))

/-- The active values of group j. -/
def bxGroup (xs : List (Option Word)) (j : Nat) : List Word := ((xs.drop (4 * j)).take 4).filterMap id

def bxQuantise (k : Nat) (xs : List (Option Word)) : BxBlock :=
  let act := xs.filterMap id
  if act.any fun x => !fp32IsFinite x then
    { header := 0xFF00, codes := xs.map fun x => x.map fun _ => (0, { nv := true }) }
  else
    let e := bxExp (maxMag act)
    let step := fun j => bxStep e (maxMag (bxGroup xs j))
    { header := BitVec.ofNat 32 (256 * e + step 0 + 4 * step 1 + 16 * step 2 + 64 * step 3)
      codes := xs.mapIdx fun i x => x.map fun v => bxCode k e (step (i / 4)) v }

/-- The half-warp's sixteen values. -/
def halfWarp {α : Type} (vals : Lane → Option α) (l : Lane) : List (Option α) :=
  (allLanes.filter fun j => j.val / 16 == l.val / 16).map vals

def execBxq (g : PReg) (d a : VReg) (m : BxFmt) (s : State) : Result :=
  withWord s (some g) fun x =>
    x.run [src1 a, dst2 d] false (x.rd1 a)
      (fun vals l _ t =>
        let blk := bxQuantise (bxK m) (halfWarp vals l)
        match (blk.codes[l.val % 16]?).getD none with
        | some (c, fl) =>
          .ok ⟨(t.flag fl).put2 d ((BitVec.ofNat 32 (65536 * (l.val % 16) + blk.header.toNat)) ++ c), []⟩
        | none => .ok ⟨t, []⟩) keepWarp

/-- BxValue of R52, exact in FP32. -/
def bxValue (k : Nat) (code hi : Word) : Word :=
  let h := hi.toNat % 65536
  let i := hi.toNat / 65536 % 16
  let e := h / 256
  if e = 255 then BitVec.ofNat 32 fp32.nan
  else
    let m := code.toNat % 2 ^ k
    let sg := code.toNat / 2 ^ k % 2 == 1
    let dl := h / 4 ^ (i / 4) % 4
    if m = 0 then 0
    else BitVec.ofNat 32 (fp32.round .rne sg m ((e : Int) - 127 - ((k : Int) - 1) - dl)).1

def execBxd (g : PReg) (d a : VReg) (m : BxFmt) (s : State) : Result :=
  withWord s (some g) fun x =>
    x.run [src2 a, dst1 d] false (fun _ t => .ok (t.get2 a, t))
      (fun _ _ u t => x.put1 t d (bxValue (bxK m) (u.setWidth 32) (u.extractLsb' 32 32))) keepWarp

/-- The element codes of a block as one little-endian number (R50): element i in bits [(k+1) i + k : (k+1) i]. -/
def bxPack (k : Nat) : List (Option Word) → Nat
  | [] => 0
  | c :: rest => (c.getD 0).toNat % 2 ^ (k + 1) + 2 ^ (k + 1) * bxPack k rest

/-- nw: the words of a packed block (R139). -/
def bxWords : BxFmt → Nat
  | .bx4 => 2 | .bx6 => 3 | .bx8 => 4

def execBxpk (g : PReg) (d a : VReg) (m : BxFmt) (s : State) : Result :=
  withWord s (some g) fun x =>
    x.run [src1 a, dst1 d] false (x.rd1 a)
      (fun vals l _ t =>
        let j := l.val % 16
        x.put1 t d (if j < bxWords m then
          BitVec.ofNat 32 (bxPack (bxK m) (halfWarp vals l) / 2 ^ (32 * j)) else 0)) keepWarp

end Sys2Proof.Machine
end

