-- ==== Sys2Proof/Machine/Engine.lean ====
section
/-! DEFINITION. What the matrix engine computes: descriptors, row formats, passes, drains (spec/02_number_formats.md, R56,
R57; spec/08_isa_engines_system.md, R191 to R193; spec/16_matrix_engine.md, R312 to R315). -/

namespace Sys2Proof.Machine

/-! ### Rows as the FP32 words they stand for (R191) -/

/-- Bytes of a dense row of 128 elements, by format code; 5 is FP32. -/
def mxRowBytes (fmt : Nat) : Nat :=
  match fmt with
  | 0 | 1 => 256
  | 2 => 128
  | 3 => 96
  | 4 => 64
  | _ => 512

def mxIsBx (fmt : Nat) : Bool := 2 ≤ fmt && fmt ≤ 4

/-- The BX format of codes 2, 3, 4. -/
def mxBx (fmt : Nat) : BxFmt := match fmt with | 2 => .bx8 | 3 => .bx6 | _ => .bx4

/-- Element i of a row: its bytes, its headers' bytes (R37, R50, R52). -/
def mxElem (fmt : Nat) (elems heads : List Byte) (i : Nat) : Word :=
  match fmt with
  | 0 => BitVec.ofNat 32 (65536 * sliceNat elems (2 * i) 2)
  | 1 => BitVec.ofNat 32 (fpCvt fp16 fp32 {} (sliceNat elems (2 * i) 2)).1
  | _ =>
    let k := bxK (mxBx fmt)
    let per := 2 * (k + 1)
    let code := sliceNat elems (per * (i / 16)) per / 2 ^ ((k + 1) * (i % 16)) % 2 ^ (k + 1)
    bxValue k (BitVec.ofNat 32 code) (BitVec.ofNat 32 (65536 * (i % 16) + sliceNat heads (2 * (i / 16)) 2))

/-- The n elements of a row. -/
def mxRow (fmt n : Nat) (elems heads : List Byte) : List Word := (List.range n).map (mxElem fmt elems heads)

/-! ### Group sums (R56) -/

/-- The exact product of two values. -/
def mulNum (x y : Num) : Num := (Num.mul x y).1

def Num.log2 : Num → Int
  | .fin _ m e => (Nat.log2 m : Int) + e
  | _ => 0

/-- Sign × Floor(|p| / 2^q). -/
def Num.aligned (q : Int) : Num → Int
  | .fin s m e =>
    let n : Nat := if q ≤ e then m * 2 ^ (e - q).toNat else m / 2 ^ (q - e).toNat
    if s then -(n : Int) else n
  | _ => 0

def groupSum (ps : List Num) : Word :=
  if ps.any Num.isNaN || (ps.any (fun p => p.isInf && p.sign) && ps.any (fun p => p.isInf && !p.sign)) then
    BitVec.ofNat 32 fp32.nan
  else if ps.any Num.isInf then
    BitVec.ofNat 32 (fp32.withSign (ps.any fun p => p.isInf && p.sign) fp32.infBits)
  else
    match ps.filter fun p => !p.isZero with
    | [] => 0
    | p :: rest =>
      let q := (rest.foldl (fun m r => max m r.log2) p.log2) - 39
      let sum := ((p :: rest).map (Num.aligned q)).foldl (· + ·) 0
      if sum = 0 then 0 else BitVec.ofNat 32 (fp32.round .rne (sum < 0) sum.natAbs q).1

/-- The aligned terms of a group, and none of a group whose result is NaN or infinite (R56, R314). -/
def groupTerms (ps : List Num) : List Int :=
  let sum := fp32.decode (groupSum ps).toNat
  if sum.isNaN || sum.isInf then []
  else
    match ps.filter fun p => !p.isZero with
    | [] => []
    | p :: rest => (p :: rest).map (Num.aligned ((rest.foldl (fun m r => max m r.log2) p.log2) - 39))

/-- The 48-bit sum of a group. -/
def groupTotal (ps : List Num) : Int := (groupTerms ps).foldl (· + ·) 0

/-- The least nonnegative residue modulo 2^31 - 1 (R314). -/
def residue (n : Int) : Nat := (n % (2 ^ 31 - 1)).toNat

/-- Accumulate: one addition in RNE, NaN canonical. -/
def accumulate (a g : Word) : Word := BitVec.ofNat 32 (fpAdd fp32 {} a.toNat g.toNat).1

/-! ### Planes and accumulators -/

def zeroRow : List Word := List.replicate 128 0

def rowOf (rows : List (Nat × List Word)) (k : Nat) : List Word := ((rows.find? fun e => e.1 == k).map (·.2)).getD zeroRow

/-- Rows that are not +0.0 throughout are listed, in the order of their number. -/
def setRow (rows : List (Nat × List Word)) (k : Nat) (r : List Word) : List (Nat × List Word) :=
  (rows.filter fun e => e.1 < k) ++ (if r.all (· == 0) then [] else [(k, r)]) ++ (rows.filter fun e => k < e.1)

/-- Before the first MXLDS both planes hold +0.0 in BF16 (R192). -/
def zeroPlane : Plane := ⟨0, [], false⟩
def newEngineCtx : EngineCtx := ⟨zeroPlane, zeroPlane, [], []⟩

/-- The 128 products of an activation row with column n of a plane. -/
def products (active : Plane) (acts : List Word) (n : Nat) : List Num :=
  (acts.zip ((List.range 128).map (rowOf active.rows))).map fun (x, w) =>
    mulNum (fp32.decode x.toNat) (fp32.decode ((w[n]?).getD 0).toNat)

/-- One activation row against the active plane, added to an accumulator row (R192). -/
def passRow (active : Plane) (acts : List Word) (old : List Word) : List Word :=
  old.mapIdx fun n a => accumulate a (groupSum (products active acts n))

/-- A[row]: the residue of the array's sums (R314). -/
def rowResidue (active : Plane) (acts : List Word) : Nat :=
  residue (((List.range 128).map fun n => groupTotal (products active acts n)).foldl (· + ·) 0)

/-- B[row]: the residue that the residue unit computes from the terms themselves (R314). -/
def termResidue (active : Plane) (acts : List Word) : Nat :=
  residue (((List.range 128).flatMap fun n => groupTerms (products active acts n)).foldl (· + ·) 0)

/-! ### Descriptors (R191, R193) -/

structure MxDesc where
  base : Nat
  hbase : Nat
  stride : Nat
  rows : Nat
  acc0 : Nat
  fmt : Nat
  flags : Nat
  tab : Nat
  meta' : Nat

def mxDesc (op : Nat) (raw : List Byte) : MxDesc :=
  if op = 0 then
    ⟨sliceNat raw 0 4, sliceNat raw 4 4, sliceNat raw 8 4, 128, 0, sliceNat raw 12 1, sliceNat raw 13 1, 0, 0⟩
  else
    ⟨sliceNat raw 0 4, sliceNat raw 4 4, sliceNat raw 8 4, sliceNat raw 12 2, sliceNat raw 14 2, sliceNat raw 16 1,
      sliceNat raw 17 1, sliceNat raw 20 4, sliceNat raw 24 4⟩

/-- NA: no arrival. -/
def MxDesc.na (d : MxDesc) : Bool := d.flags / 128 % 2 == 1
def MxDesc.clr (d : MxDesc) : Bool := d.flags % 2 == 1

/-- The fields that a descriptor fixes: every cause of FORMAT but those read from the window (R193). -/
def mxFieldsOk (op : Nat) (raw : List Byte) : Bool :=
  let d := mxDesc op raw
  d.stride % 16 == 0 &&
  if op = 0 then decide (d.fmt ≤ 4) && d.flags % 128 == 0 && sliceNat raw 14 2 == 0
  else
    decide (1 ≤ d.rows ∧ d.rows ≤ 512 ∧ d.acc0 + d.rows ≤ 512) && d.flags / 2 % 64 == 0 && sliceNat raw 18 2 == 0 &&
    sliceNat raw 28 4 == 0 &&
    (if op = 4 then decide (d.fmt ≤ 5) && d.tab == 0 && d.meta' == 0
     else decide (d.fmt ≤ 4 ∨ d.fmt = 255) && (op == 3 || d.meta' == 0))

/-- n bytes of a window of lm bytes, or none where they lie outside. -/
def winBytes (win : List Host.Cell) (lm off n : Nat) : Option (List Byte) :=
  if off + n ≤ lm then some (memBytes win off n) else none

/-- A row's elements, or none for a FAULT. -/
def readRow (win : List Host.Cell) (lm : Nat) (d : MxDesc) (fmt : Nat) (sparse : Bool) (r : Nat) : Option (List Word) := do
  let half := if sparse then 2 else 1
  let es ← winBytes win lm (d.base + r * d.stride) (mxRowBytes fmt / half)
  let hs ← if mxIsBx fmt then winBytes win lm (d.hbase + 16 / half * r) (16 / half) else some []
  return mxRow fmt (128 / half) es hs

/-- The place of stored element j (R192). -/
def sparseIndex (m : Nat) (j : Nat) : Nat := 4 * (j / 2) + m / 4 ^ j % 4

/-- The two stored elements of a group, whose metadata are the four bits m, have one index. -/
def sparseClash (m : Nat) : Bool := m % 4 == m / 4

def expandRow (m : Nat) (vals : List Word) : List Word :=
  (List.range 128).map fun i =>
    match (List.range 64).find? fun j => sparseIndex m j == i with
    | some j => (vals[j]?).getD 0
    | none => 0

/-- A byte of FMTTAB that lies in the window is no format code: FORMAT, wherever the rest of the table lies (R193, R313). -/
def formatBad (win : List Host.Cell) (lm : Nat) (d : MxDesc) : Bool :=
  d.fmt == 255 && (List.range d.rows).any fun r => (winBytes win lm (d.tab + r) 1).elim false fun bs => bs.any fun f => decide (4 < f.toNat)

/-- The formats of a pass's rows: its own, or those of FMTTAB; none where they lie outside the window. -/
def rowFormats (win : List Host.Cell) (lm : Nat) (d : MxDesc) : Option (List Nat) :=
  if d.fmt = 255 then (winBytes win lm d.tab d.rows).map fun bs => bs.map (·.toNat) else some (List.replicate d.rows d.fmt)

/-- The metadata of each row of MXSPR. -/
def rowMetas (win : List Host.Cell) (lm : Nat) (d : MxDesc) : List (Option Nat) :=
  (List.range d.rows).map fun r => (winBytes win lm (d.meta' + 16 * r) 16).map bytesToNat

/-- A byte of META that lies in the window, two groups, has a clash: FORMAT, wherever the rest of its row lies (R193). -/
def metaBad (win : List Host.Cell) (lm : Nat) (d : MxDesc) : Bool :=
  (List.range (16 * d.rows)).any fun i => (winBytes win lm (d.meta' + i) 1).elim false fun bs =>
    bs.any fun m => sparseClash (m.toNat % 16) || sparseClash (m.toNat / 16)

/-- What an operation ends with, decided before it has an effect: 0, FORMAT 3 or FAULT 4; FORMAT goes first (R193).  A base
that must be a multiple of 16 is that of the element and, for BX, of the header plane; the spec does not say whether META
and FMTTAB count (DESIGN CHOICE, log 57). -/
def passCheck (op : Nat) (win : List Host.Cell) (lm : Nat) (raw : List Byte) : Nat :=
  let d := mxDesc op raw
  let fmts := rowFormats win lm d
  let metas := if op = 3 then rowMetas win lm d else []
  if !mxFieldsOk op raw || formatBad win lm d || (op == 3 && metaBad win lm d) then 3
  else
    match fmts with
    | none => 4
    | some l =>
      if d.base % 16 ≠ 0 ∨ (l.any mxIsBx ∧ d.hbase % 16 ≠ 0) ∨ metas.any Option.isNone then 4
      else if (l.mapIdx fun r f => (readRow win lm d f (op == 3) r).isNone).any id then 4
      else 0

/-- The activation rows of a pass, in dense form (R192). -/
def passActs (op : Nat) (win : List Host.Cell) (lm : Nat) (raw : List Byte) : List (List Word) :=
  let d := mxDesc op raw
  ((rowFormats win lm d).getD []).mapIdx fun r f =>
    let vals := (readRow win lm d f (op == 3) r).getD []
    if op = 3 then expandRow (((winBytes win lm (d.meta' + 16 * r) 16).map bytesToNat).getD 0) vals else vals

/-- The accumulator rows a pass would commit, from its operands as it has read them (R192, R315). -/
def passRows (op : Nat) (win : List Host.Cell) (lm : Nat) (raw : List Byte) (e : EngineCtx) : List (Nat × List Word) :=
  let d := mxDesc op raw
  (passActs op win lm raw).mapIdx fun r acts =>
    (d.acc0 + r, passRow e.active acts (if d.clr then zeroRow else rowOf e.acc (d.acc0 + r)))

/-- A run passes when A[row] = B[row] for every row (R314). -/
def residuesMatch (op : Nat) (win : List Host.Cell) (lm : Nat) (raw : List Byte) (e : EngineCtx) : Bool :=
  (passActs op win lm raw).all fun acts => rowResidue e.active acts == termResidue e.active acts

/-- What the operation reads holds an uncorrectable soft error: the active plane of a pass, an accumulator row of a pass
without CLR or of a drain (R315). -/
def readsBad (op : Nat) (raw : List Byte) (e : EngineCtx) : Bool :=
  let d := mxDesc op raw
  let rows := e.badAcc.any fun r => decide (d.acc0 ≤ r ∧ r < d.acc0 + d.rows)
  if op = 4 then rows else (op == 2 || op == 3) && (e.active.bad || (!d.clr && rows))

/-- MXLDS's plane, or none for a FAULT. -/
def loadPlane (win : List Host.Cell) (lm : Nat) (raw : List Byte) : Option Plane :=
  let d := mxDesc 0 raw
  if d.base % 16 ≠ 0 ∨ (mxIsBx d.fmt ∧ d.hbase % 16 ≠ 0) then none
  else
    ((List.range 128).mapM fun k => readRow win lm d d.fmt false k).map fun rows =>
      ⟨d.fmt, (rows.mapIdx fun k r => (k, r)).filter (fun e => !(e.2.all (· == 0))), false⟩

/-- A drained row: its element bytes and its header bytes (R192). -/
def drainRow (fmt : Nat) (r : List Word) : List Byte × List Byte :=
  match fmt with
  | 0 => (r.flatMap fun v => natToBytes 2 (fpCvt fp32 bf16 {} v.toNat).1, [])
  | 1 => (r.flatMap fun v => natToBytes 2 (fpCvt fp32 fp16 {} v.toNat).1, [])
  | 2 | 3 | 4 =>
    let k := bxK (mxBx fmt)
    let blks := (List.range 8).map fun b => bxQuantise k (((r.drop (16 * b)).take 16).map some)
    (blks.flatMap fun b => natToBytes (2 * (k + 1)) (bxPack k (b.codes.map fun c => c.map (·.1))),
     blks.flatMap fun b => natToBytes 2 b.header.toNat)
  | _ => (r.flatMap fun v => natToBytes 4 v.toNat, [])

/-- MXDRN: FORMAT, FAULT, or the bytes it stores in the window, by offset. -/
def drainCells (win : List Host.Cell) (lm : Nat) (raw : List Byte) (e : EngineCtx) : Except Nat (List (Nat × List Byte)) :=
  let d := mxDesc 4 raw
  let inside (off n : Nat) : Bool := (winBytes win lm off n).isSome
  if !mxFieldsOk 4 raw then .error 3
  else if d.base % 16 ≠ 0 ∨ (mxIsBx d.fmt ∧ d.hbase % 16 ≠ 0) then .error 4
  else if (List.range d.rows).all fun r =>
      inside (d.base + r * d.stride) (mxRowBytes d.fmt) && (!mxIsBx d.fmt || inside (d.hbase + 16 * r) 16) then
    .ok ((List.range d.rows).flatMap fun r =>
      let (es, hs) := drainRow d.fmt (rowOf e.acc (d.acc0 + r))
      (d.base + r * d.stride, es) :: (if hs.isEmpty then [] else [(d.hbase + 16 * r, hs)]))
  else .error 4

/-- Cycles of a pass (R312): each row at the rate of the wider format, plus 256. -/
def passCycles (win : List Host.Cell) (lm : Nat) (raw : List Byte) (op : Nat) (weights : Nat) : Nat :=
  let d := mxDesc op raw
  let quarters (f : Nat) : Nat := match max (4 - min 4 f) (4 - min 4 weights) with | 0 => 1 | 1 => 2 | _ => 4
  let fmts := (rowFormats win lm d).getD []
  ((fmts.map quarters).sum + 3) / 4 + 256

end Sys2Proof.Machine
end

