-- ==== Sys2Proof/Machine/Seq.lean ====
section
/-! DEFINITION. The block's sequencer and the cluster's matrix engine: SQRUN, SQST, SQSTOP, the sequencer words, grants,
runs and their completion (spec/08_isa_engines_system.md, R186 to R194; spec/16_matrix_engine.md, R306 to R317;
spec/04_opcode_map.md, R89, R90). -/

namespace Sys2Proof.Machine

/-! ### The sequencer and its streams (R187, R188) -/

def newSequencer : Sequencer where
  q := zeroRegs 32
  pc := 0
  start := 0
  st := 0
  prio := 0
  made := false
  charges := []
  wait := none
  stopping := []
  held := false

def State.modSeq (s : State) (bid : Nat) (f : Sequencer → Sequencer) : State :=
  s.modBlock bid fun b => { b with seq := f b.seq }

/-- STATE, and the PC less the start address (R188). -/
def Sequencer.state (q : Sequencer) : Word := BitVec.ofNat 32 (2 ^ 30 * q.st)
def Sequencer.offset (q : Sequencer) : Word := (q.pc - q.start).setWidth 32

/-- The stream is over: its entries are those numbered below the bound. -/
def Sequencer.close (q : Sequencer) (bound : Nat) : Sequencer :=
  { q with charges := q.charges.map fun c => (c.1, some (c.2.getD bound)) }

/-! ### The engines' reservation tables (R306, R308) -/

def State.engine (s : State) (cluster : Nat) : Engine :=
  (s.engines.find? fun e => e.cluster == cluster).getD ⟨cluster, none, [], []⟩

def State.setEngine (s : State) (e : Engine) : State :=
  let rest := s.engines.filter fun k => k.cluster != e.cluster
  { s with engines := if e.owner.isNone && e.entries.isEmpty && e.waiting.isEmpty then rest else e :: rest }

def Block.cluster (b : Block) : Nat := clusterOfCore b.core

/-- Sequencer and entries of the block go on: it runs and is not asked to stop (R317). -/
def Block.seqRuns (b : Block) : Bool := b.life == .running && b.stopFor.isNone

/-- The entries of a block, the oldest first. -/
def Engine.ofBlock (e : Engine) (bid : Nat) : List MxEntry := e.entries.filter fun m => m.bid == bid

def State.entriesOf (s : State) (b : Block) : List MxEntry := (s.engine b.cluster).ofBlock b.bid

/-- MXC falls for each stream that is over and whose operations have completed (R187). -/
def State.settleCharges (s : State) (bid : Nat) : State :=
  match s.block? bid with
  | none => s
  | some b =>
    let open' (c : Nat × Option Nat) : Bool :=
      match c.2 with
      | none => true
      | some n => (s.entriesOf b).any fun m => decide (m.id < n)
    let s := s.modSeq bid fun q => { q with charges := q.charges.filter open' }
    (b.seq.charges.filter fun c => !open' c).foldl
      (fun s c => s.modWarp bid c.1 fun w => { w with mxc := w.mxc - 1 }) s

/-- Withdraws the entries of a block that have not been granted; a request of theirs for energy is dropped (R188, R317). -/
def State.withdrawEntries (s : State) (b : Block) : State :=
  let e := s.engine b.cluster
  let mine (m : MxEntry) : Bool := m.bid == b.bid && (m.stage == .posted || m.stage == .chosen)
  let s := (e.entries.filter mine).foldl (fun s m => s.dropReq (.matrix m.id)) s
  s.setEngine { e with entries := e.entries.filter fun m => !mine m, waiting := e.waiting.filter (· != b.bid) }

/-- The oldest word of a block whose entry would be withdrawn. -/
def State.oldestPosted (s : State) (b : Block) : Option MxEntry :=
  (s.entriesOf b).find? fun m => m.stage == .posted || m.stage == .chosen

/-! ### SEQ (R90, R349) -/

/-- The record of a sequencer's stop (R348). -/
def seqRecord (s : State) (b : Block) (pc : DWord) (word : Word) : TrapRecord where
  code := TrapCode.seq.num
  sub := 0
  kind := 2
  lane := 0
  handle := (b.warps.head?).elim 0 (handleOf b)
  pc := pc
  addr := 0
  detail := 0
  lanes := 0
  gt := BitVec.ofNat 64 s.gt
  word := word
  hint := 0
  blk := BitVec.ofNat 32 (b.blk % 2 ^ 24)
  kern := kernOf s b

/-- A sequencer no longer waits for a place in the table. -/
def State.leaveTable (s : State) (b : Block) : State :=
  let e := s.engine b.cluster
  s.setEngine { e with waiting := e.waiting.filter (· != b.bid) }

/-- The sequencer stops with STATE 3, its PC on the word, and the record goes to quad 0's handler. -/
def State.seqStop (s : State) (b : Block) (pc : DWord) (word : Word) : State :=
  let s := s.leaveTable b
  let s' := s.modSeq b.bid fun q => { q.close s.nextId with st := 3, pc := pc, wait := none }
  (((s'.settleCharges b.bid).deliver b 0 (seqRecord s b pc word)).dbgEvent b.pn b.ctx b.bid 13).unhold

/-! ### SQRUN, SQST, SQSTOP (R187, R188, R307) -/

/-- The slot of the block's engine context is reached through the block's translation (R307, R386). -/
def Exec.slotFault (x : Exec) : Except Cause Unit :=
  match x.s.launch? x.b.launch with
  | none => .ok ()
  | some l =>
    if l.ecarea = 0 then .ok ()
    else
      ((List.range 96).findSome? fun i =>
        match x.s.translate (some x.b.core) x.b.pn x.b.ctx (l.ecarea.toNat + 393216 * x.b.blk + 4096 * i) .readWrite with
        | .error c => some c
        | .ok _ => none).elim (.ok ()) .error

/-- The conditions on the start descriptor, and its fields; a slot that cannot be reached is the SQRUN's fault (DESIGN
CHOICE, log 73). -/
def Exec.startDesc (x : Exec) (off : Nat) : Except Cause (DWord × Nat) :=
  if off % 16 ≠ 0 then .error { code := .memAlign, addr := BitVec.ofNat 64 off }
  else if off + 16 > x.b.lm then .error (Cause.orEarlier { code := .memPerm, addr := BitVec.ofNat 64 off } x.slotFault)
  else
    let rd := x.s.winRead x.b.bid
    let start := BitVec.ofNat 64 (rd off 8)
    let noArea := (x.s.launch? x.b.launch).elim true fun l => l.ecarea == 0
    if rd (off + 8) 1 > 3 ∨ rd (off + 9) 7 ≠ 0 ∨ start.toNat % 4 ≠ 0 ∨ start.toNat ≥ 2 ^ 60 ∨ noArea then
      .error (Cause.orEarlier { code := .seq } x.slotFault)
    else if x.s.winBad x.b.bid off 16 then .error (Cause.orEarlier { code := .ecc, addr := BitVec.ofNat 64 off } x.slotFault)
    else
      match x.slotFault with
      | .error c => .error c
      | .ok _ => .ok (start, rd (off + 8) 1)

/-- Starts the sequencer; the first start makes the block's engine context (R306). -/
def State.startSeq (s : State) (bid warp : Nat) (start : DWord) (prio : Nat) : State :=
  let s := s.modBlock bid fun b => { b with
    eng := if b.seq.made then b.eng else newEngineCtx
    seq := { b.seq with
      pc := start
      start := start
      st := 1
      prio := prio
      made := true
      charges := b.seq.charges ++ [(warp, none)]
      wait := none
      held := false } }
  s.modWarp bid warp fun w => { w with mxc := w.mxc + 1 }

def execSqrun (g : PReg) (d a : VReg) (s : State) : Result :=
  withWord s (some g) fun x =>
    x.capOnceRun [src1 a, dst1 d] (.ok ())
      (fun _ => x.ofOperand [] a fun off => match x.startDesc off.toNat with | .error k => some k | .ok _ => none) fun _ =>
        match x.startDesc (x.hiWord [] a).toNat with
        | .error k => x.trapAll k
        | .ok (start, prio) =>
          let go := x.b.seq.st != 1
          if go && decide (x.w.mxc ≥ 15) then x.hold
          else x.answer [a] d (if go then 1 else 0) fun s => if go then s.startSeq x.b.bid x.i.w start prio else s

/-- What SQST writes. -/
def Sequencer.report (q : Sequencer) : DWord := q.offset ++ q.state

def execSqst (g : PReg) (d : VReg) (s : State) : Result :=
  withWord s (some g) fun x =>
    x.capOnceRun [dst2 d] (.ok ()) (fun _ => []) fun _ =>
      x.writeAll [dst2 d] (fun _ t => .ok ⟨t.put2 d x.b.seq.report, []⟩) id

/-- STATE 2 at the word boundary; what has not been granted is withdrawn (R188).  The SQSTOP waits for what has been. -/
def State.stopSeq (s : State) (b : Block) (z : SeqStop) : State :=
  let s := s.withdrawEntries b
  let s := s.modSeq b.bid fun q =>
    { q.close s.nextId with st := 2, wait := none, stopping := { z with bound := s.nextId } :: q.stopping, held := false }
  s.settleCharges b.bid

/-- The SQSTOP in progress that the word in issue has begun. -/
def Exec.seqStop? (x : Exec) : Option SeqStop := x.b.seq.stopping.find? fun z => z.w == x.i.w && z.pc == x.i.pc

/-- SQSTOP: executed again while it is held, it waits for the operations of the stream that it stopped, and for no other. -/
def execSqstop (g : PReg) (d : VReg) (s : State) : Result :=
  withWord s (some g) fun x =>
    x.capOnceRun [dst2 d] (.ok ()) (fun _ => []) fun _ =>
      let y := if x.seqStop?.isNone ∧ x.b.seq.st = 1 then x.inState (x.s.stopSeq x.b ⟨x.i.w, x.i.pc, 0⟩) else x
      let going := y.seqStop?.elim false fun z => (y.s.entriesOf y.b).any fun m => decide (m.id < z.bound)
      if going then y.hold
      else
        y.writeAll [dst2 d] (fun _ t => .ok ⟨t.put2 d y.b.seq.report, []⟩) fun s =>
          s.modSeq y.b.bid fun q => { q with stopping := q.stopping.filter fun z => !(z.w == x.i.w && z.pc == x.i.pc) }

/-! ### The sequencer words (R190, R194) -/

/-- The sequencer that executes a word, with its block. -/
def withSeq (s : State) (k : State → Block → Result) : Result :=
  match s.seqNow with
  | none => .fault .noSequencer
  | some bid =>
    match s.block? bid with
    | none => .fault .noSequencer
    | some b => k { s with seqNow := none } b

/-- The sequencer passes its word. -/
def Sequencer.pass (q : Sequencer) : Sequencer := { q with pc := q.pc + 4, wait := none, held := false }

/-- The sequencer waits on its word. -/
def State.stallSeq (s : State) (b : Block) : State := s.modSeq b.bid fun q => { q with held := true }

/-- A sequencer that finds the table full, or others before it, waits its turn (R308). -/
def Engine.join (e : Engine) (bid : Nat) : Engine :=
  if e.waiting.contains bid then e else { e with waiting := e.waiting ++ [bid] }

/-- The sequencer whose turn it is: the first of those that wait whose block runs (R308, R317). -/
def State.firstWaiting (s : State) (e : Engine) : Option Nat :=
  e.waiting.find? fun bid => (s.block? bid).elim false Block.seqRuns

/-- The descriptor of a matrix word, aligned to its size and within the window (R190). -/
def Block.descriptor (b : Block) (op off : Nat) : Option (List Byte) :=
  let n := if op = 0 then 16 else 32
  if off % n = 0 ∧ off + n ≤ b.lm then some (memBytes b.win off n) else none

/-- Posts one operation (R190, R308). -/
def matrixWord (s : State) (op : Nat) (word : Word) (bar : Nat) (desc : Option QReg) : Result :=
  withSeq s fun s b =>
    let e := s.engine b.cluster
    if (e.ofBlock b.bid).length ≥ 4 then .next (s.stallSeq b)
    else if e.entries.length ≥ 16 ∨ (s.firstWaiting e).elim false (· != b.bid) then
      .next ((s.setEngine (e.join b.bid)).stallSeq b)
    else
      match (match desc with | none => some [] | some q => b.descriptor op (b.seq.q[q.toNat]).toNat) with
      | none => .next (s.seqStop b b.seq.pc word)
      | some raw =>
        let m : MxEntry := { id := s.nextId, bid := b.bid, op := op, bar := bar, pc := b.seq.pc, word := word, raw := raw,
                             gt := s.gt, skip := 0, cost := 0, stage := .posted }
        let s := s.setEngine { e with entries := e.entries ++ [m], waiting := e.waiting.filter (· != b.bid) }
        .next (s.modSeq b.bid Sequencer.pass).bump.unhold

/-- The word of a matrix operation with a barrier (R89). -/
def mxWord (op : Nat) (q : QReg) (b : BarNo) : Word := BitVec.ofNat 32 (2 ^ 27 * op + 2 ^ 22 * q.toNat + 2 ^ 18 * b.toNat)

def execMxlds (q : QReg) (b : BarNo) (s : State) : Result := matrixWord s 0 (mxWord 0 q b) b.toNat (some q)
def execMxstr (q : QReg) (b : BarNo) (s : State) : Result := matrixWord s 2 (mxWord 2 q b) b.toNat (some q)
def execMxspr (q : QReg) (b : BarNo) (s : State) : Result := matrixWord s 3 (mxWord 3 q b) b.toNat (some q)
def execMxdrn (q : QReg) (b : BarNo) (s : State) : Result := matrixWord s 4 (mxWord 4 q b) b.toNat (some q)
def execMxswp (s : State) : Result := matrixWord s 1 0x08000000 0 none
def execMxz (s : State) : Result := matrixWord s 5 0x28000000 0 none

/-- A word that waits until every operation posted before it has completed (R190). -/
def waitingWord (s : State) (k : State → Block → Result) : Result :=
  withSeq s fun s b => if (s.entriesOf b).isEmpty then k (s.leaveTable b) b else .next ((s.leaveTable b).stallSeq b)

/-- A word that only updates the sequencer. -/
def plainSeqWord (s : State) (f : Sequencer → Sequencer) : Result :=
  withSeq s fun s b => .next ((s.leaveTable b).modSeq b.bid f)

/-- Barrier n of the sequencer's block. -/
def Block.bar (b : Block) (n : BarNo) : BarRef := .block b.launch b.blk n.toNat

def execMxck (n : BarNo) (d : QReg) (s : State) : Result :=
  waitingWord s fun s b =>
    .next (s.modSeq b.bid fun q => { q.pass with q := q.q.set d.toNat (s.barOf (b.bar n)).status })

def execQmovi (d : QReg) (i : BitVec 22) (s : State) : Result :=
  plainSeqWord s fun q => { q.pass with q := q.q.set d.toNat (i.signExtend 32) }

def execQadd (d a : QReg) (i : BitVec 17) (s : State) : Result :=
  plainSeqWord s fun q => { q.pass with q := q.q.set d.toNat (q.q[a.toNat] + i.signExtend 32) }

def execQloop (c : QReg) (o : BitVec 22) (s : State) : Result :=
  plainSeqWord s fun q =>
    let v := q.q[c.toNat] - 1
    { q.pass with q := q.q.set c.toNat v, pc := if v = 0 then q.pc + 4 else q.pc + BitVec.ofInt 64 (4 * o.toInt) }

/-- The word of QBAR or QWAIT. -/
def barSeqWord (op : Nat) (n : BarNo) : Word := BitVec.ofNat 32 (2 ^ 27 * op + 2 ^ 23 * n.toNat)

def execQbar (n : BarNo) (s : State) : Result :=
  waitingWord s fun s b =>
    match s.arrive (b.bar n) 1 with
    | none => .next ((s.overrun (b.bar n)).seqStop b b.seq.pc (barSeqWord 10 n))
    | some s => .next (s.modSeq b.bid Sequencer.pass)

def execQwait (n : BarNo) (s : State) : Result :=
  waitingWord s fun s b =>
    let r := b.bar n
    match b.seq.wait with
    | some (_, p) => .next (if (s.barOf r).phase = p then s.stallSeq b else s.modSeq b.bid Sequencer.pass)
    | none =>
      let p := (s.barOf r).phase
      match s.arrive r 1 with
      | none => .next ((s.overrun r).seqStop b b.seq.pc (barSeqWord 11 n))
      | some s =>
        .next (if (s.barOf r).phase = p then
            s.modSeq b.bid fun q => { q with wait := some (n.toNat, p), held := true }
          else s.modSeq b.bid Sequencer.pass)

/-- QEND: STATE 0 once the posted operations have completed; the PC stays. -/
def execQend (s : State) : Result :=
  waitingWord s fun s b =>
    .next ((s.modSeq b.bid fun q => { q.close s.nextId with st := 0, wait := none }).settleCharges b.bid).unhold

/-- An unallocated or malformed word stops the sequencer.  No matrix state changes and no arrival is made but by what has
been granted: what was only posted is withdrawn (R90; log 38). -/
def execSeqWordUnallocated (w : Word) (s : State) : Result :=
  withSeq s fun s b => .next ((s.withdrawEntries b).seqStop b b.seq.pc w)

/-- A fetch fault on the stream stops it too (R194). -/
def State.seqFetchFault (s : State) (b : Block) : State := s.seqStop b b.seq.pc 0

/-! ### Candidates and grants (R309 to R312, R317) -/

def MxEntry.isPass (m : MxEntry) : Bool := m.op == 2 || m.op == 3

/-- R309, of the owner's operations: an MXLDS may begin beside its pass; every other operation begins alone. -/
def Engine.mayBegin (e : Engine) (m : MxEntry) : Bool :=
  let busy := e.entries.filter MxEntry.busy
  busy.isEmpty || (m.op == 0 && e.owner == some m.bid && busy.all fun k => k.isPass && k.bid == m.bid)

/-- The candidates: the oldest entry of its block that has not been granted, where R309 lets it begin beside what its own
block has in progress; the entries of another block are candidates too while the engine works (R310). -/
def State.candidates (s : State) (e : Engine) : List MxEntry :=
  e.entries.filter fun m =>
    m.stage == .posted && (e.owner != some m.bid || e.mayBegin m) &&
    ((e.ofBlock m.bid).find? fun k => !k.busy).elim false (fun k => k.id == m.id) &&
    (s.block? m.bid).elim false Block.seqRuns

/-- The choice of R310. -/
def State.chooseEntry (s : State) (e : Engine) : Option MxEntry :=
  let cs := s.candidates e
  let prio (m : MxEntry) : Nat := (s.block? m.bid).elim 0 (·.seq.prio)
  match cs.filter fun m => decide (m.skip ≥ 16) with
  | [] => leastBy (fun m => (3 - prio m, if e.owner = some m.bid then 0 else 1)) cs
  | late => leastBy (fun m => (2 ^ 32 - m.skip, 0)) late

def Engine.modEntry (e : Engine) (id : Nat) (f : MxEntry → MxEntry) : Engine :=
  { e with entries := e.entries.map fun m => if m.id == id then f m else m }

/-- What a grant reserves (R404).  A descriptor of a pass or a drain that breaks its fields' rules gives no rows to
reserve for: its operation ends with FORMAT at no cost (DESIGN CHOICE, log 58). -/
def mxCost (b : Block) (m : MxEntry) : Nat :=
  if 2 ≤ m.op ∧ m.op ≤ 4 ∧ !mxFieldsOk m.op m.raw then 0
  else
    match m.op with
    | 0 => 154
    | 2 | 3 => (6 * passCycles b.win b.lm m.raw m.op b.eng.active.fmt + 4) / 5
    | 4 => 2 * (mxDesc 4 m.raw).rows
    | _ => 0

/-- An operation begins to read its operands: the window as it is now (R190, R212, R315). -/
def beginStage (b : Block) (m : MxEntry) : MxStage := if m.isPass then .run false b.win else .working b.win

/-- Begins an entry: the skip counts of the other blocks' candidates rise, and its block becomes the owner (R306, R307,
R310). -/
def State.beginEntry (s : State) (b : Block) (m : MxEntry) : State :=
  let e := s.engine b.cluster
  let others := (s.candidates e).filter fun k => k.bid != m.bid
  s.setEngine { e with
    owner := some b.bid
    entries := e.entries.map fun k =>
      if k.id == m.id then { k with stage := beginStage b k, cost := mxCost b k }
      else if (others.any fun o => o.id == k.id) then { k with skip := k.skip + 1 } else k }

/-- MATRIX_GRANT: chooses an entry, which begins where the engine is free for it; one that costs energy waits for it, and
no other is granted meanwhile (R310, R311). -/
def execMatrixGrant (cluster : Nat) (s : State) : Result :=
  let e := s.engine cluster
  if e.entries.any fun m => m.stage == .chosen then .next s
  else
    match s.chooseEntry e with
    | none => .next s
    | some m =>
      match s.block? m.bid with
      | none => .next s
      | some b =>
        if !e.mayBegin m then .next s
        else if mxCost b m = 0 then .next (s.beginEntry b m)
        else
          .next ((s.setEngine (e.modEntry m.id fun k => { k with stage := .chosen })).askEnergy cluster (.matrix m.id)
            (mxCost b m))

/-! ### Operands that are stored to meanwhile (R212) -/

/-- The granules in which two contents of a window differ. -/
def changedGranules (old new : List Host.Cell) : List Nat :=
  (((old ++ new).map fun c => c.1 / 16).eraseDups).filter fun g => memBytes old (16 * g) 16 != memBytes new (16 * g) 16

/-- The window as an operation has read it, once more of it has been read: each granule changed since stays as it was, or
is read anew. -/
def State.mixWin (s : State) (old new : List Host.Cell) : List Host.Cell × State :=
  (changedGranules old new).foldl (fun (w, s) g =>
    let (k, s) := s.drawPick 2
    (if k = 0 then w else memWriteAll w ((memBytes new (16 * g) 16).mapIdx fun i v => (16 * g + i, v)), s)) (old, s)

/-- The window an operation in progress has read, if any. -/
def MxEntry.win? (m : MxEntry) : Option (List Host.Cell) :=
  match m.stage with
  | .working w | .run _ w => some w
  | _ => none

def MxEntry.setWin (m : MxEntry) (w : List Host.Cell) : MxEntry :=
  { m with stage := match m.stage with | .working _ => .working w | .run a _ => .run a w | k => k }

/-- An operation in progress reads on: each granule stored to meanwhile in its old or its new content (R212). -/
def State.readOn (s : State) (cluster id : Nat) : State :=
  let e := s.engine cluster
  match e.entries.find? fun m => m.id == id with
  | none => s
  | some m =>
    match m.win?, s.block? m.bid with
    | some w, some b =>
      let (w, s) := s.mixWin w b.win
      s.setEngine (e.modEntry id fun k => k.setWin w)
    | _, _ => s

/-! ### Completion (R190, R193, R315) -/

/-- Writes the outcome into the barrier's status and makes the arrival, unless NA is set; frees the entry (R172, R190). -/
def State.endEntry (s : State) (b : Block) (m : MxEntry) (out : Nat) : State :=
  let e := s.engine b.cluster
  let s := s.setEngine { e with entries := e.entries.filter fun k => k.id != m.id }
  let r := BarRef.block b.launch b.blk m.bar
  let s :=
    if m.op = 1 ∨ m.op = 5 ∨ (mxDesc m.op m.raw).na then s
    else
      let s := s.setBar r { s.barOf r with mxst := out }
      match s.arrive r 1 with
      | some s => s
      | none => (s.overrun r).seqStop b m.pc m.word
  (s.settleCharges b.bid).unhold

def State.modEng (s : State) (bid : Nat) (f : EngineCtx → EngineCtx) : State :=
  s.modBlock bid fun b => { b with eng := f b.eng }

/-- Rows of a pass are committed to the accumulators. -/
def EngineCtx.commit (c : EngineCtx) (rows : List (Nat × List Word)) : EngineCtx :=
  { c with
    acc := rows.foldl (fun acc r => setRow acc r.1 r.2) c.acc
    badAcc := c.badAcc.filter fun k => !(rows.any fun r => r.1 == k) }

/-- 128 free words. -/
def State.drawRow (s : State) : List Word × State :=
  ((List.range 128).map fun i => (Config.freeBits (s.free + i)).setWidth 32, { s with free := s.free + 128 })

/-- Rows that are not to be trusted: free values (R193, R315; log 15). -/
def State.drawRows (s : State) : List (Nat × List Word) → List (Nat × List Word) × State
  | [] => ([], s)
  | (k, _) :: rest =>
    let (r, s) := s.drawRow
    let (rs, s) := s.drawRows rest
    ((k, r) :: rs, s)

/-- A rerun draws its cost without a reservation (R311, R405). -/
def State.drawRerun (s : State) (cluster cost : Nat) : State :=
  let c := s.railCost cluster cost
  (s.setBalance cluster (s.balance cluster - c)).addTele (s.pcluOf cluster) 1 c

/-- The fault-log entry of an uncorrectable soft error that an operation has read (R315, R350). -/
def State.logMatrix (s : State) (b : Block) (m : MxEntry) : State :=
  s.flog b.pn b.ctx
    { code := 0x14, sub := 0, source := 3, obj := ((b.warps.head?).elim 0 (handleOf b)).setWidth 64, addr := m.pc }

/-- MATRIX_RUN_COMPLETE: the run of a pass is over.  The run fails where an upset from outside has made the array's sums
differ from the residue unit's, or where it has read an uncorrectable soft error; the rerun is made in either case, with
its operands read again (R314, R315). -/
def execMatrixRunComplete (cluster : Nat) (residueOk : Bool) (s : State) : Result :=
  let e := s.engine cluster
  match e.entries.find? fun m => (match m.stage with | .run _ _ => true | _ => false) with
  | none => .next s
  | some m =>
    match m.stage, s.block? m.bid with
    | .run again win, some b =>
      let (win, s) := s.mixWin win b.win
      match passCheck m.op win b.lm m.raw with
      | 0 =>
        let rows := passRows m.op win b.lm m.raw b.eng
        if residueOk && residuesMatch m.op win b.lm m.raw b.eng && !readsBad m.op m.raw b.eng then
          .next ((s.modEng b.bid fun c => c.commit rows).endEntry b m (if again then 1 else 0))
        else if again then
          let s := if readsBad m.op m.raw b.eng then s.logMatrix b m else s
          let (rows, s) := s.drawRows rows
          .next ((s.modEng b.bid fun c => c.commit rows).endEntry b m 2)
        else
          .next ((s.setEngine (e.modEntry m.id fun k => { k with stage := .run true b.win })).drawRerun cluster m.cost)
      | out => .next (s.endEntry b m out)
    | _, _ => .next s

/-- The outcome and the effect of an operation that is no pass, from the window as it has read it (R192, R193). -/
def State.performOp (s : State) (b : Block) (m : MxEntry) (win : List Host.Cell) : Nat × State :=
  match m.op with
  | 0 =>
    if !mxFieldsOk 0 m.raw then (3, s)
    else
      match loadPlane win b.lm m.raw with
      | none => (4, s)
      | some p => (0, s.modEng b.bid fun c => { c with shadow := p })
  | 1 => (0, s.modEng b.bid fun c => { c with active := c.shadow, shadow := c.active })
  | 5 => (0, s.modEng b.bid fun c => { c with acc := [], badAcc := [] })
  | 4 =>
    match drainCells b.win b.lm m.raw b.eng with
    | .error k => (k, s)
    | .ok rows =>
      if readsBad 4 m.raw b.eng then (4, s.logMatrix b m) else
      let d := mxDesc 4 m.raw
      let s := rows.foldl (fun s r => s.winWrite b.bid (r.2.mapIdx fun i v => (r.1 + i, v))) s
      let full := rows.flatMap fun r => (List.range (r.2.length / 16)).map (r.1 / 16 + ·)
      let s := full.foldl (fun s g => s.setFull b.bid g) s
      (0, if d.clr then (s.modEng b.bid fun c => c.commit ((List.range d.rows).map fun r => (d.acc0 + r, zeroRow))) else s)
  | _ => (0, s)

/-- MATRIX_OPERATION_COMPLETE: an operation that makes no residue check is over (R190, R193). -/
def execMatrixOperationComplete (cluster : Nat) (s : State) : Result :=
  match (s.engine cluster).entries.find? fun m => (match m.stage with | .working _ => true | _ => false) with
  | none => .next s
  | some m =>
    match m.stage, s.block? m.bid with
    | .working win, some b =>
      let (win, s) := s.mixWin win b.win
      let (out, s) := s.performOp b m win
      .next (s.endEntry b m out)
    | _, _ => .next s

/-! ### Energy for what waits (R405) -/

/-- What a granted request lets go on.  A pass whose block has been halted meanwhile is not granted (R317). -/
def State.energyGranted (s : State) (r : EnergyReq) : State :=
  match r.use with
  | .copy id => s.modCmd id fun c => { c with paid := c.paid + 4096 }
  | .vector core quad => s.setBurst core quad 64
  | .matrix id =>
    match (s.engine r.cluster).entries.find? fun m => m.id == id with
    | none => s
    | some m => (s.block? m.bid).elim s fun b => s.beginEntry b m

def State.wantsEnergy (s : State) (r : EnergyReq) : Bool :=
  match r.use with
  | .matrix id =>
    (((s.engine r.cluster).entries.find? fun m => m.id == id).bind fun m => s.block? m.bid).elim false Block.seqRuns
  | _ => true

/-- A request given up: its entry is posted as before. -/
def State.giveUp (s : State) (r : EnergyReq) : State :=
  let s := s.dropReq r.use
  match r.use with
  | .matrix id => s.setEngine ((s.engine r.cluster).modEntry id fun m => { m with stage := .posted })
  | _ => s

/-- TOKEN_GRANT: the oldest request of the cluster is granted once the balance covers it. -/
def execTokenGrant (cluster : Nat) (s : State) : Result :=
  match s.oldestReq cluster with
  | none => .next s
  | some r =>
    if !s.wantsEnergy r then .next (s.giveUp r).unhold
    else if s.reqReady cluster then
      .next (((s.payEnergy cluster r.cost (s.gt - r.gt)).dropReq r.use).energyGranted r).unhold
    else .next s

end Sys2Proof.Machine
end

