-- ==== Sys2Proof/Machine/Task.lean ====
section
/-! DEFINITION. Task cards: CARD, DEAL, REORD, the way from a slice to a task block, the reorder units
(spec/08_isa_engines_system.md, R182 to R185; spec/11_divergence_cuckoo.md, R239 to R243; spec/14_continuations.md,
R274 to R287). -/

namespace Sys2Proof.Machine

/-! ### Launches of task blocks (R277, R278, R334) -/

/-- The number is not that of a live launch of the context. -/
def State.kernFree (s : State) (pn ctx n : Nat) : Bool :=
  !(s.launches.any fun l => l.pn == pn && l.ctx == ctx && l.live && l.kern.toNat == n)

/-- A launch number of the device's choosing: bit 31 set, and no live launch of the context has it (R334). -/
def State.freshKern (s : State) (pn ctx : Nat) : Word × State :=
  let (r, s) := s.drawBits
  let num (i : Nat) : Nat := 2 ^ 31 + (r.toNat + i) % 2 ^ 31
  (BitVec.ofNat 32 (((List.range (s.launches.length + 1)).map num).find? (s.kernFree pn ctx) |>.getD (num 0)), s)

/-- v0 to v3 of a card's task block: the array or the ring, then the data area (R277). -/
def cardArgs (k : Card) (array : DWord) : List Word :=
  let data := k.va + k.doff
  [array.setWidth 32, array.extractLsb' 32 32, data.setWidth 32, data.extractLsb' 32 32]

/-- The last launch of the context, from a packet, of the kernel that a card's task blocks run.  A card names no tables, and
R276 gives its blocks those of the kernel with its entry: the model takes them from that launch, and none where there has
been none (DESIGN CHOICE, log 62). -/
def State.kernelOf (s : State) (k : Card) : Option Launch :=
  (s.launches.filter fun l => l.pn == k.pn && l.ctx == k.ctx && l.entry == k.entry && l.card.isNone).getLast?

/-- Adds a launch of a card's task blocks, known and ready at once (R277, R278). -/
def State.taskLaunch (s : State) (k : Card) (kern : Word) (nblk : Nat) (args : List Word) : State × Nat :=
  let own := s.kernelOf k
  let l : Launch :=
    { lid := s.nextId, pn := k.pn, ctx := k.ctx, die := (s.diesOf k.pn).headD 0, queue := 64, packetAddr := 0
      guarded := false, entry := k.entry, start := 0, args := args, unif := []
      lmtab := own.elim 0 (·.lmtab), sptab := own.elim 0 (·.sptab), ordbase := 0
      ecarea := 0, done := 0, nblk := nblk, spcount := own.elim 0 (·.spcount), groups := [], core0 := 0, ncore := 0, localKb := k.localKb
      cls := k.cls, warps := k.warps, regs8 := k.regs8, flags := 0, prodg := 0, prodw := 0, feedg := 0, ordsz := 0
      kern := kern, bartab := [], fault := none, state := .ready, order := s.nextId, readyGt := s.gt, endGt := 0, late := []
      retiredBlks := [], ords := [], card := some k.gen, wct := 0 }
  ({ s with launches := s.launches ++ [l], nextId := s.nextId + 1 }, s.nextId)

/-- One more block of a launch, in a class and with what a reorder bin gives it. -/
def State.addLate (s : State) (lid cls : Nat) (bin : Option BinStart) : State :=
  (s.modLaunch lid fun l => { l with
    nblk := l.nblk + 1, late := l.late ++ [{ blk := l.nblk, cls := cls, order := s.nextId, bin := bin }] }).bump

/-- A batch is in progress while a task block of it has not retired (R183). -/
def State.batchOn (s : State) (k : Card) : Bool :=
  match k.launch with
  | some lid => (s.launch? lid).elim false fun l =>
      l.live && (List.range l.nblk).any fun b => !s.blkRetired l b
  | none => false

/-! ### CARD (R183, R278) -/

/-- The card a checked capability names; every CARD entry names a bound card (R275). -/
def Exec.cardOf (_x : Exec) (e : CapEntry) : Option Card := _x.s.card? e.card

/-- A batch descriptor: ABASE, COUNT, BLOCKS. -/
structure Batch where
  abase : DWord
  count : Nat
  blocks : Nat

def Exec.readBatch (x : Exec) (off : Nat) : Except Cause Batch :=
  if off % 16 ≠ 0 then .error { code := .memAlign, addr := BitVec.ofNat 64 off }
  else if off / 2 ^ 20 % 2 = 1 ∨ off + 16 > x.b.lm then .error { code := .memPerm, addr := BitVec.ofNat 64 off }
  else
    let rd := x.s.winRead x.b.bid
    if rd (off + 8) 4 = 0 ∨ rd (off + 12) 2 = 0 ∨ rd (off + 14) 2 ≠ 0 then .error { code := .illegal, sub := 1 }
    else if x.s.winBad x.b.bid off 16 then .error { code := .ecc, addr := BitVec.ofNat 64 off }
    else .ok ⟨BitVec.ofNat 64 (rd off 8), rd (off + 8) 4, rd (off + 12) 2⟩

/-- Installs a batch on a card: its task blocks are launched at once. -/
def State.installBatch (s : State) (k : Card) (b : Batch) : State :=
  let (kern, s) := s.freshKern k.pn k.ctx
  let (s, lid) := s.taskLaunch k kern b.blocks (cardArgs k b.abase)
  s.modCard k.gen fun c => { c with launch := some lid, total := b.count, dealt := 0 }

def execCard (g : PReg) (d a : VReg) (c : Cap) (s : State) : Result :=
  withWord s (some g) fun x =>
    x.capOnceRun [src1 a, dst1 d] (x.cap c [capCard] noObject (permAll permLaunch))
      (fun _ => x.ofOperand [] a fun off => match x.readBatch off.toNat with | .error k => some k | .ok _ => none)
      fun (e, _) =>
        match x.readBatch (x.hiWord [] a).toNat with
        | .error k => x.trapAll k
        | .ok b =>
          let k := x.cardOf e
          let ok := k.elim false fun k => !k.ring && !x.s.batchOn k
          x.answer [a] d (if ok then 1 else 0) fun s => if ok then k.elim s fun k => s.installBatch k b else s

/-! ### DEAL (R184, R279) -/

/-- Records of a ring that are ready: not dealt, and GT has reached the ready time of each up to it (R283). -/
def Card.readyCount (k : Card) (gt : Nat) : Nat :=
  ((k.ready.drop (k.dealt - k.readyFrom)).takeWhile fun t => decide (t ≤ gt)).length

/-- The records a DEAL counts. -/
def State.remaining (s : State) (k : Card) : Nat :=
  if k.ring then k.readyCount s.gt else if s.batchOn k then k.total - k.dealt else 0

/-- The chunk rule of R184. -/
def Card.chunkSize (k : Card) (remaining : Nat) : Nat := min (max k.minChunk (remaining / k.divisor)) remaining

/-- Releases the leading chunks that no block holds: room opens across the oldest chunks (R282). -/
def releaseFront : List Chunk → Nat → List Chunk × Nat
  | [], n => ([], n)
  | c :: rest, n => if c.holder.isNone then releaseFront rest (n + c.count) else (c :: rest, n)

/-- The block gives up the chunk it holds of a card. -/
def Card.release (k : Card) (bid : Nat) : Card :=
  let (cs, n) := releaseFront
    (k.chunks.map fun c => if c.holder = some bid then { c with holder := none } else c) k.released
  { k with chunks := cs, released := n }

/-- Takes the next chunk for a block, then releases the block's last one (R279). -/
def Card.deal (k : Card) (bid n : Nat) (own : Option Nat) : Card :=
  if k.ring then
    let k := k.release bid
    { k with
      dealt := k.dealt + n
      ready := k.ready.drop (k.dealt + n - k.readyFrom)
      readyFrom := k.dealt + n
      chunks := k.chunks ++ (if n = 0 then [] else [{ first := k.dealt, count := n, holder := some bid }])
      live := k.live.map fun e => if own = some e.1 then (e.1, true) else e }
  else { k with dealt := k.dealt + n }

/-- The index of the block among the card's task blocks, if it is one. -/
def Block.taskOf (b : Block) (k : Card) : Option Nat :=
  if b.card = some k.gen ∧ k.launch = some b.launch then some b.blk else none

def execDeal (g : PReg) (d : VReg) (c : Cap) (s : State) : Result :=
  withWord s (some g) fun x =>
    let uses := [dst2 d]
    x.capOnceRun uses (x.cap c [capCard] noObject (permAll permRecv)) (fun _ => []) fun (e, _) =>
      match x.cardOf e with
      | none => x.writeAll uses (fun _ t => .ok ⟨t.put2 d 0, []⟩) id
      | some k =>
        let n := k.chunkSize (x.s.remaining k)
        x.writeAll uses (fun _ t => .ok ⟨t.put2 d (BitVec.ofNat 32 n ++ BitVec.ofNat 32 k.dealt), []⟩)
          fun s => (s.modCard k.gen fun k => k.deal x.b.bid n (x.b.taskOf k)).unhold

/-! ### REORD and the reorder units (R185, R239 to R243) -/

/-- The bin's context is switched out of its cluster, and the bin with it (R243). -/
def State.binOut (s : State) (b : Bin) : Bool :=
  s.outOf ((List.range 4).map (4 * b.cluster + ·)) b.card.pn b.card.ctx

/-- Deposits in the unit of a logical cluster. -/
def State.deposits (s : State) (cluster : Nat) : Nat :=
  ((s.bins.filter fun b => b.cluster == cluster && !s.binOut b).map fun b => b.deps.length).sum

/-- The bin stays where it is: its die is held, its cluster moves, or its context may not run or is switched out of it
(R243, R322, R393). -/
def State.binStays (s : State) (b : Bin) : Bool :=
  s.dieHeld (b.cluster / 32) || s.moveOf (4 * b.cluster) || !s.ctxRuns b.card.pn b.card.ctx || s.binOut b

/-- The bin that a deposit goes to: that of its card, key and launch which is not full, and whose age trigger has not taken
effect (R239, R240). -/
def State.binTakes (s : State) (cluster : Nat) (k : Card) (lid : Nat) (key : Word) (b : Bin) : Bool :=
  b.cluster == cluster && b.card.gen == k.gen && b.launch == lid && b.key == key && decide (b.deps.length < 32) &&
    (decide (s.gt < b.first + 10000) || s.binStays b)

/-- The pending block a departing bin becomes (R241): one more block of a ring's launch or of the batch in progress, else a
launch of its own; where the card has lost its binding, with the card as it was at the first deposit (log 31). -/
def State.departBin (s : State) (b : Bin) : State :=
  let s : State := { s with bins := s.bins.filter fun e => e.id != b.id }
  let st : BinStart :=
    { cluster := b.cluster, key := b.key, payloads := b.deps.map (·.1), start := (b.deps.map (·.2)).foldl max 0 }
  let k := (s.card? b.card.gen).getD b.card
  match if (s.card? b.card.gen).isSome ∧ (k.ring ∨ s.batchOn k) then k.launch else none with
  | some lid =>
    let n := (s.launch? lid).elim 0 (·.nblk)
    let s := s.addLate lid k.cls (some st)
    if k.ring then s.modCard k.gen fun k => { k with live := k.live ++ [(n, false)] } else s
  | none =>
    let (kern, s) := s.freshKern k.pn k.ctx
    let (s, lid) := s.taskLaunch k kern 0 []
    s.addLate lid k.cls (some st)

/-- One deposit, into its bin or a new one; the one that makes 32 departs the bin at once, unless the bin has to stay
(R239, R322, R393). -/
def State.deposit (s : State) (cluster : Nat) (k : Card) (lid : Nat) (key : Word) (payload : DWord) (carried : Nat) :
    State :=
  match s.bins.find? (s.binTakes cluster k lid key) with
  | some b =>
    let b' : Bin := { b with deps := b.deps ++ [(payload, carried)] }
    if b'.deps.length = 32 ∧ !s.binStays b then s.departBin b'
    else { s with bins := s.bins.map fun e => if e.id == b.id then b' else e }
  | none =>
    State.bump { s with bins := s.bins ++
      [{ id := s.nextId, cluster := cluster, card := k, launch := lid, key := key, first := s.gt
         deps := [(payload, carried)] }] }

/-- REORD: each active thread deposits its key and payload, ascending, and ends as by EXIT, once no load has still to push to
a bound port of it (R118, R185). -/
def execReord (g : PReg) (a : VReg) (c : Cap) (s : State) : Result :=
  withWord s (some g) fun x =>
    x.capRun [src4 a] (x.cap c [capCard] noObject (permAll permLaunch)) fun (e, _) =>
      let cl := clusterOfCore x.b.core
      if x.s.deposits cl + x.actCount > 4096 ∨ x.portPending then x.hold
      else
        let s' := x.commit (Warp.endLanes x.act)
        let s' := match x.cardOf e with
          | some k => (lanesIn x.act).foldl (fun s l =>
              let t := x.w.thread l
              s.deposit cl k x.b.launch (t.reg a &&& 0xFFF) (t.get2 (a + 2)) x.w.wct.toNat) s'
          | none => s'
        x.orTrap [] [] (.next s')

/-- Every block of the launch has retired. -/
def State.launchRetired (s : State) (lid : Nat) : Bool :=
  match s.launch? lid with
  | some l => !l.live || (List.range l.nblk).all fun b => s.blkRetired l b
  | none => true

/-- A trigger of R240 has fallen. -/
def State.binDue (s : State) (b : Bin) : Bool :=
  b.deps.length == 32 || s.launchRetired b.launch || decide (b.first + 10000 ≤ s.gt)

/-- The bins that are due, in the order in which they leave: by card, then by key (R240). -/
def State.dueBins (s : State) : List Bin :=
  sortBy (fun a b => decide (a.card.gen < b.card.gen ∨ (a.card.gen = b.card.gen ∧ a.key.toNat ≤ b.key.toNat)))
    (s.bins.filter s.binDue)

/-- REORDER_BIN_DEPART (R240). -/
def execReorderBinDepart (cluster bin : Nat) (s : State) : Result :=
  match s.bins.find? fun b => b.id == bin && b.cluster == cluster with
  | some b => if s.binDue b && !s.binStays b then .next (s.departBin b).unhold else .next s
  | none => .next s

/-! ### From the slice to the ring (R281 to R285) -/

/-- The entry's capability still names the card with LAUNCH (R282). -/
def State.launchRight (s : State) (e : SliceEntry) : Bool :=
  match s.capEntry e.pn e.ctx e.cap with
  | some c => c.type == capCard && c.card == e.card && permAll permLaunch c.perms
  | none => false

/-- Records a failed entry and frees it (R285). -/
def State.failEntry (s : State) (e : SliceEntry) (cause pn : Nat) : State :=
  let n := s.load (e.loc + 40) 4
  let s := s.writeOwn (e.loc + 40) 24
    (cellsAt (e.loc + 40) 4 (if n = 2 ^ 32 - 1 then n else n + 1) ++ cellsAt (e.loc + 44) 1 cause ++
      cellsAt (e.loc + 48) 8 e.va.toNat ++ cellsAt (e.loc + 56) 4 e.old.toNat ++ cellsAt (e.loc + 60) 4 e.new.toNat)
  s.flog pn e.ctx
    { code := 0x15, sub := BitVec.ofNat 8 cause, source := 2, obj := e.cardVa, addr := e.va
      detail := e.new ++ e.old }

/-- What SliceForward does with an entry: kept while the ring is full, and while its store at the home waits for an
exclusive lease or the host's copy, or would cross a closed boundary (R259, R282, R361, R391). -/
def State.forward (s : State) (e : SliceEntry) : Option State :=
  let freed : State := { s with slices := s.slices.erase e }
  match s.cards.find? fun k => k.pn == e.pn && k.loc == e.loc with
  | none => some (freed.failEntry e 1 e.pn)
  | some k =>
    if k.gen ≠ e.card then some (freed.failEntry e 2 e.pn)
    else if !s.launchRight e then some (freed.failEntry e 3 e.pn)
    else if !k.ring then some (freed.failEntry e 4 e.pn)
    else if k.total - k.released < 2 ^ k.ringl then
      let slot := k.va + k.rbase + BitVec.ofNat 64 (16 * (k.total % 2 ^ k.ringl))
      match s.translate none k.pn k.ctx slot.toNat .write with
      | .error _ => some (freed.failEntry e 5 e.pn)
      | .ok p =>
        if p.mt = 0 ∧ (s.barredDie (e.slice / 32) p.loc ∨ s.snooped p.loc 16 ∨ s.xleases.any fun x => x.line == lineOf p.loc && decide (s.gt < x.expiry)) then none
        else
        let s := freed.writeOwn p.loc 16
          (cellsAt p.loc 8 e.va.toNat ++ cellsAt (p.loc + 8) 4 e.old.toNat ++ cellsAt (p.loc + 12) 4 e.new.toNat)
        let t := if p.mt = 0 then max e.carried (s.homeTime (lineOf p.loc)) else max e.carried s.gt
        some (s.modCard k.gen fun k => { k with total := k.total + 1, ready := k.ready ++ [t] })
    else none

/-- The oldest entry of each card in a slice, where it can go on. -/
def State.forwardable (s : State) (slice : Nat) : List SliceEntry :=
  let es := s.slices.filter fun e => e.slice == slice
  let oldest := (es.mapIdx fun i e => (i, e)).filter fun (i, e) =>
    !((es.take i).any fun f => f.loc == e.loc && f.pn == e.pn)
  (oldest.map (·.2)).filter fun e => (s.forward e).isSome

/-- SLICE_FORWARD: entries of different cards leave a slice in no fixed order (R282). -/
def execSliceForward (slice : Nat) (s : State) : Result :=
  let es := s.forwardable slice
  let (k, s) := s.drawPick es.length
  match es[k]? with
  | some e => .next ((s.forward e).getD s).settleLocks.unhold
  | none => .next s

/-- The conditions of R283 for one more task block of a ring card; a held die's distributor launches nothing (R393). -/
def State.ringReady (s : State) (k : Card) : Bool :=
  k.ring && !((s.diesOf k.pn).any s.dieHeld) && decide (k.live.length < k.maxblk) &&
  decide ((k.live.filter fun e => !e.2).length < k.readyCount s.gt) && !s.ctxOut k.pn k.ctx && k.launch.isSome

/-- RING_TASK_LAUNCH: the distributor launches one task block, in the card's class (R283, R286).  DESIGN CHOICE: a binding
in another context's card outlives the teardown of its own context, and its blocks, of the torn launch, are never placed
(log 71). -/
def execRingTaskLaunch (card : Nat) (s : State) : Result :=
  match s.card? card with
  | some k =>
    match k.launch with
    | some lid =>
      if s.ringReady k then
        let n := (s.launch? lid).elim 0 (·.nblk)
        .next (((s.addLate lid k.cls none).modCard k.gen fun k => { k with live := k.live ++ [(n, false)] }).unhold)
      else .next s
    | none => .next s
  | none => .next s

/-- A block retires: it gives up its chunks, and is no live block of its card any more (R279, R283). -/
def State.cardRetire (s : State) (b : Block) : State :=
  { s with cards := s.cards.map fun k =>
      let k := k.release b.bid
      if b.card = some k.gen ∧ k.launch = some b.launch then { k with live := k.live.filter fun e => e.1 != b.blk } else k }

/-! ### Binding (R274, R275) -/

/-- The image of a card, checked against R274; the card without its generation. -/
def State.readCard (s : State) (pn ctx : Nat) (va : DWord) (loc gen : Nat) : Option Card :=
  let f (o n : Nat) : Nat := s.load (loc + o) n
  let ring := f 8 1 == 1
  let ok :=
    f 0 8 % 4 == 0 && f 0 8 / 2 ^ 60 == 0 && decide (f 8 1 ≤ 1) && inRange 1 (f 9 1) 3 && inRange 1 (f 10 1) 16 &&
    inRange 1 (f 11 1) 16 && decide (f 12 2 ≤ 256) && f 32 2 != 0 && f 34 2 != 0 && inRange 1 (f 36 1) 64 &&
    f 37 3 == 0 && f 45 3 == 0 &&
    (if ring then f 14 1 != 0 && inRange 1 (f 15 1) 16 && (va + BitVec.ofNat 64 (f 16 8)).toNat % 16 == 0
     else f 14 1 == 0 && f 15 1 == 0 && f 16 8 == 0)
  if ok then
    some
      { gen := gen, pn := pn, ctx := ctx, va := va, loc := loc, entry := BitVec.ofNat 64 (f 0 8), ring := ring
        cls := f 9 1, warps := f 10 1, regs8 := f 11 1, localKb := f 12 2, maxblk := f 14 1, ringl := f 15 1
        rbase := BitVec.ofNat 64 (f 16 8), doff := BitVec.ofNat 64 (f 24 8), minChunk := f 32 2, divisor := f 34 2
        quota := f 36 1, launch := none, total := 0, dealt := 0, released := 0, ready := [], readyFrom := 0
        chunks := [], live := [] }
  else none

/-- Binds a card: a new generation; a ring binding gets its launch (R275, R277). -/
def State.bindCard (s : State) (k : Card) : State :=
  let s : State := { s with cards := s.cards ++ [k], cardGen := s.cardGen + 1 }
  if k.ring then
    let (kern, s) := s.freshKern k.pn k.ctx
    let (s, lid) := s.taskLaunch k kern 0 (cardArgs k (k.va + k.rbase))
    s.modCard k.gen fun k => { k with launch := some lid }
  else s

/-- Ends the bindings that no CARD entry of their partition names any more (R275). -/
def State.unbindCards (s : State) : State :=
  { s with cards := s.cards.filter fun k =>
      s.ctxs.any fun c => c.pn == k.pn && c.caps.any fun e => e.2.type == capCard && e.2.card == k.gen }

end Sys2Proof.Machine
end

