-- ==== Sys2Proof/Machine/Stops.lean ====
section
/-! DEFINITION. How blocks stop, are saved, retire, and how launches end (spec/01_machine_state.md, R36;
spec/02_number_formats.md, R58; spec/05_isa_integer_control.md, R118; spec/09_compiler_contract.md, R209, R210;
spec/11_divergence_cuckoo.md, R237; spec/12_progress_classes.md, R246; spec/16_matrix_engine.md, R317;
spec/18_launch_contexts_faults.md, R335, R336, R349). -/

namespace Sys2Proof.Machine

/-! ### What a stop saves (R36, R79, R209) -/

/-- A live-mask entry: entry 0, and one that cannot be read, name every register. -/
def State.liveMask (s : State) (b : Block) (idx : Nat) : Nat :=
  let all := 2 ^ 128 - 1
  if idx = 0 then all
  else
    match s.launch? b.launch with
    | none => all
    | some l =>
      if l.lmtab = 0 then all
      else
        match s.translate (some b.core) b.pn b.ctx (l.lmtab.toNat + 16 * idx) .read with
        | .ok p => s.load p.loc 16
        | .error _ => all

/-- The live-mask entry a lane stopped at: its safe point's; a sleeping lane's by the address of its word; entry 0 for a
lane the deadline stopped. -/
def State.stopIndex (s : State) (b : Block) (w : Warp) (l : Lane) : Nat :=
  if w.stop = .forced ∨ w.parked.isSome then 0
  else
    match (w.thread l).asleep with
    | some z => s.sptabIndex b ((w.thread l).pc + (if z.hint = 0 then 0 else 4))
    | none => if w.liveIdx[l] = passedWaitm then s.sptabIndex b ((w.thread l).pc - 4) else w.liveIdx[l]

/-- Registers the mask does not name become free values (log 14). -/
def Thread.undefine (t : Thread) (alloc mask free : Nat) : Thread :=
  { t with v := Vector.ofFn fun r : Fin 128 =>
      if r.val < alloc ∧ mask / 2 ^ r.val % 2 = 0 then (Config.freeBits (free + r.val)).setWidth 32 else t.v[r] }

/-- The registers of a stopped block as a safe-point save leaves them. -/
def State.undefine (s : State) (b : Block) : State :=
  let warp (i : Nat) (w : Warp) : Warp := w.modThreads fun l t =>
    if t.ended then t
    else t.undefine w.alloc (s.liveMask b (s.stopIndex b w l)) (s.free + 128 * (32 * i + l.val))
  let s' := s.modBlock b.bid fun b => { b with warps := b.warps.mapIdx warp }
  { s' with free := s.free + 4096 * b.warps.length }

/-! ### When a stop is complete -/

/-- The counters of the block's warps have drained (R268). -/
def Block.drained (b : Block) : Bool := b.warps.all fun w => w.ldc == 0 && w.stc == 0

/-- Granted matrix operations of the block are complete (R317). -/
def State.engineQuiet (s : State) (b : Block) : Bool := (s.entriesOf b).all fun m => !m.busy

/-- Every warp has stopped and drained, the engine is done with the block, and no element of a copy is half moved. -/
def State.stopDone (s : State) (b : Block) : Bool :=
  b.warps.all Warp.hasStopped && b.drained && s.engineQuiet b && s.atElements b

/-- Line buffers of a core are emptied at a stop (R294). -/
def State.dropLineBufs (s : State) (core : Nat) : State :=
  { s with lineBufs := s.lineBufs.filter fun e => e.core != s.physCore core }

/-- Posted operations are withdrawn, the PC of a running stream set back to the oldest of their words; the engine no
longer holds the block's context (R317). -/
def State.leaveEngine (s : State) (b : Block) : State :=
  let old := s.oldestPosted b
  let s := s.withdrawEntries b
  let s := s.modSeq b.bid fun q =>
    match old with
    | some m => { q with pc := m.pc, wait := none }
    | none => q
  let e := s.engine b.cluster
  let s := if e.owner = some b.bid then s.setEngine { e with owner := none } else s
  s.settleCharges b.bid

/-- STOP_DEADLINE: threads that have not stopped stop at their next instruction boundary (R210, R237). -/
def execStopDeadline (bid : Nat) (s : State) : Result :=
  match s.block? bid with
  | none => .next s
  | some b =>
    if b.stopFor.isSome ∧ b.deadline ≤ s.gt ∧ !(b.warps.all Warp.hasStopped) then
      .next (s.modBlock bid fun b => { b with warps := b.warps.map fun w =>
        if w.hasStopped then w else { w with stop := .forced, stopped := ~~~w.endedMask } }).settleLocks.unhold
    else .next s

/-! ### Eviction (R246, R349) -/

/-- The record concerns a warp of the block. -/
def Block.warpOfHandle (b : Block) (h : Word) : Option Nat := b.warps.findIdx? fun w => handleOf b w == h

/-- The record a handler warp serves. -/
def Block.serves (b : Block) : Option TrapRecord :=
  match b.kind with
  | .handler _ _ r => r
  | _ => none

/-- Records of the block's warps that are queued or being served are kept for its resumption; their invocations are
abandoned (R349). -/
def State.stashRecords (s : State) (b : Block) : State :=
  let mine (r : TrapRecord) : Option (Nat × TrapRecord) := (b.warpOfHandle r.handle).map fun w => (w, r)
  let served := s.blocks.filterMap fun k => k.serves.bind mine
  let queued := s.records.filterMap fun e => if e.1 = b.core then mine e.2.2 else none
  let s : State := { s with records := s.records.filter fun e => !(e.1 == b.core && (mine e.2.2).isSome) }
  let s := (s.blocks.filter fun k => (k.serves.bind mine).isSome).foldl (fun s k => s.endInvocation k.bid) s
  s.modBlock b.bid fun b => { b with stash := served ++ queued }

/-- EVICTION_SAVE_COMPLETE: a block stopped for eviction whose state is saved is Evicted (R246). -/
def execEvictionSaveComplete (bid : Nat) (s : State) : Result :=
  match s.block? bid with
  | none => .next s
  | some b =>
    if b.life = .stopped ∧ b.stopFor = some .eviction ∧ s.stopDone b then
      let s := ((s.leaveEngine b).undefine b).stashRecords b
      let s := (s.dropLineBufs b.core).markTrace b.core
      .next ((s.modBlock bid fun b => { b with life := .evicted, marked := false, stopFor := none }).evictionMade bid).unhold
    else .next s

/-! ### Retirement (R118) -/

/-- The block retires: its engine context and reservations go, and its card counts it no more. -/
def State.retireBlock (s : State) (b : Block) : State :=
  let s := ((s.leaveEngine b).cardRetire b).bookTimes b
  let s : State := { s with
    blocks := s.blocks.filter fun k => k.bid != b.bid
    resvs := s.resvs.filter fun r => !(r.launch == b.launch && r.blk == b.blk) }
  (s.modLaunch b.launch fun l => { l with retiredBlks := l.retiredBlks ++ [b.blk] }).unhold

/-- A warp whose threads have all ended, with its counters at 0. -/
def Warp.mayRelease (w : Warp) : Bool :=
  !w.released && (allLanes.all fun l => (w.thread l).ended) && w.ldc == 0 && w.stc == 0 && w.cpc == 0 && w.mxc == 0

/-- WARP_SLOT_RELEASE; the block retires with its last slot. -/
def execWarpSlotRelease (bid warp : Nat) (s : State) : Result :=
  match s.block? bid with
  | none => .next s
  | some b =>
    match b.warp? warp with
    | none => .next s
    | some w =>
      if b.resident && w.mayRelease then
        let b := b.modWarp warp fun w => { w with released := true, note := none }
        let s := s.modBlock bid fun _ => b
        .next (if b.warps.all (·.released) then s.retireBlock b else s.unhold)
      else .next s

/-! ### Done records (R336) -/

/-- A launch has left the head of its queue, or has ended before one that waits for that: those behind come no earlier
(R218, R335). -/
def State.headPassed (s : State) (l : Launch) : State :=
  { s with launches := s.launches.map fun k =>
      if k.die == l.die && k.queue == l.queue && k.state == .known && (l.state == .known || k.flags.getLsbD 4) then
        { k with readyGt := s.gt } else k }

/-- Writes a done record and raises its interrupt: a release at sys scope. -/
def State.writeDone (s : State) (l : Launch) (status reason : Nat) : State :=
  let s := (s.diesOf l.pn).foldl (fun s d => s.sysRelease d l.pn l.ctx) s
  let s :=
    if l.done = 0 then s
    else
      match s.translate none l.pn l.ctx l.done.toNat .write with
      | .error _ => s
      | .ok p =>
        s.writeOwn p.loc 16 (cellsAt p.loc 8 s.gt ++ cellsAt (p.loc + 8) 8 (status + 2 ^ 8 * reason))
  if l.flags.getLsbD 5 then s.raise ((s.csr (.part l.pn) 0x03C8).toNat % 2048 + 1) else s

/-! ### The end of a launch (R58, R335) -/

/-- Every block of a ready launch has retired. -/
def State.allRetired (s : State) (l : Launch) : Bool :=
  l.state == .ready && (List.range l.nblk).all fun k => s.blkRetired l k

/-- The order of R58; entries of one warp stay in the order in which they were appended. -/
def ordOrder (es : List OrdEntry) : List OrdEntry :=
  sortBy (fun a b => decide (a.blk < b.blk ∨ (a.blk = b.blk ∧ a.w ≤ b.w))) es

/-- The host's copy of the line or an exclusive lease on it comes first, as for any device atomic (R259, R361, R363). -/
def State.ordReady (s : State) (e : OrdEntry) : Bool :=
  !s.snooped e.loc 4 && !(s.xleases.any fun x => x.line == lineOf e.loc && decide (s.gt < x.expiry))

/-- One application, rounded once.  The dirty bytes of a host line go back first, as before any atomic; one that reaches
no one is dropped and the error counted (R357, R359); one that meets a soft error changes nothing (log 26). -/
def State.applyOrd (s : State) (e : OrdEntry) : State :=
  if !s.reachable e.loc then s.failedAt e.loc
  else if s.badAt e.loc 4 then s
  else
    let s := if e.mt = 0 then s.dropCopy (.rdc e.die) (lineOf e.loc) else s.flushLine e.die (lineOf e.loc)
    (s.store e.loc 4 ((atomNew e.op (BitVec.ofNat 128 (s.load e.loc 4)) (e.y.setWidth 128) 0).toNat % 2 ^ 32)).touchSlots
      e.loc 4

/-- ORDERED_ATOMIC_APPLY: the first entry, in their order, that is still to be applied (R58, R164).  DESIGN CHOICE: the
entries are applied as appended, whatever has been stored into the area, where R164 leaves that application undefined
(log 65). -/
def execOrderedAtomicApply (launch : Nat) (s : State) : Result :=
  match s.launch? launch with
  | none => .next s
  | some l =>
    match ordOrder l.ords with
    | [] => .next s
    | e :: rest =>
      if s.allRetired l && s.ordReady e then
        .next ((s.applyOrd e).modLaunch launch fun l => { l with
          ords := rest, wct := max l.wct (s.homeTime (lineOf e.loc)) }).settleLocks.unhold
      else .next s

/-- The launch of a ring card lives as long as the binding. -/
def State.bound (s : State) (l : Launch) : Bool := l.card.elim false fun g => (s.card? g).elim false (·.ring)

/-- Its stores are acknowledged, and GT has reached the completion times that its done record, a release, waits for
(R262, R335, R336). -/
def State.storesDone (s : State) (l : Launch) : Bool :=
  !(s.blocks.any fun b => b.launch == l.lid) && decide (l.wct ≤ s.gt)

def State.mayEnd (s : State) (l : Launch) : Bool := s.allRetired l && l.ords.isEmpty && !s.bound l && s.storesDone l

/-- LAUNCH_END (R335, R336). -/
def execLaunchEnd (launch : Nat) (s : State) : Result :=
  match s.launch? launch with
  | none => .next s
  | some l =>
    if s.mayEnd l then
      let s := (s.modLaunch launch fun l => { l with state := .ended, endGt := s.gt }).headPassed l
      let s := s.writeDone l 1 0
      .next { s with lineBufs := s.lineBufs.filter fun e => e.pn != l.pn }.settleLocks.unhold
    else .next s

end Sys2Proof.Machine
end

