-- ==== Sys2Proof/Machine/Launch.lean ====
section
/-! DEFINITION. Launch queues, packets, and launches becoming ready (spec/18_launch_contexts_faults.md, R331 to R338;
spec/10_scheduling.md, R218, R222; spec/01_machine_state.md, R12). -/

namespace Sys2Proof.Machine

/-! ### Queue descriptors (R331) -/

/-- The location of a 64-bit register pair's address. -/
def State.csrAddr (s : State) (sc : CsrScope) (i : Nat) : Nat := (s.csr sc i).toNat + 2 ^ 32 * (s.csr sc (i + 1)).toNat

structure QueueDesc where
  loc : Nat
  ring : Nat
  l : Nat
  ctx : Nat
  flags : Nat
  head : Nat
  tail : Nat
  /-- Every field R331 fixes is as it fixes it, and descriptor and ring are the partition's to use (R385; log 73). -/
  ok : Bool

def State.queueDesc (s : State) (die n : Nat) : QueueDesc :=
  let pa := s.csrAddr (.die die) (0x0300 + 2 * n)
  let a := s.physLoc pa
  let pn := s.pnOfDie die
  let f (o k : Nat) : Nat := s.load (a + o) k
  { loc := a, ring := f 0 8, l := f 8 1, ctx := f 9 1, flags := f 10 1, head := f 16 8, tail := f 24 8
    ok := s.mayUse pn pa 64 && s.mayUse pn (f 0 8) (128 * 2 ^ f 8 1) && f 0 8 % 128 == 0 && inRange 1 (f 8 1) 16 && decide (f 9 1 ≤ 15) && decide (f 10 1 < 4) && f 11 5 == 0 &&
      f 32 32 == 0 }

/-- Packets written and not read. -/
def QueueDesc.count (q : QueueDesc) : Nat := (q.tail + 2 ^ 64 - q.head) % 2 ^ 64

/-! ### Packets (R334, R336 to R338) -/

/-- A little-endian field of a packet. -/
abbrev Field := Nat → Nat → Nat

/-- Reason 1: a field breaks R334. -/
def packetOk (f : Field) : Bool :=
  let flags := BitVec.ofNat 8 (f 113 1)
  f 0 8 % 4 == 0 && f 0 8 / 2 ^ 60 == 0 && f 32 8 % 4 == 0 && f 40 8 % 16 == 0 && (f 102 2 != 0 || f 40 8 == 0) &&
  f 48 8 % 16 == 0 && f 56 8 % 8 == 0 && f 64 8 % 2 == 0 && f 88 8 % 16 == 0 && inRange 1 (f 96 4) (2 ^ 24) &&
  decide (f 102 2 ≤ 256) && decide (f 108 2 ≤ 256) && inRange 1 (f 111 1) 16 && inRange 1 (f 112 1) 16 &&
  decide (f 113 1 < 64) && f 117 3 == 0 && f 120 4 % 16 == 0 && decide (f 124 4 < 2 ^ 31) &&
  (!flags.getLsbD 3 || (decide (f 114 1 < f 102 2) && inRange 1 (f 115 1) 16)) &&
  (!flags.getLsbD 2 || decide (f 116 1 < f 102 2)) &&
  (!flags.getLsbD 1 || f 120 4 != 0) &&
  (!flags.getLsbD 0 || (f 104 2 % 4 == 0 && f 106 2 % 4 == 0 && f 96 4 % 4 == 0))

/-- n bytes that a launch's context may read, or none. -/
def State.readTable (s : State) (pn ctx va : Nat) : Nat → Option (List Byte)
  | 0 => some []
  | n + 1 =>
    match s.translate none pn ctx va .read, s.readTable pn ctx (va + 1) n with
    | .ok p, some bs => some (memRead s.mem p.loc :: bs)
    | _, _ => none

/-- The entries of a table of n entries of k bytes. -/
def entriesOfTable (bs : List Byte) (n k : Nat) : List (List Byte) := (List.range n).map fun i => (bs.drop (k * i)).take k

def groupEntry (bs : List Byte) : GroupEntry := ⟨sliceNat bs 0 4, sliceNat bs 4 4, sliceNat bs 8 4, sliceNat bs 12 2⟩

/-- A group-table entry is as R337 says. -/
def groupEntryOk (bs : List Byte) : Bool :=
  decide (sliceNat bs 0 4 < 2 ^ 24) && decide (sliceNat bs 4 4 ≤ 2 ^ 24) && sliceNat bs 12 2 != 0 && sliceNat bs 14 2 == 0

/-- The launch of a packet, known from the moment it has been read (R332). -/
def State.readPacket (s : State) (die n : Nat) (q : QueueDesc) (addr : Nat) : Launch :=
  let pn := s.pnOfDie die
  let f : Field := fun o k => s.load (s.physLoc addr + o) k
  let w (o : Nat) : Word := BitVec.ofNat 32 (f o 4)
  let d (o : Nat) : DWord := BitVec.ofNat 64 (f o 8)
  let ok := packetOk f
  let rd (a n : Nat) : Option (List Byte) := if ok then s.readTable pn q.ctx a n else some []
  let gtab := rd (f 40 8) (16 * f 102 2)
  let unif := if f 32 8 = 0 then some [] else rd (f 32 8) 60
  let bar := if f 64 8 = 0 then some [] else rd (f 64 8) 32
  let gs := entriesOfTable (gtab.getD []) (f 102 2) 16
  let read := gtab.isSome && unif.isSome && bar.isSome
  let badGroup := gtab.isSome && !(gs.all groupEntryOk)
  { lid := s.nextId, pn := pn, ctx := q.ctx, die := die, queue := n, packetAddr := addr
    guarded := q.flags / 2 % 2 == 1, entry := d 0, start := d 8, args := [w 16, w 20, w 24, w 28]
    unif := (entriesOfTable (unif.getD []) 15 4).map fun b => BitVec.ofNat 32 (bytesToNat b)
    lmtab := d 48, sptab := d 56, ordbase := d 72, ecarea := d 80, done := d 88, nblk := f 96 4, spcount := f 100 2
    groups := if ok && gtab.isSome then gs.map groupEntry else [], core0 := f 104 2, ncore := f 106 2, localKb := f 108 2
    cls := f 110 1, warps := f 111 1, regs8 := f 112 1, flags := BitVec.ofNat 8 (f 113 1), prodg := f 114 1
    prodw := f 115 1, feedg := f 116 1, ordsz := f 120 4, kern := w 124
    bartab := (entriesOfTable (bar.getD []) 16 2).map bytesToNat
    fault := if !ok then some 1 else if badGroup then some 5 else if !read then some 8 else none
    state := .known, order := 0, readyGt := s.gt, endGt := 0, late := [], retiredBlks := [], ords := [], card := none, wct := 0 }

/-- Reads the packets of a queue in order; HEAD passes each (R332). -/
def readPackets (die n : Nat) (q : QueueDesc) : Nat → Nat → State → State
  | 0, _, s => s
  | k + 1, head, s =>
    let l := s.readPacket die n q (q.ring + 128 * (head % 2 ^ q.l))
    let next := (head + 1) % 2 ^ 64
    readPackets die n q k next
      (State.writeOwn { s with launches := s.launches ++ [l], nextId := s.nextId + 1 } (q.loc + 16) 8 (cellsAt (q.loc + 16) 8 next))

/-- A refusal in the fault log (R350). -/
def State.refuse (s : State) (pn ctx reason addr : Nat) (kern : Word) : State :=
  s.flog pn ctx
    { code := 0, sub := BitVec.ofNat 8 reason, source := 4, obj := BitVec.ofNat 64 addr, detail := kern.setWidth 64 }

/-- HEAD and TAIL as last read (R333). -/
def State.noteQueue (s : State) (die n head tail : Nat) : State :=
  { s with queues := { die := die, num := n, head := head, tail := tail } ::
      s.queues.filter fun q => !(q.die == die && q.num == n) }

/-- A doorbell acted on (R332). -/
def State.ring (s : State) (die n : Nat) : State :=
  let q := s.queueDesc die n
  if q.flags % 2 = 0 ∨ q.count > 2 ^ q.l ∨ !q.ok then (s.refuse (s.pnOfDie die) q.ctx 9 0 0).noteQueue die n q.head q.tail
  else (readPackets die n q q.count q.head s).noteQueue die n q.tail q.tail

/-- LQ_BELL: a held die records the doorbell (R332, R393). -/
def execLqBell (die queue : Nat) (s : State) : Result :=
  if s.dieHeld die then
    .next (if s.bells.contains (die, queue) then s else { s with bells := s.bells ++ [(die, queue)] })
  else .next (s.ring die queue).unhold

/-- A queue is busy (R333). -/
def State.queueBusy (s : State) (die n : Nat) : Bool :=
  (s.queues.any fun q => q.die == die && q.num == n && q.head != q.tail) ||
  s.launches.any fun l => l.die == die && l.queue == n && l.live

/-! ### Ready (R218, R222, R335, R336) -/

/-- The packet is at the head of its queue, its time has come, and with SER its queue's earlier launches have ended. -/
def State.readyNow (s : State) (l : Launch) : Bool :=
  let before := (s.launches.takeWhile fun k => k.lid != l.lid).filter fun k => k.die == l.die && k.queue == l.queue
  l.state == .known && decide (l.start.toNat ≤ s.gt) &&
  (before.all fun k => k.state != .known) && (!l.flags.getLsbD 4 || before.all fun k => !k.live)

/-- R12: no block is a member of more than four groups. -/
def Launch.groupsOk (l : Launch) : Bool :=
  (List.range l.nblk).all fun k => decide ((l.groups.filter fun g => g.has k).length ≤ 4)

/-- A room fits an empty core, with `held` still free. -/
def fitsEmpty (held r : Room) : Bool := roomsFit [r] held

/-- The first reason of R336 that refuses a launch as it becomes ready. -/
def State.refusal (s : State) (l : Launch) : Option Nat :=
  let n := (s.coresOf l.pn).length
  if l.fault = some 1 then some 1
  else if l.cls = 0 ∨ 3 < l.cls then some 2
  else if !((s.ctx? l.pn l.ctx).elim false (·.valid)) then some 3
  else if s.launches.any fun k => k.pn == l.pn && k.ctx == l.ctx && k.lid != l.lid && k.live && k.kern == l.kern
    then some 4
  else if l.fault = some 5 ∨ !l.groupsOk then some 5
  else if n = 0 ∨ (l.ncore ≠ 0 ∧ n < l.core0 + l.ncore) then some 6
  else if !fitsEmpty (s.heldFor l.pn l.cls) l.room then some 7
  else l.fault

/-- SER: the instruction caches and L1s of the partition's cores drop the lines of the launch's context (R335). -/
def State.serDrop (s : State) (pn ctx : Nat) : State :=
  let l1s := (s.coresOf pn).map s.l1Of
  { s with
    copies := s.copies.filter fun c => !l1s.contains c.place
    code := s.code.filter fun e => !(e.pn == pn && e.ctx == ctx) }

/-- LAUNCH_READY: the launch is ready, or refused. -/
def execLaunchReady (launch : Nat) (s : State) : Result :=
  match s.launch? launch with
  | none => .next s
  | some l =>
    if s.readyNow l then
      match s.refusal l with
      | some r =>
        let s := (s.modLaunch launch fun l => { l with state := .refused, fault := some r, endGt := s.gt }).headPassed l
        .next ((s.writeDone l 2 r).refuse l.pn l.ctx r l.packetAddr l.kern).settleLocks.unhold
      | none =>
        let s := s.modLaunch launch fun l => { l with
          state := .ready, order := s.nextId, readyGt := s.gt, late := l.late.map fun e => { e with order := s.nextId } }
        let s := s.headPassed l
        .next (if l.flags.getLsbD 4 then s.serDrop l.pn l.ctx else s).bump.unhold
    else .next s

/-! ### GRPW's condition (R204) -/

/-- The launch of a number that is known and has not ended. -/
def State.liveLaunch (s : State) (pn ctx : Nat) (kern : Word) : Option Launch :=
  s.launches.find? fun l => l.pn == pn && l.ctx == ctx && l.kern == kern && l.live

/-- The launch has placed no block. -/
def State.unplaced (s : State) (l : Launch) : Bool :=
  l.retiredBlks.isEmpty && !(s.blocks.any fun b => b.launch == l.lid && b.kind == .task)

end Sys2Proof.Machine
end

