-- ==== Sys2Proof/Machine/Sched.lean ====
section
/-! DEFINITION. The dispatcher: pending blocks, cores, placement, context switches as they start
(spec/10_scheduling.md, R221, R223, R228, R229; spec/01_machine_state.md, R10 to R22; spec/11_divergence_cuckoo.md, R241,
R242; spec/15_async_copies.md, R297; spec/18_launch_contexts_faults.md, R341, R342; spec/22_power_health_identity.md, R403). -/

namespace Sys2Proof.Machine

/-! ### Switches of a core as they start (R341, R342) -/

/-- Task blocks and handler warps resident on a core. -/
def State.onCore (s : State) (core : Nat) : List Block :=
  s.blocks.filter fun b => b.core == core && b.resident && !b.isSteward

def State.switching (s : State) (core : Nat) : Bool := s.switches.any fun w => w.core == core

/-- Asks every block on the core to stop for the switch; an eviction in progress is withdrawn with it. -/
def State.stopForSwitch (s : State) (core : Nat) : State :=
  State.settleLocks { s with blocks := s.blocks.map fun b =>
    if ((s.onCore core).any fun k => k.bid == b.bid) then
      let c := b.askStop .switch s.gt (s.hiRail core)
      { c with life := if b.life = .halted then .halted else .stopped, marked := false }
    else b }

/-- Starts a switch on a core; while its cluster moves, it waits for the end of the move (R328, R342). -/
def State.startSwitch (s : State) (core : Nat) (into : Option Nat) : State :=
  let out := if (s.onCore core).isEmpty then none else s.running core
  let s : State := { s with switches := s.switches ++ [{ core := core, out := out, into := into }] }
  if s.moveOf core then s else s.stopForSwitch core

/-! ### Cores that take a block (R219, R221, R403) -/

/-- The dispatcher may choose the core for a block of the context. -/
def State.coreOpen (s : State) (pn ctx core : Nat) : Bool :=
  !s.dieHeld (dieOfCore core) && !s.switching core &&
  (s.running core == some ctx || (s.onCore core).isEmpty) && (s.outOver core pn ctx).isEmpty

/-- The rail condition of R403. -/
def State.railOk (s : State) (l : Launch) (k core : Nat) : Bool :=
  let cl := clusterOfCore core
  match (s.blockOf l.lid k).bind (·.rail) with
  | some hi => s.railTakes cl hi
  | none => true

/-- Block k fits the core now. -/
def State.canTake (s : State) (l : Launch) (k cls core : Nat) : Bool :=
  s.coreOpen l.pn l.ctx core && s.railOk l k core &&
  s.fits core [] (some (l.lid, k)) (s.heldFor l.pn cls) (s.roomOf l k)

/-! ### Pending blocks -/

structure Pend where
  l : Launch
  k : Nat
  cls : Nat
  order : Nat

/-- Block k waits for a place: never placed or evicted, its carried time reached (R242).  A four waits at its lowest
block (R297). -/
def State.isPending (s : State) (l : Launch) (k : Nat) : Bool :=
  !s.blkRetired l k && ((s.blockOf l.lid k).elim true fun b => b.life == .evicted) &&
  ((l.binOf k).elim true fun b => decide (b.start ≤ s.gt)) && (k % 4 == 0 || !l.clusteredFour s k)

/-- The pending blocks of a partition in the order of R221.  The blocks of a context that is suspended, and so chosen for
no core, are not among them: an EVENTUAL block of it keeps no other waiting (DESIGN CHOICE, log 60). -/
def State.pending (s : State) (pn : Nat) : List Pend :=
  let ls := s.launches.filter fun l => l.pn == pn && l.state == .ready && s.ctxRuns pn l.ctx
  let ps := ls.flatMap fun l => ((List.range l.nblk).filter (s.isPending l)).map fun k =>
    { l := l, k := k, cls := s.placeClass l k, order := s.blkOrder l k : Pend }
  sortBy (fun a b =>
    decide (b.cls < a.cls ∨ (a.cls = b.cls ∧ (a.order < b.order ∨ (a.order = b.order ∧ a.k ≤ b.k))))) ps

/-- Where a pending block, or its four, goes now: ChooseCore, the four's cluster, or its reservation, which it takes once
its core does not move (R221, R251, R297, R328). -/
def State.choose (s : State) (p : Pend) : Option (List (Nat × Nat)) :=
  match s.resvs.find? fun r => r.launch == p.l.lid && r.blk == p.k with
  | some r =>
    let mine := if p.l.clusteredFour s p.k then
        s.resvs.filter fun e => e.launch == p.l.lid && e.blk / 4 == p.k / 4 else [r]
    if mine.all fun e => s.canTake p.l e.blk (max e.cls p.cls) e.core && !s.moveOf e.core then some (mine.map fun e => (e.blk, e.core))
    else none
  | none =>
    let us := (s.unitsFor p.l p.k).filter fun u => (u.blks.zip u.cores).all fun e => s.canTake p.l e.1 p.cls e.2
    (leastBy (fun u => ((u.cores.map s.warpCount).sum, u.cores.headD 0)) us).map fun u => u.blks.zip u.cores

/-- A block, or a four, with the core each of its blocks goes to. -/
abbrev Placement := Pend × List (Nat × Nat)

/-- The first placement: an EVENTUAL block that finds no core stops the search. -/
def State.firstPlace (s : State) : List Pend → Option Placement
  | [] => none
  | p :: rest =>
    match s.choose p with
    | some c => some (p, c)
    | none => if p.cls = 2 then none else s.firstPlace rest

/-- The guarded context of a partition (R228). -/
def State.guardCtx (s : State) (pn : Nat) : Option Nat :=
  let g := (s.csr (.part pn) 0x0101).toNat
  if g / 2 ^ 31 = 1 then some (g / 2 ^ 24 % 16) else none

def State.isGuarded (s : State) (p : Pend) : Bool :=
  p.l.guarded && p.l.cls == 3 && s.guardCtx p.l.pn == some p.l.ctx

/-- Reserved blocks go first, then guarded launches, then the order of R221 (R229, R251). -/
def State.nextPlace (s : State) (pn : Nat) : Option Placement :=
  let ps := s.pending pn
  let resv := ps.filter fun p => s.reserved p.l.lid p.k
  let rest := ps.filter fun p => !s.reserved p.l.lid p.k
  match (resv ++ rest.filter s.isGuarded).findSome? fun p => (s.choose p).map fun c => (p, c) with
  | some r => some r
  | none => s.firstPlace (rest.filter fun p => !s.isGuarded p)

/-! ### Placing a block (R11, R13, R18, R21, R223, R346) -/

/-- The next generation of a slot. -/
def State.takeSlot (s : State) (core slot : Nat) : BitVec 12 × State :=
  let g := ((s.slotGens.find? fun e => e.1 == core && e.2.1 == slot).map (·.2.2)).getD 0 + 1
  (g, { s with slotGens := (core, slot, g) :: s.slotGens.filter fun e => !(e.1 == core && e.2.1 == slot) })

/-- The warp slots in use on a core. -/
def State.usedSlots (s : State) (core : Nat) : List Nat :=
  (s.residents core).flatMap fun b => (b.warps.filter fun w => !w.released).map (·.slot)

/-- Gives each warp that has not released its slot the lowest free slot of its quad, and the slot's next generation
(R11, R118, R346). -/
def State.giveSlots (core : Nat) : List Warp → Nat → List Nat → State → List Warp × State
  | [], _, _, s => ([], s)
  | w :: rest, i, used, s =>
    if w.released then
      let (ws, s) := State.giveSlots core rest (i + 1) used s
      (w :: ws, s)
    else
    let slot := ((List.range 16).map (16 * (i % 4) + ·)).find? (fun n => !used.contains n) |>.getD (16 * (i % 4))
    let (g, s) := s.takeSlot core slot
    let (ws, s) := State.giveSlots core rest (i + 1) (slot :: used) s
    ({ w with slot := slot, gen := g } :: ws, s)

/-- A warp as it starts (R13, R18). -/
def freshWarp (threads : Vector Thread 32) (unif : List Word) (regs level : Nat) : Warp where
  threads := threads
  w := Vector.ofFn fun i : Fin 64 => if 1 ≤ i.val ∧ i.val ≤ 15 then (unif[i.val - 1]?).getD 0 else 0
  m := Vector.ofFn fun i : Fin 12 => if i.val = 0 then 0xFFFFFFFF else 0
  a := Vector.replicate 12 0
  ldc := 0
  stc := 0
  cpc := 0
  mxc := 0
  wct := 0
  backoff := 0
  wait := 0
  alloc := regs
  level := level
  slot := 0
  gen := 0
  parked := none
  note := none
  stop := .none
  stopped := 0
  liveIdx := Vector.replicate 32 0
  poison := []
  atSafe := false
  released := false

/-- Registers with the first few given. -/
def regsOf (vs : List Word) : Vector Word 128 := Vector.ofFn fun i : Fin 128 => (vs[i.val]?).getD 0

/-- The warps of a block as it starts; of a reorder bin, one warp with a deposit in each lane, the other lanes ended
(R185, R241). -/
def Launch.freshWarps (l : Launch) (k : Nat) : List Warp :=
  match l.binOf k with
  | some b =>
    let th (j : Lane) : Thread :=
      match b.payloads[j.val]? with
      | some p => newThread l.entry (regsOf [p.setWidth 32, p.extractLsb' 32 32, b.key])
      | none => newThread l.entry (zeroRegs 128)
    [(freshWarp (lanesOf th) l.unif (8 * l.regs8) 0).endLanes
      (maskOf fun j => decide (b.payloads.length ≤ j.val))]
  | none =>
    List.replicate l.warps (freshWarp (Vector.replicate 32 (newThread l.entry (regsOf l.args))) l.unif (8 * l.regs8) 0)

/-- The groups a block is a member of, ascending (R12, R223). -/
def Launch.groupsOf (l : Launch) (k : Nat) : List Nat :=
  ((l.groups.mapIdx fun i g => (i, g)).filter fun e => e.2.has k).map (·.1)

def State.freshBlock (s : State) (l : Launch) (k core : Nat) (warps : List Warp) (rail : Bool) : Block where
  bid := s.nextId
  kind := .task
  pn := l.pn
  ctx := l.ctx
  launch := l.lid
  blk := k
  core := core
  lcore := core
  cls := s.blkClass l k
  life := .placed
  resid := s.gt
  stopFor := none
  deadline := 0
  marked := false
  warps := warps
  win := []
  full := []
  bad := []
  lm := 1024 * (l.roomOf k).kb
  grps := l.groupsOf k
  seq := newSequencer
  eng := newEngineCtx
  rail := some rail
  order := s.blkOrder l k
  card := l.card
  frozen := false
  begun := false
  stash := []

/-- The cluster takes its rail at a rail point: the block's own if it has run, else the one HIGHREQ asks for (R403). -/
def State.railAt (s : State) (l : Launch) (k core : Nat) : Bool × State :=
  let cl := clusterOfCore core
  if s.railPoint cl then
    let hi := ((s.blockOf l.lid k).bind (·.rail)).getD (s.railWanted cl) && !s.fused (cl / 4)
    (hi, s.selectRail cl hi)
  else (s.railNext cl, s)

/-- A record kept for a warp is delivered again, with the warp's new handle (R349). -/
def State.redeliver (s : State) (b : Block) : State :=
  b.stash.foldl (fun s e =>
    let h := (b.warp? e.1).elim e.2.handle (handleOf b)
    s.deliver b (e.1 % 4) { e.2 with handle := h }) s

/-- A block of a frozen context is placed halted and frozen (R377). -/
def State.placeFrozen (s : State) (bid : Nat) : State :=
  s.modBlock bid fun b =>
    if (s.ctx? b.pn b.ctx).elim false (·.frozen) then { b.halt s.gt (s.hiRail b.core) with frozen := true } else b

/-- Threads come to a core from another: device lines copied there before they read a newer value serve them no more
(R263). -/
def State.newEyes (s : State) (core : Nat) : State :=
  (s.copies.filter fun c => isDeviceLoc (64 * c.line) && (c.place == s.l1Of core || c.place == .rdc (dieOfCore core))).foldl
    (fun s c => s.readHome core (64 * c.line) 64) s

/-- Places one block on a core. -/
def State.placeOne (s : State) (l : Launch) (k core : Nat) : State :=
  let (rail, s) := s.railAt l k core
  let s : State := { s with resvs := s.resvs.filter fun r => !(r.launch == l.lid && r.blk == k) }
  let s := s.modLaunch l.lid fun l => { l with late := l.late.map fun e => if e.blk == k then { e with asRes := false } else e }
  let s := s.setRunning core l.ctx false
  match s.blockOf l.lid k with
  | some b =>
    let s := if b.core = core then s else s.newEyes core
    let (ws, s) := State.giveSlots core (b.warps.map Warp.clearStop) 0 (s.usedSlots core) s
    let b' := { b with core := core, life := .placed, resid := s.gt, warps := ws }
    ((s.modBlock b.bid fun _ => { b' with stash := [] }).redeliver b').placeFrozen b.bid
  | none =>
    let (ws, s) := State.giveSlots core (l.freshWarps k) 0 (s.usedSlots core) s
    State.bump (State.placeFrozen { s with blocks := s.blocks ++ [s.freshBlock l k core ws rail] } s.nextId)

/-! ### Guarded launches (R229) -/

/-- LATE rises, and the launch is an ordinary one from then on. -/
def State.guardLate (s : State) (l : Launch) : State :=
  let g := (s.csr (.part l.pn) 0x0101).toNat
  let late := g % 65536
  (s.setCsr (.part l.pn) 0x0101 (BitVec.ofNat 32 (g - late + min 0xFFFF (late + 1)))).modLaunch l.lid
    fun l => { l with guarded := false }

/-- The price of a core for a guarded block: evictions where its context runs, or nothing does and nothing of its own is
to come back; elsewhere its context comes in, in place of another one as a whole, and OPPORTUNE blocks of its own may be
evicted once they are back. -/
def State.guardPrice (s : State) (l : Launch) : Pricing := fun core taken r =>
  let out := s.outOver core l.pn l.ctx
  if s.dieHeld (dieOfCore core) then none
  else if !s.switching core && out.isEmpty && (s.running core == some l.ctx || (s.onCore core).isEmpty) then
    s.evictions core taken r
  else
    let others := (s.onCore core).filter fun k => !(k.pn == l.pn && k.ctx == l.ctx)
    let s' : State := { s with blocks :=
      (s.blocks.filter fun b => !(others.any fun k => k.bid == b.bid)).map fun b =>
        if (out.any fun k => k.bid == b.bid) then { b with life := .running } else b }
    (s'.needOn core taken r).map (.switch (!others.isEmpty))

/-- A core comes to run a guarded context: a switch starts, or the one in progress goes there. -/
def State.switchFor (s : State) (core ctx : Nat) : State :=
  if s.switching core then
    { s with switches := s.switches.map fun w => if w.core == core then { w with into := some ctx } else w }
  else s.startSwitch core (some ctx)

/-- Takes the best unit for one block of a guarded launch, or for its four. -/
def State.guardOne (s : State) (l : Launch) (k : Nat) : Option State :=
  (s.bestUnit (s.guardPrice l) l k).map fun e =>
    (e.1.cores.zip e.2).foldl (fun s (c, g) =>
      match g with
      | .switch _ _ => s.switchFor c l.ctx
      | .evict _ => s) (s.takeUnit l e.1 e.2)

def State.guardAll (s : State) (l : Launch) : List Nat → Option State
  | [] => some s
  | k :: rest =>
    match s.guardOne l k with
    | none => none
    | some s => s.guardAll l rest

/-- Makes room for all blocks of a guarded launch that wait, or gives the guarantee up and stops nothing for it. -/
def State.guardRoom (s : State) (l : Launch) (ks : List Nat) : State := (s.guardAll l ks).getD (s.guardLate l)

/-- The first guarded launch with blocks that have no reservation; while a die of the partition is held, they only wait
(R393). -/
def State.guardWaits (s : State) (pn : Nat) : Option (Launch × List Nat) :=
  if (s.diesOf pn).any s.dieHeld then none
  else
    let ps := (s.pending pn).filter fun p => s.isGuarded p && !s.reserved p.l.lid p.k
    ps.head?.map fun p => (p.l, (ps.filter fun e => e.l.lid == p.l.lid).map (·.k))

/-! ### Contexts that come back to an idle core (log 30) -/

/-- A core with nothing resident, over which a context that runs is switched out: the standby first, else the lowest. -/
def State.idleSwitch (s : State) (pn : Nat) : Option (Nat × Nat) :=
  (s.coresOf pn).findSome? fun c =>
    if !s.dieHeld (dieOfCore c) && !s.moveOf c && !s.switching c && (s.onCore c).isEmpty then
      let cs := (List.range 16).filter fun x => s.ctxRuns pn x && !(s.outOver c pn x).isEmpty
      match numLookup s.cellar c with
      | some x => if cs.contains x then some (c, x) else cs.head?.map fun x => (c, x)
      | none => cs.head?.map fun x => (c, x)
    else none

/-! ### DISPATCH -/

/-- Places a block, or a four; while one of the cores moves they are bound to them, and placed after the move (R328). -/
def State.placeAll (s : State) (p : Pend) (ps : List (Nat × Nat)) : State :=
  if ps.any fun e => s.moveOf e.2 then
    { s with resvs := s.resvs ++ ps.map fun e => { launch := p.l.lid, blk := e.1, core := e.2, cls := p.cls, relies := [] } }
  else ps.foldl (fun s e => s.placeOne p.l e.1 e.2) s

/-- A reservation of the partition is to be decided again (R252). -/
def State.anyBroken (s : State) (pn : Nat) : Bool :=
  s.resvs.any fun r => s.broken r && (s.launch? r.launch).elim false fun l => l.pn == pn

/-- What the dispatcher does next, if anything: what no longer stands is decided again, guarded launches come first, then
the order of R221. -/
def State.dispatchStep (s : State) (pn : Nat) : Option State :=
  if s.anyBroken pn then some s.redecide.unhold
  else
    match s.guardWaits pn with
    | some (l, ks) => some (s.guardRoom l ks).unhold
    | none =>
      match s.nextPlace pn with
      | some (p, ps) => some (s.placeAll p ps).unhold
      | none => (s.idleSwitch pn).map fun e => s.startSwitch e.1 (some e.2)

/-- DISPATCH: one placement of the order of R221, and what comes with it. -/
def execDispatch (pn : Nat) (s : State) : Result := .next ((s.dispatchStep pn).getD s)

end Sys2Proof.Machine
end

