-- ==== Sys2Proof/Machine/Context.lean ====
section
/-! DEFINITION. Contexts: creation, teardown, suspension, slices and switches; handler invocations and notifications
(spec/18_launch_contexts_faults.md, R330, R340 to R342, R347, R351; spec/21_partitions.md, R386, R417). -/

namespace Sys2Proof.Machine

/-! ### Switches (R341, R342) -/

/-- The contexts that may be the standby after a switch: the next in the order of R341 among those then switched out over
the core, else the outgoing one, else the one that is. -/
def State.standbys (s : State) (pn core : Nat) (w : Switch) (bs : List Block) : List Nat :=
  let out (c : Nat) : Bool := w.into != some c && ((w.out == some c && !bs.isEmpty) || !(s.outOver core pn c).isEmpty)
  let from' := w.into.getD (w.out.getD 0)
  let order := (List.range 16).map fun i => (from' + i + 1) % 16
  ((order.find? fun c => out c && s.ctxRuns pn c).toList ++ w.out.toList ++ (numLookup s.cellar core).toList).filter out

/-- With a context as the standby, the save areas take what else has to leave the core or the cellar (R340). -/
def State.standbyFits (s : State) (pn core : Nat) (w : Switch) (bs : List Block) (c : Nat) : Bool :=
  (w.out.elim true fun o => o == c || s.saveRoom pn o bs) &&
    ((numLookup s.cellar core).elim true fun x => x == c || w.into == some x || s.saveRoom pn x (s.outOver core pn x))

/-- What the cellar over the core holds after a switch, where the switch finds room for what it takes out (R340, R341). -/
def State.standby (s : State) (pn core : Nat) (w : Switch) (bs : List Block) : Option (Option Nat) :=
  match s.standbys pn core w bs with
  | [] => some none
  | cs => (cs.find? (s.standbyFits pn core w bs)).map some

/-- The state of a block is saved: it is switched out, halted or not (R246). -/
def State.switchOut (s : State) (b : Block) : State :=
  let s := ((s.leaveEngine b).undefine b).dropLineBufs b.core
  s.modBlock b.bid fun b =>
    let halted := b.life == .halted
    { b with life := .switchedOut halted, stopFor := if halted then some .halt else none }

/-- The state of a block is restored; a halt released while it was out makes its arrivals now (R199, R236). -/
def Block.switchIn (b : Block) : Block :=
  match b.life with
  | .switchedOut true => { b with life := .halted }
  | _ => { b with life := .running, warps := b.warps.map Warp.goOn }

/-- The rail condition for the blocks that come back (R403). -/
def State.backOk (s : State) (core : Nat) (bs : List Block) : Bool :=
  bs.all fun b => b.rail.elim true (s.railTakes (clusterOfCore core))

/-- Brings a context's blocks back on a core; those marked meanwhile stop for their eviction (R229, R251). -/
def State.bringBack (s : State) (core pn ctx : Nat) : State :=
  let bs := s.outOver core pn ctx
  if s.backOk core bs then
    let s := match bs.findSome? (·.rail) with
      | some hi => if s.railPoint (clusterOfCore core) then s.selectRail (clusterOfCore core) hi else s
      | none => s
    (State.setRunning { s with
      blocks := s.blocks.map fun b => if (bs.any fun k => k.bid == b.bid) then b.switchIn else b } core ctx true).resumeMarks bs
  else s

/-- The switch is not made: the blocks run on, or stop for an eviction asked for meanwhile (R251, R340). -/
def State.cancelSwitch (s : State) (core : Nat) : State :=
  State.resumeMarks { s with
    switches := s.switches.filter fun w => w.core != core
    blocks := s.blocks.map fun b =>
      if b.core == core && b.stopFor == some .switch then
        if b.life = .halted then { b with stopFor := some .halt }
        else { b with life := .running, stopFor := none, warps := b.warps.map Warp.clearStop }
      else b } (s.onCore core)

/-- CONTEXT_SWITCH_COMPLETE (R342). -/
def execContextSwitchComplete (core : Nat) (s : State) : Result :=
  match s.switches.find? fun w => w.core == core with
  | none => .next s
  | some w =>
    let pn := s.pnOfDie (dieOfCore core)
    let bs := s.onCore core
    if s.moveOf core || !(bs.all fun b => s.stopDone b) then .next s
    else
      match s.standby pn core w bs with
      | none => .next (s.cancelSwitch core).unhold
      | some c =>
      let s := (bs.foldl State.switchOut s).markTrace core
      let s : State := { s with
        switches := s.switches.filter fun w => w.core != core
        coreCtx := numErase s.coreCtx core
        cellar := c.elim (numErase s.cellar core) (numSet s.cellar core) }
      .next ((match w.into with
        | some c => if s.ctxRuns pn c then s.bringBack core pn c else s
        | none => s).settleLocks.unhold)

/-- The next context in ascending number with wrap-around that has work for the core (R341). -/
def State.nextCtx (s : State) (pn core cur : Nat) : Option Nat :=
  ((List.range 15).map fun i => (cur + i + 1) % 16).find? fun c =>
    s.ctxRuns pn c &&
      (!(s.outOver core pn c).isEmpty || (s.pending pn).any fun p => p.l.ctx == c && (s.coreSetOf p.l p.k).contains core)

/-- A period of slices, in ns: SLICE × 1,000. -/
def State.slicePeriod (s : State) (pn : Nat) : Nat := 1000 * max 50 ((s.csr (.part pn) 0x0400).toNat % 65536)

/-- Some multiple of the period lies after the last GT considered (R319, R341, R379). -/
def tickDue (period last gt : Nat) : Bool := decide (last / period < gt / period)

def State.sliceDue (s : State) (pn : Nat) : Bool :=
  tickDue (s.slicePeriod pn) ((numLookup s.sliced pn).getD 0) s.gt

/-- One core at a slice. -/
def State.sliceCore (pn : Nat) (s : State) (core : Nat) : State :=
  match s.running core with
  | none => s
  | some cur =>
    if s.dieHeld (dieOfCore core) || s.switching core || s.guardCtx pn == some cur then s
    else (match s.nextCtx pn core cur with | some c => s.startSwitch core (some c) | none => s)

/-- SLICE_TICK (R341). -/
def execSliceTick (pn : Nat) (s : State) : Result :=
  if s.sliceDue pn then
    let s : State := { s with sliced := numSet s.sliced pn s.gt }
    .next (if (s.csr (.part pn) 0x0400).getLsbD 31 then ((s.coresOf pn).foldl (State.sliceCore pn) s).unhold else s)
  else .next s

/-! ### Creating, suspending, tearing down (R330, R340, R386) -/

/-- A context that does not exist yet. -/
def freshCtx (pn ctx : Nat) : Context where
  pn := pn
  ctx := ctx
  valid := false
  susp := false
  ptroot := 0
  save := 0
  savesz := 0
  caps := []
  frozen := false

/-- Changes a context, which is made first if it has never been named. -/
def State.setCtx (s : State) (pn ctx : Nat) (f : Context → Context) : State :=
  match s.ctx? pn ctx with
  | some _ => s.modCtx pn ctx f
  | none => { s with ctxs := s.ctxs ++ [f (freshCtx pn ctx)] }

/-- A range of device memory that lies in the partition's regions. -/
def State.ownsRange (s : State) (pn a n : Nat) : Bool :=
  decide (a + n ≤ deviceBytes) &&
    (n == 0 || ((List.range ((a + n - 1) / regionBytes + 1 - a / regionBytes)).all fun i =>
      s.pnOfDie (a / regionBytes + i) == pn))

/-- CTX_CREATE: VALID ← 1, unless the descriptor is not as R340 and R386 say; the first such write closes the boot
window (R417). -/
def execCtxCreate (pn ctx : Nat) (s : State) : Result :=
  let s : State := { s with booted := true }
  let a := s.csrAddr (.part pn) (0x0410 + 2 * ctx)
  let f (o : Nat) : Nat := s.load (s.devLoc a + o) 8
  let ok := s.ownsRange pn a 32 && f 0 % 65536 == 0 && f 8 % 65536 == 0 && f 24 == 0 &&
    s.ownsRange pn (f 0) 65536 && (f 16 == 0 || s.ownsRange pn (f 8) (f 16))
  if ok && !((s.ctx? pn ctx).elim false (·.valid)) then
    .next (s.setCtx pn ctx fun c =>
      { c with valid := true, ptroot := f 0, save := f 8, savesz := f 16, frozen := false }).unhold
  else .next s

/-- Cores whose running context is c. -/
def State.coresRunning (s : State) (pn ctx : Nat) : List Nat :=
  (s.coresOf pn).filter fun c => s.running c == some ctx

/-- CTX_SUSPEND: a suspended context is switched out on every core; one that is not may come back (R330). -/
def execCtxSuspend (pn ctx : Nat) (on : Bool) (s : State) : Result :=
  let s := s.setCtx pn ctx fun c => { c with susp := on }
  if on then
    .next ((s.coresRunning pn ctx).foldl (fun s c =>
      if s.switching c then s else s.startSwitch c (s.nextCtx pn c ctx)) s).unhold
  else .next s.unhold

/-- Unread packets of the context's queues are discarded, HEAD set to TAIL. -/
def State.discardPackets (s : State) (pn ctx : Nat) : State :=
  ((s.ranIn pn).flatMap fun d => (List.range 64).map fun n => (d, n)).foldl (fun s (d, n) =>
    let q := s.queueDesc d n
    if q.ok ∧ q.ctx = ctx ∧ q.head ≠ q.tail then
      (s.writeOwn (q.loc + 16) 8 (cellsAt (q.loc + 16) 8 q.tail)).noteQueue d n q.tail q.tail
    else s) s

/-- Steps 1 to 6 of a teardown (R340). -/
def State.teardown (s : State) (pn ctx : Nat) : State :=
  let mine (b : Block) : Bool := b.pn == pn && b.ctx == ctx && !b.isSteward
  let bs := s.blocks.filter mine
  let s := (bs.flatMap Block.sleepGroups).foldl State.withdrawWq s
  let s := s.cancelCmds fun c => c.pn == pn && c.ctx == ctx
  let s := bs.foldl (fun s b => s.cardRetire b) s
  let s := bs.foldl (fun s b =>
    let e := s.engine b.cluster
    let s := (e.ofBlock b.bid).foldl (fun s m => s.dropReq (.matrix m.id)) s
    s.setEngine { e with
      owner := if e.owner = some b.bid then none else e.owner
      entries := e.entries.filter fun m => m.bid != b.bid
      waiting := e.waiting.filter (· != b.bid) }) s
  let ls := s.launches.filter fun l => l.pn == pn && l.ctx == ctx && l.live
  let s := bs.foldl (fun s b => s.closeBlock b.bid) s
  let s : State := { s with
    records := s.records.filter fun r => !(dieOfCore r.1 < 4 && s.pnOfDie (dieOfCore r.1) == pn &&
      r.2.2.handle.toNat / 2 ^ 28 == ctx)
    resvs := s.resvs.filter fun r => !(ls.any fun l => l.lid == r.launch)
    bins := s.bins.filter fun b => !(b.card.pn == pn && b.card.ctx == ctx)
    switches := s.switches.map fun w => if s.pnOfDie (dieOfCore w.core) = pn && w.into == some ctx then
      { w with into := none } else w
    cellar := s.cellar.filter fun e => !(s.pnOfDie (dieOfCore e.1) == pn && e.2 == ctx) }
  let s := ls.foldl (fun s l =>
    ((s.modLaunch l.lid fun l => { l with state := .torn, ords := [], endGt := s.gt }).headPassed l).writeDone l 3 0) s
  let s := s.discardPackets pn ctx
  let s := (s.modCtx pn ctx fun c => { c with valid := false, caps := [] }).unbindCards
  { s with
    tlb := s.tlb.filter fun t => !(t.pn == pn && t.ctx == ctx)
    lineBufs := s.lineBufs.filter fun b => !(b.pn == pn && b.ctx == ctx) }

/-- CTX_TEARDOWN: VALID ← 0. -/
def execCtxTeardown (pn ctx : Nat) (s : State) : Result :=
  match s.ctx? pn ctx with
  | some c => .next (if c.valid then (s.teardown pn ctx).settleLocks.unhold else s)
  | none => .next s

/-! ### Handlers (R347) -/

/-- The handler slot of a quad is in use. -/
def State.handlerBusy (s : State) (core quad : Nat) : Bool :=
  s.blocks.any fun b => b.core == core && b.resident && (match b.kind with | .handler _ q _ => q == quad | _ => false)

/-- The record that would start an invocation: the oldest of the quad, of the core's running context. -/
def State.nextRecord (s : State) (core quad : Nat) : Option TrapRecord :=
  (s.records.find? fun r => r.1 == core && r.2.1 == quad &&
    s.running core == some (r.2.2.handle.toNat / 2 ^ 28)).map (·.2.2)

def State.invocationReady (s : State) (core quad : Nat) : Bool :=
  s.handlerOn (s.pnOfDie (dieOfCore core)) && !s.handlerBusy core quad && !s.switching core && !s.moveOf core &&
    (s.nextRecord core quad).isSome

/-- The handler warp of an invocation: v0 to v15 hold the record, all other state is zero. -/
def handlerWarp (entry : DWord) (r : TrapRecord) (slot : Nat) (gen : BitVec 12) : Warp :=
  { freshWarp (Vector.replicate 32 (newThread entry (regsOf r.words))) [] 32 1 with
    m := Vector.replicate 12 0
    slot := slot
    gen := gen }

def State.handlerEntry (s : State) (pn : Nat) : DWord :=
  BitVec.ofNat 64 (s.csrAddr (.part pn) 0x03D4 / 4 * 4)

/-- HANDLER_INVOCATION_START. -/
def execHandlerInvocationStart (core quad : Nat) (s : State) : Result :=
  match s.nextRecord core quad with
  | none => .next s
  | some r =>
    if s.invocationReady core quad then
      let pn := s.pnOfDie (dieOfCore core)
      let ctx := r.handle.toNat / 2 ^ 28
      let (g, s) := s.takeSlot core (64 + quad)
      let w := handlerWarp (s.handlerEntry pn) r (16 * quad) g
      let b : Block :=
        { bid := s.nextId, kind := .handler core quad (some r), pn := pn, ctx := ctx, launch := s.nextId, blk := 0
          core := core, lcore := core, cls := 3, life := .running, resid := s.gt, stopFor := none, deadline := 0, marked := false
          warps := [w], win := [], full := [], bad := [], lm := 0, grps := [], seq := newSequencer, eng := newEngineCtx, rail := none
          order := s.nextId, card := none, frozen := false, begun := true, stash := [] }
      .next (State.bump { s with
        records := s.records.erase (core, quad, r)
        blocks := s.blocks ++ [b] }).unhold
    else .next s

/-! ### Warps by handle, and notifications (R346, R351) -/

/-- The block is resident or switched out: handles of its warps stand. -/
def Block.present (b : Block) : Bool :=
  match b.life with
  | .switchedOut _ => true
  | _ => b.resident

/-- The warp a handle names in a partition: its slot not released, its block neither evicted nor retired. -/
def State.namedWarp (s : State) (pn : Nat) (h : Word) : Option (Block × Nat) :=
  s.blocks.findSome? fun b =>
    if b.pn == pn && b.present && !b.isSteward then
      (b.warps.findIdx? fun w => handleOf b w == h && !w.released).map fun i => (b, i)
    else none

/-- NOTE_SEND: a value to the warp of a handle, or one more NOTE_DROP. -/
def execNoteSend (core : Nat) (handle : Word) (s : State) : Result :=
  let pn := s.pnOfDie (dieOfCore core)
  let v := s.csr (.core core) 0x03D8
  let drop := s.csr (.part pn) 0x03DA
  let dropped := s.setCsr (.part pn) 0x03DA (if drop.toNat = 2 ^ 32 - 1 then drop else drop + 1)
  if handle.getLsbD 12 then .next dropped
  else
    match s.namedWarp pn handle with
    | none => .next dropped
    | some (b, i) =>
      match b.warp? i with
      | none => .next dropped
      | some w =>
        if allLanes.all fun l => (w.thread l).ended then .next dropped
        else .next (s.modWarp b.bid i fun w => { w with note := some (w.note.getD 0 ||| v), atSafe := w.note.isSome && w.atSafe }).unhold

/-- The warp is at a safe point: it has issued one since, or every thread that has not ended is asleep. -/
def Warp.noteReady (w : Warp) : Bool :=
  w.note.isSome && w.parked.isNone && w.stop == .none && !w.released &&
    (w.atSafe || allLanes.all fun l => (w.thread l).ended || (w.thread l).asleep.isSome)

/-- The record of a notification (R348, R351). -/
def noteRecord (s : State) (b : Block) (w : Warp) (v : Word) : TrapRecord where
  code := 0
  sub := 0
  kind := 1
  lane := 0
  handle := handleOf b w
  pc := ((allLanes.find? fun l => !(w.thread l).ended).map fun l => (w.thread l).pc).getD 0
  addr := 0
  detail := v
  lanes := 0
  gt := BitVec.ofNat 64 s.gt
  word := 0
  hint := 0
  blk := BitVec.ofNat 32 (b.blk % 2 ^ 24)
  kern := kernOf s b

/-- NOTIFICATION_DELIVER: the target parks, and its record goes to its handler. -/
def execNotificationDeliver (bid warp : Nat) (s : State) : Result :=
  match s.block? bid with
  | none => .next s
  | some b =>
    match b.warp? warp with
    | none => .next s
    | some w =>
      if w.noteReady && (b.life == .running || b.life == .placed) then
        let r := noteRecord s b w (w.note.getD 0)
        let s := s.modWarp bid warp fun w =>
          { w with note := none, atSafe := false, parked := some ⟨~~~w.endedMask, 4, r⟩ }
        .next (s.deliver b (w.slot / 16) r).unhold
      else .next s

end Sys2Proof.Machine
end

