-- ==== Sys2Proof/Machine/Churn.lean ====
section
/-! DEFINITION. Churn: the ticks of the islands, and the move of a hot cluster onto the dark one (spec/17_churn.md, R318 to
R329). -/

namespace Sys2Proof.Machine

/-! ### The locality map (R321) -/

def State.locmap (s : State) (island : Nat) : Nat := (s.csr (.die (island / 8)) (0x0228 + island)).toNat

def State.setLocmap (s : State) (island v : Nat) : State :=
  s.setCsr (.die (island / 8)) (0x0228 + island) (BitVec.ofNat 32 v)

/-- DARK, and the physical cluster of logical position j. -/
def locDark (m : Nat) : Nat := m / 2 ^ 27 % 8
def locPhys (m j : Nat) : Nat := m / 8 ^ j % 8

/-- MOVING as given. -/
def locMoving (m : Nat) (on : Bool) : Nat := m / 2 ^ 31 * 2 ^ 31 + (if on then 2 ^ 30 else 0) + m % 2 ^ 30

/-- The map after a move of position j: Pj and DARK change places, MOVES rises modulo 4,096, MOVING is clear. -/
def locSwitched (m j : Nat) : Nat :=
  let p := locPhys m j
  let d := locDark m
  let moves := (m / 2 ^ 12 + 1) % 4096
  let pos := m % 2 ^ 12 + d * 8 ^ j - p * 8 ^ j
  m / 2 ^ 31 * 2 ^ 31 + p * 2 ^ 27 + moves * 2 ^ 12 + pos

/-! ### Ticks (R318, R319) -/

/-- INTERVAL of a die in ns. -/
def State.churnPeriod (s : State) (die : Nat) : Nat :=
  1000 * max 250 (min 4000 ((s.csr (.die die) 0x0220).toNat % 4096))

/-- Ticks of an island at a GT of at most t. -/
def churnTicks (island period t : Nat) : Nat :=
  let off := island * period / 32
  if t < off then 0 else (t - off) / period + 1

def State.churnDue (s : State) (island : Nat) : Bool :=
  let p := s.churnPeriod (island / 8)
  decide (churnTicks island p ((numLookup s.ticked island).getD 0) < churnTicks island p s.gt)

/-- The last temperature of a physical cluster of an island, in steps of 0.25 °C. -/
def State.clusterTemp (s : State) (island phys : Nat) : Int := (s.teleOf (5 * island + phys) 7).toInt

/-- The logical position of the hottest active cluster, ties to the lowest physical index. -/
def State.hottest (s : State) (island : Nat) : Nat :=
  let m := s.locmap island
  (List.range 4).foldl (fun h j =>
    let t (k : Nat) := s.clusterTemp island (locPhys m k)
    if t h < t j ∨ (t j = t h ∧ locPhys m j < locPhys m h) then j else h) 0

/-- A context switch is in progress on a core of the island. -/
def State.islandSwitching (s : State) (island : Nat) : Bool := s.switches.any fun w => islandOfCore w.core == island

/-- Nothing keeps the island from moving at this tick. -/
def State.mayMove (s : State) (island : Nat) : Bool :=
  (s.csr (.die (island / 8)) 0x0220).getLsbD 31 && !s.fused island && locDark (s.locmap island) < 5 &&
    !s.dieHeld (island / 8) && !s.islandSwitching island && !(s.moves.any fun m => m.island == island)

/-- The difference of R319: 6 °C, in steps of 0.25 °C. -/
def State.hotEnough (s : State) (island : Nat) : Bool :=
  let m := s.locmap island
  decide (s.clusterTemp island (locPhys m (s.hottest island)) - s.clusterTemp island (locDark m) ≥ 24)

/-- The stop request of a move: blocks already stopped or halted keep their state until they move, and a block that is
Placed stays Placed unless it comes to run first (R322, R246). -/
def State.stopForMove (s : State) (island pos : Nat) : State :=
  let stop (b : Block) : Block :=
    if clusterOfCore b.core == 4 * island + pos && (b.life == .running || b.life == .placed) && b.stopFor.isNone &&
        !b.isSteward then
      { b.askStop .churn s.gt (s.hiRail b.core) with life := if b.life = .placed then .placed else .stopped }
    else b
  State.settleLocks { s with blocks := s.blocks.map stop }

/-- Step 1 of R322. -/
def State.startMove (s : State) (island pos : Nat) : State :=
  let m := s.locmap island
  let s : State := { s with moves := s.moves ++
    [{ island := island, pos := pos, src := locPhys m pos, dst := locDark m, sent := false }] }
  (List.range 4).foldl (fun s c => s.markTrace (16 * island + 4 * pos + c))
    ((s.setLocmap island (locMoving m true)).stopForMove island pos)

/-- The temperatures of the five physical clusters of an island are sampled: free values (R319, R411; log 4). -/
def State.sampleTemps (s : State) (island : Nat) : State :=
  (List.range 5).foldl (fun s k => let (v, s) := s.drawBits; s.setTele (5 * island + k) 7 (v.setWidth 32)) s

/-- CHURN_TICK (R319): a tick that may not move is retried at the next. -/
def execChurnTick (island : Nat) (s : State) : Result :=
  if s.churnDue island then
    let s : State := State.sampleTemps { s with ticked := numSet s.ticked island s.gt } island
    if s.mayMove island && s.hotEnough island then .next (s.startMove island (s.hottest island)).unhold else .next s
  else .next s

/-! ### The move (R322 to R328) -/

/-- Blocks and handler warps resident on the cluster of a move. -/
def State.movers (s : State) (m : Move) : List Block :=
  (List.range 4).flatMap fun c => s.onCore (16 * m.island + 4 * m.pos + c)

/-- A STEP that began before the move is still in progress on the cluster: its word is at an instruction boundary once it
is over (R200, R322). -/
def State.stepping (s : State) (m : Move) : Bool :=
  s.stepReq.elim false fun r => r.started && (s.movers m).any fun b => b.bid == r.tbid

/-- Steps 1 to 4 are over: every warp has stopped and drained, and granted operations are complete. -/
def State.moveReady (s : State) (m : Move) : Bool :=
  !s.stepping m &&
  (s.movers m).all fun b => (b.life == .halted || b.stopFor == some .churn) && s.stopDone b

/-- A block is moving; the halt of a halted one travels with it. -/
def Block.travel (b : Block) : Block :=
  if b.life = .placed then b
  else { b with life := .moving, stopFor := if b.life = .halted then some .halt else some .churn }

/-- CHURN_MOVE_TRANSFER: step 5.  A stopped warp carries what its stop saves (R323). -/
def execChurnMoveTransfer (island : Nat) (s : State) : Result :=
  match s.moves.find? fun m => m.island == island && !m.sent with
  | none => .next s
  | some m =>
    if s.moveReady m then
      let bs := s.movers m
      let s : State := bs.foldl State.undefine s
      .next (bs.foldl (fun (s : State) b => s.modBlock b.bid Block.travel)
        { s with moves := s.moves.map fun k => if k.island == island then { k with sent := true } else k }).unhold
    else .next s

/-- A block resumes in the state it held before the move; a notification waits for the next safe point (R328). -/
def Block.arrive (b : Block) : Block :=
  let b := { b with warps := b.warps.map fun w => { w with atSafe := false } }
  if b.life = .moving then
    if b.stopFor = some .halt then { b with life := .halted }
    else { b with life := .running, stopFor := none, warps := b.warps.map Warp.clearStop }
  else if b.life = .placed then { b with stopFor := none, warps := b.warps.map Warp.clearStop }
  else b

/-- The vacated L1s and TLBs, their exclusive leases and line buffers are emptied (R294, R322, R327). -/
def State.vacate (s : State) (cluster : Nat) : State :=
  let cores := (List.range 4).map fun c => 4 * cluster + c
  let l1s := cores.map s.l1Of
  { s with
    copies := s.copies.filter fun c => !l1s.contains c.place
    tlb := s.tlb.filter fun t => !(cores.any fun c => s.tlbsOf (some c) t.place)
    xleases := s.xleases.filter fun x => clusterOfCore x.core != cluster
    lineBufs := s.lineBufs.filter fun e => !(cores.any fun c => s.physCore c == e.core) }

/-- Step 6: D takes the rail of H (R320), the map switches, MOVES rises. -/
def State.switchMap (s : State) (m : Move) : State :=
  let base := 5 * m.island
  let rest := s.rails.filter fun p => p != base + m.src && p != base + m.dst
  let s : State := { s with
    moves := s.moves.filter fun k => k.island != m.island
    rails := if s.rails.contains (base + m.src) then (base + m.dst) :: rest else rest }
  s.setLocmap m.island (locSwitched (s.locmap m.island) m.pos)

/-- What waited for the end of the move: evictions that were asked for, and context switches (R328). -/
def State.afterMove (s : State) (bs : List Block) (cluster : Nat) : State :=
  let s := s.resumeMarks bs
  (s.switches.filter fun w => clusterOfCore w.core == cluster).foldl (fun s w => s.stopForSwitch w.core) s

/-- CHURN_MOVE_COMPLETE: step 6. -/
def execChurnMoveComplete (island : Nat) (s : State) : Result :=
  match s.moves.find? fun m => m.island == island && m.sent with
  | none => .next s
  | some m =>
    let cluster := 4 * island + m.pos
    let bs := s.movers m
    let s := (s.vacate cluster).switchMap m
    let s := bs.foldl (fun s b => s.modBlock b.bid Block.arrive) s
    let s := (List.range 4).foldl (fun s c => s.markTrace (4 * cluster + c)) s
    .next ((s.afterMove bs cluster).settleLocks.unhold)

end Sys2Proof.Machine
end

