-- ==== Sys2Proof/Machine/Hints.lean ====
section
/-! DEFINITION. Hint words, hint misuse, and words that are no instruction (spec/03_formats_and_assembly.md, R67 to R71;
spec/04_opcode_map.md, R81; spec/08_isa_engines_system.md, R205, R206). -/

namespace Sys2Proof.Machine

/-! ### What a word accepts (R68, R69) -/

/-- Majors with an immediate that HIMM widens: F.I, F.I2, F.PI, F.L, F.M, F.B, F.G. -/
def immMajor (m : Nat) : Bool :=
  m == 0x0C || m == 0x07 || m == 0x0E || m == 0x12 || (0x24 ≤ m && m ≤ 0x2A) || m == 0x15 || m == 0x16 || m == 0x17

/-- The word accepts the hint (R68). -/
def hintAccepted (h w : Word) : Bool :=
  let m := (majorOf w).toNat
  if reservedMajor m || m == 0x3F then false
  else
    match decode h with
    | .ok (.himm _) => immMajor m
    | .ok (.hgrd _ _) => guardedMajor m && guardField w == 7
    | .ok (.hfmd _ _ _) =>
      (m == 0x0D && (FP.unpack w).kind) || (0x19 ≤ m && m ≤ 0x20) || (m == 0x22 && 2 ≤ (FR.unpack w).f.toNat)
    | .ok (.hpol np sc al) =>
      (0x24 ≤ m && m ≤ 0x31) &&
      (!np || (m == 0x31 && (FC.unpack w).f.toNat ≤ 1)) &&
      (sc.isNone || m == 0x28 || m == 0x29) &&
      (al == .default || m ≤ 0x30)
    | .ok (.hsch _) => true
    | .ok (.hprd _ _) => m == 0x10 && (FR.unpack w).f == 0
    | _ => false

/-- A pair that is a hint misuse. -/
def Issue.misuse (i : Issue) : Bool := match i.hint with | some h => !hintAccepted h i.word | none => false

/-! ### Hint words -/

/-- A hint joins the word after it: the issue stays open, its word now the hint; a hint after a hint is a misuse. -/
def hintWord (s : State) : Result :=
  withIssue s none fun x =>
    match x.i.hint with
    | none => .next { x.s with issue := some { x.i with hint := some x.i.word } }
    | some _ => x.trapAll { code := .illegal, sub := 2 }

def execHimm (_p : BitVec 22) (s : State) : Result := hintWord s
def execHgrd (_n : Bool) (_p : PReg) (s : State) : Result := hintWord s
def execHfmd (_f _z : Bool) (_r : RMode) (s : State) : Result := hintWord s
def execHpol (_n : Bool) (_sc : Option Scope) (_a : Alloc) (s : State) : Result := hintWord s
def execHsch (_p : BitVec 22) (s : State) : Result := hintWord s
def execHprd (_n : Bool) (_p : PReg) (s : State) : Result := hintWord s

/-! ### Words that are no instruction (R70, R81) -/

/-- The sub-code of the failing step of R70. -/
def illegalSub (w : Word) : Byte :=
  match decode w with
  | .error .zeroField => 1
  | .error .hintMisuse => 2
  | _ => 0

/-- A word that does not decode, or a pair that is a hint misuse: ILLEGAL.  A guarded word that no thread would execute
is a no-op unless its hint is misused; a malformed hint joins the word after it, and the pair is the misuse. -/
def execIllegalWord (w : Word) (s : State) : Result :=
  withIssue s (if guardedMajor (majorOf w).toNat then some (guardField w) else none) fun x =>
    let all : Exec := { x with act := x.i.lanes }
    if x.i.misuse then all.trapAll { code := .illegal, sub := 2 }
    else if majorOf w = 0x3F ∧ x.i.hint.isNone then
      .next { x.s with issue := some { x.i with hint := some x.i.word } }
    else if x.act = 0 then x.orTrap [] [] (.next (x.commit id))
    else x.trapAll { code := .illegal, sub := illegalSub w }

end Sys2Proof.Machine
end

