-- ==== Sys2Proof/Machine/Trace.lean ====
section
/-! DEFINITION. Lane-cycle trace and the trigger state (spec/20_debug_trace.md, R372, R376, R377, R379, R380). -/

namespace Sys2Proof.Machine

/-! ### What a word adds to the counts (R379) -/

/-- The byte addresses of the global accesses of a load, store or atomic word, one for each active lane. -/
def Exec.globalBytes (x : Exec) : List Nat :=
  let w := x.i.word
  let m := (majorOf w).toNat
  let at' (f : Thread → DWord) : List Nat := (lanesIn x.act).map fun l => (f (x.w.thread l)).toNat
  if m = 0x24 ∨ m = 0x25 ∨ m = 0x28 ∨ m = 0x29 then
    let r := FM.unpack w
    at' fun t => gaddr x t r.b r.o (sizeBytes (Size.ofCode r.s))
  else if 0x2B ≤ m ∧ m ≤ 0x2F then at' fun t => t.get2 (FR.unpack w).a
  else if m = 0x30 then at' fun t => t.get2 (FC.unpack w).d
  else []

/-- A count that saturates at 2^32 − 1. -/
def satAdd (n k : Nat) : Nat := min (2 ^ 32 - 1) (n + k)

/-- The bin of an address, if it lies in one. -/
def State.binOfAddr (s : State) (sc : CsrScope) (a : Nat) : Option Nat :=
  let base := s.csrAddr sc 0x0654
  let k := (a - base) / 2 ^ ((s.csr sc 0x0656).toNat % 64)
  if base ≤ a ∧ k < 8 then some k else none

/-- Counts a word that has issued in state s, in the state after it. -/
def State.traceIssue (s : State) (i : Issue) (after : State) : State :=
  match s.block? i.bid with
  | none => after
  | some b =>
    match b.warp? i.w with
    | none => after
    | some w =>
      let x : Exec := ⟨s, i, b, w, activeMask i w (wordGuard i.word)⟩
      let sc := CsrScope.ctx b.pn b.ctx
      let bins := x.globalBytes.filterMap (s.binOfAddr sc)
      after.modTrace b.core b.ctx fun t => { t with
        issue := satAdd t.issue 1
        lanes := satAdd t.lanes (lanesIn x.act).length
        bins := t.bins.mapIdx fun k n => satAdd n (bins.filter (· == k)).length }

/-! ### Records (R379) -/

/-- The period of a context in ns. -/
def State.tracePeriod (s : State) (pn ctx : Nat) : Nat :=
  1000 * max 1 ((s.csr (.ctx pn ctx) 0x0652).toNat % 65536)

/-- A period has ended for the context on the core. -/
def State.traceOver (s : State) (t : TraceCount) : Bool :=
  tickDue (s.tracePeriod (s.pnOfDie (dieOfCore t.core)) t.ctx) t.since s.gt

/-- The record of a period that ended at `gt`; the idle counts are free values (log 36). -/
def State.writeTrace (s : State) (pn : Nat) (t : TraceCount) (gt : Nat) : State :=
  let sc := CsrScope.ctx pn t.ctx
  let ctl := s.csr sc 0x0652
  let cap := 2 ^ max 4 (ctl.toNat / 2 ^ 16 % 16)
  let tail := s.csr sc 0x0653
  let s := s.sysRelease (dieOfCore t.core) pn t.ctx
  let (idle, s) := s.drawBits
  match s.translate (some t.core) pn t.ctx (s.csrAddr sc 0x0650 + 64 * (tail.toNat % cap)) .write with
  | .error _ => s
  | .ok p =>
    let s := s.writeOwn p.loc 64
      (cellsAt p.loc 8 gt ++
        cellsAt (p.loc + 8) 8 (t.core - 128 * pn + 2 ^ 16 * t.ctx + (if t.moved then 2 ^ 24 else 0) + 2 ^ 32 * t.issue) ++
        cellsAt (p.loc + 16) 4 t.lanes ++ cellsAt (p.loc + 20) 12 (idle.toNat % 2 ^ 96) ++
        (t.bins.mapIdx fun k n => cellsAt (p.loc + 32 + 4 * k) 4 n).flatten)
    let s := s.setCsr sc 0x0653 (tail + 1)
    if !ctl.getLsbD 30 && (tail.toNat + 1) % cap == 0 then
      (s.setCsr sc 0x0652 (ctl &&& 0x7FFFFFFF#32)).dbgEvent pn t.ctx 0 12
    else s

/-- Ends a period of one context on one core: its counts begin again while the context runs there. -/
def State.endPeriod (s : State) (t : TraceCount) : State :=
  let pn := s.pnOfDie (dieOfCore t.core)
  let p := s.tracePeriod pn t.ctx
  let on := (s.csr (.ctx pn t.ctx) 0x0652).getLsbD 31
  let ended := if on then (t.since / p + 1) * p else s.gt / p * p
  let rest := s.traces.filter fun k => !(k.core == t.core && k.ctx == t.ctx)
  let again : List TraceCount :=
    if s.running t.core = some t.ctx then
      [{ t with since := ended, issue := 0, lanes := 0, bins := List.replicate 8 0, moved := false }]
    else []
  let s : State := { s with traces := rest ++ again }
  if on then s.writeTrace pn t ended else s

/-- TRACE_PERIOD: the period ends that are due on a core. -/
def execTracePeriod (core : Nat) (s : State) : Result :=
  .next ((s.traces.filter fun t => t.core == core && s.traceOver t).foldl State.endPeriod s)

/-! ### TRIG_STAT (R372, R377) -/

/-- The context whose debug registers a partition reaches. -/
def State.dbgSel (s : State) (pn : Nat) : Nat := (s.csr (.part pn) 0x0600).toNat % 16

/-- A write sets STATE, clears CNT, and ends a freeze. -/
def State.setTrigger (s : State) (pn ctx : Nat) (v : Word) : State :=
  (s.setCsr (.ctx pn ctx) 0x063C (v &&& 0xC0000000#32)).modCtx pn ctx fun c => { c with frozen := false }

/-- TRIG_STAT_WRITE, by a warp of the core. -/
def execTrigStatWrite (core : Nat) (v : Word) (s : State) : Result :=
  let pn := s.pnOfDie (dieOfCore core)
  .next (s.setTrigger pn (s.dbgSel pn) v).unhold

end Sys2Proof.Machine
end

