-- ==== Sys2Proof/Machine/Part.lean ====
section
/-! DEFINITION. Partitions: PART_MAP, MEM_IVL, WELT_OPEN, the quiesce and the release of dies, scrubbing
(spec/21_partitions.md, R382 to R400; spec/08_isa_engines_system.md, R202; spec/22_power_health_identity.md, R417). -/

namespace Sys2Proof.Machine

/-! ### QSC_REQ and QSC_ACK (R392) -/

def State.dieScrub (s : State) (d : Nat) : Bool := (s.csr .module 0x0701).getLsbD (4 + d)
def State.dieQuiet (s : State) (d : Nat) : Bool := (s.csr .module 0x0702).getLsbD d

/-- A word with one bit as given. -/
def setBit (w : Word) (i : Nat) (on : Bool) : Word := (w &&& ~~~(1#32 <<< i)) ||| (if on then 1#32 <<< i else 0)

def State.setHeld (s : State) (d : Nat) (on : Bool) : State := s.setCsr .module 0x0701 (setBit (s.csr .module 0x0701) d on)
def State.setScrub (s : State) (d : Nat) (on : Bool) : State :=
  s.setCsr .module 0x0701 (setBit (s.csr .module 0x0701) (4 + d) on)
def State.setQuiet (s : State) (d : Nat) (on : Bool) : State := s.setCsr .module 0x0702 (setBit (s.csr .module 0x0702) d on)
def State.setRun (s : State) (d : Nat) (on : Bool) : State :=
  s.setCsr .module 0x0702 (setBit (s.csr .module 0x0702) (4 + d) on)

/-- QUIET, or the boot window (R384, R389, R391, R417). -/
def State.settled (s : State) (d : Nat) : Bool := s.dieQuiet d || !s.booted

/-! ### Shapes (R382, R384) -/

def shapes : List Nat := [0xE4, 0xE0, 0xA4, 0xA0, 0x00]

/-- The PN of a die under a value of PART_MAP, and the die set of its partition. -/
def pnUnder (map d : Nat) : Nat := map / 4 ^ d % 4
def dieSetUnder (map d : Nat) : Nat :=
  ((List.range 4).map fun e => if pnUnder map e = pnUnder map d then 2 ^ e else 0).sum

def State.partMap (s : State) : Nat := (s.csr .module 0x0700).toNat

/-- The die set of a die's partition, as a SET. -/
def State.dieSet (s : State) (d : Nat) : Nat := dieSetUnder s.partMap d

/-! ### A partition starts fresh (R396) -/

/-- The scopes whose registers a fresh partition resets: its own copies, its contexts', its cores' and the launch queues
of its dies. -/
def CsrKey.ofPart (k : CsrKey) (pn : Nat) (dies : List Nat) : Bool :=
  match k.scope with
  | .part p => p == pn
  | .ctx p _ => p == pn
  | .core c => dies.contains (dieOfCore c)
  | .die d => dies.contains d && decide (0x0300 ≤ k.idx ∧ k.idx < 0x0380)
  | .module => false

/-- The L1s, RDCs and line buffers of a set of dies are emptied: dirty bytes of host lines are written back. -/
def State.emptyCaches (s : State) (dies : List Nat) : State :=
  let mine (c : CopyLine) : Bool := match c.place with
    | .l1 core => dies.contains (dieOfPhys core)
    | .rdc d => dies.contains d
  let s := (s.copies.filter mine).foldl writeBack s
  { s with
    copies := s.copies.filter fun c => !mine c
    xleases := s.xleases.filter fun x => !dies.contains (dieOfCore x.core)
    lineBufs := s.lineBufs.filter fun b => !dies.contains (dieOfPhys b.core) }

/-- Step 1 of R396: registers at reset, contexts torn down, caches emptied, recorded doorbells discarded. -/
def State.freshPart (s : State) (pn : Nat) : State :=
  let dies := s.diesOf pn
  let gone (p : Nat) : Bool := p == pn || (s.diesOf p).isEmpty
  let s := (s.ctxs.filter fun c => gone c.pn && c.valid).foldl (fun s c => s.teardown c.pn c.ctx) s
  let s := s.emptyCaches dies
  { s with
    csrs := s.csrs.filter fun e => !e.1.ofPart pn dies
    ctxs := s.ctxs.filter fun c => !gone c.pn
    cellar := s.cellar.filter fun e => !dies.contains (dieOfCore e.1)
    coreCtx := s.coreCtx.filter fun e => !dies.contains (dieOfCore e.1)
    traces := s.traces.filter fun t => !dies.contains (dieOfCore t.core)
    queues := s.queues.filter fun q => !dies.contains q.die
    bells := s.bells.filter fun b => !dies.contains b.1
    sliced := numSet s.sliced pn s.gt
    tlb := s.tlb.filter fun t => !gone t.pn
    code := s.code.filter fun e => !gone e.pn }

/-- Continuations still in the slice queues of the changed dies fail as revoked, to the partition as it was (R397). -/
def State.revokeSlices (s : State) (dies : List Nat) : State :=
  let es := s.slices.filter fun e => dies.contains (e.slice / 32)
  let s := es.foldl (fun s e => s.failEntry e 1 (s.pnOfDie (e.slice / 32))) s
  { s with slices := s.slices.filter fun e => !dies.contains (e.slice / 32) }

/-- A list of dies with more of them. -/
def addDies (old new : List Nat) : List Nat := old ++ new.filter fun d => !old.contains d

/-- PART_MAP_WRITE (R384): a write that does not take effect is ignored whole. -/
def execPartMapWrite (v : Word) (s : State) : Result :=
  let new := v.toNat % 256
  let old := s.partMap
  let moved := (List.range 4).filter fun d => pnUnder old d != pnUnder new d
  let changed := (List.range 4).filter fun d => dieSetUnder old d != dieSetUnder new d
  if shapes.contains new && moved.all s.settled then
    let s := s.revokeSlices (changed.filter fun d => moved.contains d || s.dieHeld d)
    let s := s.setCsr .module 0x0700 (BitVec.ofNat 32 new)
    if s.booted then
      .next (State.unhold { s with
        changed := addDies s.changed changed
        fresh := s.fresh ++ ((changed.filter fun d => s.dieHeld d && (numLookup s.fresh d).isNone).map fun d => (d, pnUnder old d)) })
    else .next (((changed.map s.pnOfDie).eraseDups).foldl State.freshPart s).unhold
  else .next s

/-- MEM_IVL_WRITE (R389): it marks the region for scrubbing outside the boot window. -/
def execMemIvlWrite (region : Nat) (v : Word) (s : State) : Result :=
  let d := region % 4
  let new := v &&& 0x7F#32
  let old := s.csr .module (0x0704 + d)
  if s.settled d && new.toNat % 16 == s.dieSet d then
    let s := s.setCsr .module (0x0704 + d) new
    if s.booted && old != new then
      .next { s with marks := addDies s.marks [d], changed := addDies s.changed [d] }
    else .next s
  else .next s

/-- The two dies of each boundary, by its bit (R391). -/
def weltPairs : List (Nat × Nat) := [(0, 1), (0, 2), (0, 3), (1, 2), (1, 3), (2, 3)]

/-- WELT_OPEN_WRITE (R391), bit by bit. -/
def execWeltOpenWrite (v : Word) (s : State) : Result :=
  let old := s.csr .module 0x0708
  .next ((s.setCsr .module 0x0708 ((weltPairs.mapIdx fun i p => (i, p)).foldl (fun w (i, a, b) =>
    if s.settled a && s.settled b && !(v.getLsbD i && s.pnOfDie a != s.pnOfDie b) then setBit w i (v.getLsbD i)
    else w) old)).unhold)

/-! ### Quiesce and release (R202, R393 to R396) -/

/-- The dies of a mask, ascending. -/
def diesOfMask (m : Nat) : List Nat := (List.range 4).filter fun d => m / 2 ^ d % 2 == 1

/-- The mask is a union of whole partitions. -/
def State.wholeParts (s : State) (m : Nat) : Bool :=
  m != 0 && (List.range 4).all fun d => m / 2 ^ d % 2 == 0 || s.dieSet d &&& m == s.dieSet d

/-- A refusal's result word. -/
def qscRefusal (cause die : Nat) : Word := BitVec.ofNat 32 (2 ^ 16 * die + 2 ^ 8 * cause)

/-- The first busy queue of the partitions that hold the dies, by die, then queue. -/
def State.firstBusy (s : State) (dies : List Nat) : Option (Nat × Nat) :=
  let all := (List.range 4).filter fun d => dies.any fun e => s.pnOfDie e == s.pnOfDie d
  (all.flatMap fun d => (List.range 64).map fun n => (d, n)).find? fun e => s.queueBusy e.1 e.2

/-- What R396 asks of the whole module. -/
def State.releasable (s : State) : Bool :=
  ((List.range 4).all fun d => (s.csr .module (0x0704 + d)).toNat % 16 == s.dieSet d) &&
  (weltPairs.mapIdx fun i p => (i, p)).all fun (i, a, b) =>
    (s.csr .module 0x0708).getLsbD i == (s.pnOfDie a == s.pnOfDie b)

/-- Quiesces dies: HELD sets and RUN clears; a die whose release is still being scrubbed stays held after it. -/
def State.quiesce (s : State) (dies : List Nat) : State :=
  dies.foldl (fun s d =>
    if s.dieScrub d then { s with reheld := addDies s.reheld [d] }
    else if s.dieHeld d then s
    else (s.setHeld d true).setRun d false) s

/-- Step 3 of R396 for one die; what waited is performed by the caller. -/
def State.runDie (s : State) (d : Nat) : State :=
  let s := s.setScrub d false
  if s.reheld.contains d then { s with reheld := s.reheld.filter (· != d) }
  else (s.setHeld d false).setRun d true

/-- Doorbells recorded on dies that run again. -/
def State.ringBells (s : State) : State :=
  let now := s.bells.filter fun b => !s.dieHeld b.1
  now.foldl (fun s b => s.ring b.1 b.2) { s with bells := s.bells.filter fun b => s.dieHeld b.1 }

/-- A slab of a region that is to be scrubbed lies on the die. -/
def State.slabMarked (s : State) (d : Nat) : Bool := s.marks.any fun r => (s.setOf r).contains d

/-- Releases held dies: partitions that changed start fresh, marked regions are to be scrubbed, dies with no slab of one
run. -/
def State.release (s : State) (dies : List Nat) : State :=
  let fresh := dies.filter fun d => (numLookup s.fresh d).isSome
  let s := (fresh.map s.pnOfDie).eraseDups.foldl State.freshPart s
  let s : State := { s with fresh := s.fresh.filter fun e => !dies.contains e.1 }
  let s := dies.foldl (fun s d => s.setQuiet d false) s
  let s := dies.foldl (fun s d => if s.slabMarked d then s.setScrub d true else s.runDie d) s
  s.ringBells

/-- QSC: the result word, and the state (R202, R395). -/
def State.qsc (s : State) (mask : Nat) (rel : Bool) : Word × State :=
  let dies := diesOfMask mask
  if !s.wholeParts mask then (qscRefusal 0xFF 0xF, s)
  else if !rel then
    match (if dies.all s.dieHeld then none else s.firstBusy dies) with
    | some (d, n) => (qscRefusal n d, s)
    | none => (1, s.quiesce dies)
  else if dies.any s.dieScrub then (1, s)
  else
    let held := dies.filter s.dieHeld
    if held.isEmpty then (1, s)
    else if !s.releasable then (qscRefusal 0xFE 0xF, s)
    else
      match held.find? s.changed.contains with
      | some d => (qscRefusal 0xFD d, s)
      | none => (1, s.release held)

/-! ### QUIET, and the end of a scrub (R394, R396) -/

/-- Nothing is resident or outstanding on a die. -/
def State.drainedDie (s : State) (d : Nat) : Bool :=
  let here (bid : Nat) : Bool := (s.block? bid).elim false fun b => dieOfCore b.core == d && !b.isSteward
  !(s.blocks.any fun b => dieOfCore b.core == d && b.resident && !b.isSteward) &&
  !(s.cmds.any fun c => (s.block? c.bid).elim false fun b => dieOfCore b.core == d && b.resident) &&
  !(s.engines.any fun e => e.cluster / 32 == d && !e.entries.isEmpty) &&
  !(s.accs.any fun a => here a.bid) && !(s.ops.any fun o => here o.bid) &&
  !(s.moves.any fun m => m.island / 8 == d)

def State.quietReady (s : State) (d : Nat) : Bool := s.dieHeld d && !s.dieScrub d && !s.dieQuiet d && s.drainedDie d

/-- QUIET_REACHED (R394). -/
def execQuietReached (die : Nat) (s : State) : Result :=
  .next (if s.quietReady die then (s.setQuiet die true).unhold else s)

/-- A region of device memory is written with zeros: in the canonical form its cells go. -/
def State.zeroRegion (s : State) (r : Nat) : State :=
  { s with
    mem := s.mem.filter fun c => !s.inRegion r c.1
    badMem := s.badMem.filter fun x => !s.inRegion r x }

end Sys2Proof.Machine
end

