-- ==== Sys2Proof/Machine/HostPeer.lean ====
section
/-! DEFINITION. The outside: host ports and their accesses, peer links and inbound requests, the boundary clock
(spec/19_host_coupling.md, R353 to R371; spec/22_power_health_identity.md, R409). -/

namespace Sys2Proof.Machine

/-! ### Accesses from outside (R361, R367, R393) -/

/-- A host port is up as a CXL device: a PCIe port completes nothing but its window (R355). -/
def State.cxlUp (s : State) : Bool :=
  (List.range 4).any fun p => s.portUp p && (s.csr .module (0x0500 + p)).toNat / 2 ^ 29 % 4 == 1

/-- The HDM range of R361. -/
def State.inHdm (s : State) (a n : Nat) : Bool :=
  let c := (s.csr .module 0x0509).toNat
  s.cxlUp && c / 2 ^ 31 == 1 && decide (c / 1024 % 1024 * 2 ^ 29 ≤ a ∧ a + n ≤ (c / 1024 % 1024 + c % 1024) * 2 ^ 29)

/-- The bytes a request touches. -/
def HostReq.span : HostReq → Nat × Nat
  | .read a n _ => (a, n)
  | .write a bs => (a, bs.length)
  | .peer _ r => (r.addr, r.size)

/-- Two requests touch a common line: they keep their order. -/
def HostReq.meets (p q : HostReq) : Bool :=
  decide (lineOf p.span.1 ≤ lineOf (q.span.1 + q.span.2 - 1) ∧ lineOf q.span.1 ≤ lineOf (p.span.1 + p.span.2 - 1))

/-- The homes of the bytes are not held nor their regions to be scrubbed, and no exclusive lease defers the access (R160,
R393, R400). -/
def State.homeFree (s : State) (a n : Nat) : Bool :=
  [a, a + n - 1].all fun x =>
    !s.dieHeld (homeDie (s.devLoc x)) && !s.marks.contains (x / regionBytes) && !s.xleased (2 ^ 20) (s.devLoc x) 1

/-- The bytes of a request from outside, at their homes. -/
def State.storeAt (s : State) (a : Nat) (bs : List Byte) : State :=
  (s.storeCells (bs.mapIdx fun i b => (s.devLoc (a + i), b))).touchSlots (s.devLoc a) bs.length

/-- The atomic of a peer request, its size, and how many operand bytes it takes. -/
def peerAtomic : PeerOp → Option AtomOp
  | .aadd => some .add | .amin => some .min | .amax => some .max | .aexch => some .exch
  | .aand => some .and | .aor => some .or | .axor => some .xor | .ainc => some .inc
  | .cas32 => some .cas32 | .cas64 => some .cas64 | .cas128 => some .cas128
  | .faadd => some .fadd | .famin => some .fmin | .famax => some .fmax | .bfaadd2 => some .bfadd2
  | .read | .write => none

/-- A peer request at its home: a device access of this module (R367). -/
def State.servePeer (s : State) (r : PeerReq) : State :=
  match r.op with
  | .read => s
  | .write => s.storeAt r.addr (r.bytes.take r.size)
  | op =>
    match peerAtomic op with
    | some a =>
      let n := a.bytes
      let x := s.devLoc r.addr
      let lo := BitVec.ofNat 128 (bytesToNat (r.bytes.take n))
      let hi := BitVec.ofNat 128 (bytesToNat ((r.bytes.drop n).take n))
      s.store x n (atomNew a (BitVec.ofNat 128 (s.load x n)) lo hi).toNat |>.touchSlots x n
    | none => s

/-- The lines that the filter of a die records, the one held longest first (R361). -/
def State.filterOf (s : State) (die : Nat) : List Nat := s.snoops.filter fun k => homeDie (64 * k) == die

/-- The lines that are back-invalidated for host reads that wait. -/
def State.victimLines (s : State) : List Nat :=
  s.hostReqs.filterMap fun r => match r with | .read _ _ v => v | _ => none

/-- The filter of a die has a place: those that lines given up for other reads leave are taken. -/
def State.filterRoom (s : State) (die : Nat) : Bool :=
  decide ((s.filterOf die).length + (s.victimLines.filter fun v => homeDie (64 * v) == die && !s.snoops.contains v).length < 262144)

/-- Performs a request that nothing holds back: a host read is recorded by the filter of its die, which first must have
room (R361). -/
def State.tryHost (s : State) (r : HostReq) : Option State :=
  let (a, n) := r.span
  if !s.homeFree a n then none
  else
    match r with
    | .read _ _ victim =>
      let loc := s.devLoc a
      if s.snoops.contains (lineOf loc) then some s
      else if victim.elim (s.filterRoom (homeDie loc)) fun v => !s.snoops.contains v then
        some { s with snoops := s.snoops ++ [lineOf loc] }
      else none
    | .write a bs => some (s.storeAt a bs).settleLocks.unhold
    | .peer _ q =>
      if q.op = .read then some s
      else if s.snooped (s.devLoc a) n then none
      else some (s.servePeer q).settleLocks.unhold

/-- A read that finds the filter of its die full has the line held longest back-invalidated for it (R361). -/
def State.pickVictim (s : State) (r : HostReq) : Option HostReq :=
  match r with
  | .read a n none =>
    let die := homeDie (s.devLoc a)
    if s.homeFree a n && !s.filterRoom die then
      ((s.filterOf die).find? fun v => !s.victimLines.contains v).map fun v => .read a n (some v)
    else none
  | _ => none

/-- A request from outside is performed, or waits behind what holds it. -/
def State.hostAccess (s : State) (r : HostReq) : State :=
  if s.hostReqs.any r.meets then { s with hostReqs := s.hostReqs ++ [r] }
  else (s.tryHost r).getD { s with hostReqs := s.hostReqs ++ [r] }

/-- The first request that waits and could be performed now, or have its line picked, in its order, with the state after
it. -/
def State.nextHost (s : State) : Option State :=
  (List.range s.hostReqs.length).findSome? fun i =>
    match s.hostReqs[i]? with
    | none => none
    | some r =>
      if (s.hostReqs.take i).any r.meets then none
      else
        ((s.tryHost r).map fun t => { t with hostReqs := s.hostReqs.eraseIdx i }).orElse fun _ =>
          (s.pickVictim r).map fun q => { s with hostReqs := s.hostReqs.set i q }

/-- HOST_MEMRD: an .l2 load at the home (R361). -/
def execHostMemrd (addr size : Nat) (s : State) : Result :=
  .next (if s.inHdm addr size then s.hostAccess (.read addr size none) else s)

/-- HOST_MEMWR: performed at the home slice (R361). -/
def execHostMemwr (addr : Nat) (bytes : List Byte) (s : State) : Result :=
  .next (if s.inHdm addr bytes.length then s.hostAccess (.write addr bytes) else s)

/-- BISNP_COMPLETE: the host has given up the line, by device physical address, and returned what it had written (R361). -/
def execBisnpComplete (line : Nat) (dirty : List Byte) (s : State) : Result :=
  let held := lineOf (s.devLoc (64 * line))
  if s.snoops.contains held then
    .next (State.storeAt { s with snoops := s.snoops.filter (· != held) } (64 * line) (dirty.take 64)).settleLocks.unhold
  else .next s

/-- HOST_SNOOP: the host's own stores to its memory, which the device has no copy of to answer for (R355, R357, R363). -/
def execHostSnoop (line : Nat) (bytes : List Byte) (s : State) : Result :=
  .next (s.storeCells (bytes.take 64 |>.mapIdx fun i b => (hostLoc (64 * (line % 2 ^ 46) + i), b))).settleLocks.unhold

/-- The request is one: an atomic has its operation's width, and every byte lies in device DRAM. -/
def peerSound (r : PeerReq) : Bool :=
  r.size != 0 && r.size == (peerAtomic r.op).elim r.size AtomOp.bytes && decide (r.addr + r.size ≤ deviceBytes)

/-- The table allows the request (R367). -/
def State.peerAllowed (s : State) (src : Nat) (r : PeerReq) : Bool :=
  peerSound r && s.wtab.any fun e =>
    e.src == src && decide (e.base ≤ r.addr ∧ r.addr + r.size ≤ e.base + e.size) && (if r.op = .read then e.rd else e.wr)

/-- A trained link joins this module to the module: no other module's requests come in (R364). -/
def State.neighbour (s : State) (m : Nat) : Bool :=
  (List.range 16).any fun k =>
    let st := (s.csr .module (0x0520 + k)).toNat
    st / 2 ^ 31 == 1 && st % 65536 == m

/-- PEER_REQUEST_INBOUND: a neighbour's request is performed at its home, or refused: it then fails at its issuer (R364,
R367). -/
def execPeerRequestInbound (src : Nat) (req : PeerReq) (s : State) : Result :=
  .next (if s.neighbour src && s.peerAllowed src req then s.hostAccess (.peer src req) else s)

/-! ### The inbound window table (R367) -/

/-- One entry of the table; one that breaks its layout allows nothing. -/
def State.readWindow (s : State) (a : Nat) : Option PeerWindow :=
  let f (o n : Nat) : Nat := s.load (a + o) n
  if f 2 1 < 4 ∧ f 3 5 = 0 ∧ f 8 8 % 65536 = 0 ∧ f 16 8 % 65536 = 0 ∧ f 16 8 ≠ 0 ∧ f 24 8 = 0 then
    some { src := f 0 2, rd := f 2 1 % 2 == 1, wr := f 2 1 / 2 == 1, base := f 8 8, size := f 16 8 }
  else none

/-- The table at PEER_WTAB is read. -/
def State.latchWindows (s : State) : State :=
  let a := s.csrAddr .module 0x0511
  { s with wtab := (List.range 16).filterMap fun i => s.readWindow (s.physLoc (a + 32 * i)) }

/-- PEER_WTAB_LATCH: PEER_WTAB_LO is written. -/
def execPeerWtabLatch (_die : Nat) (v : Word) (s : State) : Result :=
  .next (s.setCsr .module 0x0511 (v &&& 0xFFFFFFE0#32)).latchWindows

/-! ### Host ports (R354, R359) -/

/-- Requests on their way that a port or a link carries fail (R359). -/
def State.failWhere (s : State) (p : Access → Bool) : State :=
  s.accs.foldl (fun s a =>
    match s.acc? a.id, s.block? a.bid with
    | some a, some b =>
      if a.done.isNone && s.outward b a && p a then
        (if a.isLoad then s.failLoads a (s.peers a) else s.failAll a (s.peers a))
      else s
    | _, _ => s) s

/-- A host port goes down: UP, WIDTH and RATE clear, and its requests fail. -/
def State.portDown (s : State) (p : Nat) : State :=
  let s := s.failWhere fun a => isHostLoc a.loc && s.hostPort a.loc == some p
  s.setCsr .module (0x0500 + p) (s.csr .module (0x0500 + p) &&& 0x7FFF0000#32)

/-- HPORT_CTL_WRITE: MODE and ATOMW are written, and the port trains (R354). -/
def execHportCtlWrite (die : Nat) (v : Word) (s : State) : Result :=
  let p := die % 4
  .next ((s.portDown p).setCsr .module (0x0500 + p) (v &&& 0x67000000#32)).unhold

/-- HOST_LINK_TRAIN: the port comes up in the mode it is set to, at a width and a rate in GT/s; a CXL port trains at 64
(R354, R355). -/
def execHostLinkTrain (port : Nat) (width : LinkWidth) (cxl : Bool) (s : State) : Result :=
  let p := port % 4
  let ctl := s.csr .module (0x0500 + p)
  let mode := ctl.toNat / 2 ^ 29 % 4
  if mode = (if cxl then 1 else 2) ∧ [1, 2, 4, 8, 16].contains width.lanes ∧
      (if cxl then width.rate = 64 else 1 ≤ width.rate ∧ width.rate ≤ 64) then
    .next (s.setCsr .module (0x0500 + p)
      (0x80000000#32 ||| (ctl &&& 0x67000000#32) ||| BitVec.ofNat 32 (256 * width.lanes + width.rate))).unhold
  else .next s

/-! ### Peer links (R364, R368, R409) -/

/-- LINKW's code of a link. -/
def State.setLinkWidth (s : State) (link code : Nat) : State :=
  let w := (s.csr .module 0x082C).toNat
  s.setCsr .module 0x082C (BitVec.ofNat 32 (w - w / 4 ^ link % 4 * 4 ^ link + code * 4 ^ link))

def State.linkDown (s : State) (k : Nat) : State :=
  let s := s.failWhere fun a => isPeerLoc a.loc && s.peerLink a.loc == some k
  (s.setCsr .module (0x0520 + k) 0).setLinkWidth k 0

/-- HOST_LINK_DOWN: peer links are 0 to 15, host ports 16 to 19. -/
def execHostLinkDown (link : Nat) (s : State) : Result :=
  .next (if link < 16 then s.linkDown link else s.portDown (link % 4)).unhold

/-- PEER_LINK_TRAIN: the link is up at a width, and has learned its neighbour's MODULE_ID. -/
def execPeerLinkTrain (link width nbr : Nat) (s : State) : Result :=
  let k := link % 16
  if 1 ≤ width ∧ width ≤ 3 then
    .next ((s.setCsr .module (0x0520 + k) (BitVec.ofNat 32 (2 ^ 31 + nbr % 65536))).setLinkWidth k width).unhold
  else .next s

/-- PEER_FLIT_RECEIVE: a flit with a bad CRC, or out of sequence, is dropped; the sender replays it (R368). -/
def execPeerFlitReceive (link : Nat) (seq : Nat) (crcOk : Bool) (s : State) : Result :=
  let k := link % 16
  let inOrder := (numLookup s.flits k).elim true fun last => seq % 4096 == (last + 1) % 4096
  .next (if crcOk && inOrder then { s with flits := numSet s.flits k (seq % 4096) } else s)

/-! ### The boundary clock (R369 to R371) -/

/-- TIME_STAT from its fields; OFFSET saturates. -/
def timeStat (state port : Nat) (off : Int) : Word :=
  let o := max (-(2 ^ 24)) (min (2 ^ 24 - 1) off)
  BitVec.ofNat 32 (2 ^ 30 * state + 2 ^ 25 * port) ||| ((BitVec.ofInt 25 o).setWidth 32)

def State.timeState (s : State) : Nat := (s.csr .module 0x0531).toNat / 2 ^ 30
def State.timePort (s : State) : Nat := (s.csr .module 0x0531).toNat / 2 ^ 25 % 32
def State.timeOffset (s : State) : Int := ((s.csr .module 0x0531).setWidth 25).toInt

/-- One list of numbers comes before another, by the first place in which they differ. -/
def listBefore : List Nat → List Nat → Bool
  | a :: as, b :: bs => decide (a < b) || (a == b && listBefore as bs)
  | _, _ => false

/-- The comparison of the default best master clock algorithm: of two grandmasters by their data sets, of two paths to one
grandmaster by their steps, then their senders (IEEE 1588-2019, by R369; log 18). -/
def betterMaster (a b : ClockData) : Bool :=
  if a.identity = b.identity then listBefore [a.steps, a.sender] [b.steps, b.sender]
  else listBefore [a.prio1, a.cls, a.accuracy, a.variance, a.prio2, a.identity]
    [b.prio1, b.cls, b.accuracy, b.variance, b.prio2, b.identity]

/-- The module's own data set, with the priority1 of PTP_CTL. -/
def State.ownClock (s : State) : ClockData :=
  { Config.ownClock with
    prio1 := (s.csr .module 0x0530).toNat / 65536 % 256, steps := 0, sender := Config.ownClock.identity }

/-- The best of the masters that have announced themselves; of equals the lowest port. -/
def State.bestMaster (s : State) : Option (Nat × ClockData) :=
  ((List.range 20).filterMap fun p => (numLookup s.clock.heard p).map fun d => (p, d)).foldl (fun best e =>
    match best with
    | none => some e
    | some b => if betterMaster e.2 b.2 then some e else some b) none

/-- The source follows the best master; the module is a grandmaster itself only where GMCAP is set and its own data set is
the best (R369). -/
def State.electMaster (s : State) : State :=
  match s.bestMaster with
  | none => s
  | some (p, d) =>
    if (s.csr .module 0x0530).getLsbD 30 && betterMaster s.ownClock d then
      if s.clock.source.isNone then s
      else State.setCsr { s with clock := { s.clock with source := none, diff := none, delay := none } } .module 0x0531
        (timeStat 0 31 s.timeOffset)
    else if s.clock.source = some p then s
    else State.setCsr { s with clock := { s.clock with source := some p, diff := none, delay := none } } .module 0x0531
      (timeStat 1 p s.timeOffset)

/-- A Sync from the source: its offset is measured; GT steps forward at a first lock that no context sees (R370). -/
def State.syncClock (s : State) (port : Nat) (off : Int) : State :=
  let step := !s.locked && !(s.ctxs.any (·.valid)) && decide (off < 0)
  if step then
    State.setCsr { s with gt := s.gt + (-off).toNat, locked := true } .module 0x0531 (timeStat 2 port off)
  else if off.natAbs ≤ 20 then State.setCsr { s with locked := true } .module 0x0531 (timeStat 2 port off)
  else s.setCsr .module 0x0531 (timeStat 1 port off)

/-- The PTP domain of the boundary clock: 128 to 255 act as 0 (R371). -/
def State.ptpDomain (s : State) : Nat :=
  let d := (s.csr .module 0x0530).toNat % 256
  if d < 128 then d else 0

/-- PTP_MESSAGE: one of the module's domain, while the boundary clock runs (R369, R371).  The offset is measured once the
path delay is. -/
def execPtpMessage (port : Nat) (msg : PtpMsg) (s : State) : Result :=
  if (s.csr .module 0x0530).getLsbD 31 && decide (port < 20) && msg.domain == s.ptpDomain then
    match msg.body with
    | .announce data =>
      if data.sender = Config.ownClock.identity ∨ 255 ≤ data.steps then .next s
      else .next (State.electMaster { s with clock := { s.clock with heard := numSet s.clock.heard port data } })
    | .sync origin arrival =>
      if s.clock.source = some port then
        let diff : Int := (arrival : Int) - origin
        let s : State := { s with clock := { s.clock with diff := some diff } }
        .next (s.clock.delay.elim s fun d => s.syncClock port (diff - d))
      else .next s
    | .delayReq _ => .next s
    | .delayResp sent receipt =>
      match s.clock.diff with
      | some diff =>
        .next (if s.clock.source = some port then
          { s with clock := { s.clock with delay := some ((diff + ((receipt : Int) - sent)) / 2) } } else s)
      | none => .next s
  else .next s

/-- PTP_SOURCE_LOST: GT keeps its last rate in holdover (R370), unless another master has announced itself. -/
def execPtpSourceLost (s : State) : Result :=
  match s.clock.source with
  | none => .next s
  | some p =>
    .next (State.setCsr { s with clock := { source := none, heard := numErase s.clock.heard p, diff := none, delay := none } }
      .module 0x0531 (timeStat 3 31 s.timeOffset)).electMaster

/-! ### The end of a scrub (R396) -/

/-- SCRUB_COMPLETE: a region is zero; the dies whose slabs are all zero run again, their doorbells are acted on, and held
requests follow (R396). -/
def execScrubComplete (region : Nat) (s : State) : Result :=
  if s.marks.contains region && (s.setOf region).any s.dieScrub then
    let dropped (l : Nat) : Bool := s.inRegion region (64 * l)
    let s := s.zeroRegion region
    let s : State := { s with
      copies := s.copies.filter fun c => !dropped c.line
      xleases := s.xleases.filter fun x => !dropped x.line
      marks := s.marks.filter (· != region) }
    let done := (List.range 4).filter fun d => s.dieScrub d && !s.slabMarked d
    .next (done.foldl State.runDie s).ringBells.settleLocks.unhold
  else .next s

end Sys2Proof.Machine
end

