-- ==== Sys2Proof/Machine/Identity.lean ====
section
/-! DEFINITION. Module reset, secure boot, the security version counter, attestation
(spec/22_power_health_identity.md, R408, R412 to R417). -/

namespace Sys2Proof.Machine

/-! ### MODULE_RESET (R413, R414, R417) -/

/-- What fuses and tests fixed: FW_SVN, HEALTH without CECC, and the locality maps of fused islands (R320, R408, R413). -/
def CsrKey.fixed (k : CsrKey) (v : Word) : Option Word :=
  if k.idx = 0x0834 then some v
  else if 0x0828 ≤ k.idx ∧ k.idx < 0x082C then some (v &&& 0x00FF0700#32)
  else if 0x0228 ≤ k.idx ∧ k.idx < 0x0248 ∧ v.getLsbD 31 then some v
  else none

/-- MODULE_RESET: device DRAM is zero and every register is at reset; memory outside the module, the one-time counters
and the model's own counters stay. -/
def execModuleReset (s : State) : Result :=
  .next { State.reset with
    free := s.free
    nextId := s.nextId
    inputs := s.inputs
    csrs := s.csrs.filterMap fun e => (e.1.fixed e.2).map fun v => (e.1, v)
    mem := s.mem.filter fun c => decide (2 ^ 52 ≤ c.1)
    attStep := s.attStep + 1 }

/-! ### Secure boot (R412, R413) -/

/-- A little-endian field of an image. -/
def imageNat (image : List Byte) (o n : Nat) : Nat := sliceNat image o n

/-- The body: LEN bytes from offset 9,984. -/
def imageBody (image : List Byte) : List Byte := (image.drop 9984).take (imageNat image 16 8)

/-- A list of exactly n bytes. -/
def fixLen (n : Nat) (l : List Byte) : List Byte := (l ++ List.replicate n 0).take n

def imageDigest (image : List Byte) : List Byte := (image.drop 32).take 32

/-- Every check of R413. -/
def State.imageOk (s : State) (image : List Byte) : Bool :=
  imageNat image 0 4 == 0x57464853 && imageNat image 12 4 == 0 && imageNat image 24 8 == 0 && imageNat image 9957 27 == 0 &&
  decide (9984 + imageNat image 16 8 ≤ image.length) &&
  xmssVerify Config.iluvalKey (image.take 64) ((image.drop 64).take 9893) &&
  imageDigest image == shake256 (imageBody image) &&
  decide ((s.csr .module 0x0834).toNat ≤ imageNat image 8 4)

/-- The block of a steward core: one warp at steward level, every register zero (log 12). -/
def State.stewardBlock (s : State) (die : Nat) : Block where
  bid := s.nextId
  kind := .steward die
  pn := s.pnOfDie die
  ctx := stewardCtx
  launch := s.nextId
  blk := 0
  core := stewardCore die
  lcore := stewardCore die
  cls := 3
  life := .running
  resid := s.gt
  stopFor := none
  deadline := 0
  marked := false
  warps := [freshWarp (Vector.replicate 32 (newThread (Config.stewardEntry die) (zeroRegs 128))) [] 128 2]
  win := []
  full := []
  bad := []
  lm := Config.stewardWindow % (2 ^ 18 + 1)
  grps := []
  seq := newSequencer
  eng := newEngineCtx
  rail := none
  order := s.nextId
  card := none
  frozen := false
  begun := true
  stash := []

/-- FIRMWARE_VERIFY: an accepted image runs on the steward core of its die; a die whose image is refused keeps it in reset,
and its partition-level registers as they are at reset. -/
def execFirmwareVerify (die : Nat) (image : List Byte) (s : State) : Result :=
  let d := die % 4
  if s.refused.contains d || s.firmware.any fun f => f.die == d then .next s
  else if s.imageOk image then
    .next (State.bump { s with
      firmware := s.firmware ++ [{ die := d, digest := imageDigest image }]
      blocks := s.blocks ++ [s.stewardBlock d] }).unhold
  else .next { s with refused := s.refused ++ [d] }

/-- FW_SVN_WRITE: the counter of 64 steps only rises (R413). -/
def execFwSvnWrite (_die : Nat) (v : Word) (s : State) : Result :=
  let new := min 64 v.toNat
  .next (if (s.csr .module 0x0834).toNat < new then s.setCsr .module 0x0834 (BitVec.ofNat 32 new) else s)

/-! ### Attestation (R414, R415) -/

def reportBytes : Nat := 20086

def State.attBuf (s : State) (pn : Nat) : Nat := s.csrAddr (.part pn) 0x0830

def State.setAttStat (s : State) (pn state cause : Nat) : State :=
  s.setCsr (.part pn) 0x0833 (BitVec.ofNat 32 (2 ^ 30 * state + cause))

/-- The reason a request is refused, if any. -/
def State.attRefusal (s : State) (pn : Nat) : Option Nat :=
  if !s.ownsRange pn (s.attBuf pn) reportBytes then some 1
  else if 4096 ≤ s.attStep then some 2
  else if s.attReqs.any fun r => r.pn == pn then some 3
  else none

/-- ATT_CMD, by a core of a die. -/
def execAttCmd (die : Nat) (v : Word) (s : State) : Result :=
  let pn := s.pnOfDie die
  if v ≠ 1 then .next s
  else
    match s.attRefusal pn with
    | some c => .next (s.setAttStat pn 3 c)
    | none =>
      .next (State.setAttStat { s with attReqs := s.attReqs ++ [{ pn := pn, buf := s.attBuf pn, due := none }] } pn 1 0)

/-- Bytes of device memory by physical address. -/
def State.paBytes (s : State) (a n : Nat) : List Byte := (List.range n).map fun i => memRead s.mem (s.devLoc (a + i))

/-- Bytes 0 to 231 of a report. -/
def State.reportHead (s : State) (buf index : Nat) : List Byte :=
  let reg (i : Nat) : List Byte := natToBytes 4 (s.csr .module i).toNat
  let digest (d : Nat) : List Byte := fixLen 32 (((s.firmware.find? fun f => f.die == d).map (·.digest)).getD [])
  natToBytes 4 0x54414853 ++ natToBytes 4 reportBytes ++ s.paBytes (buf + 8) 32 ++ natToBytes 8 s.gt ++ reg 0x0700 ++
    reg 0x0704 ++ reg 0x0705 ++ reg 0x0706 ++ reg 0x0707 ++ reg 0x0708 ++ reg 0x0828 ++ reg 0x0829 ++ reg 0x082A ++
    reg 0x082B ++ reg 0x082C ++ reg 0x0834 ++ digest 0 ++ digest 1 ++ digest 2 ++ digest 3 ++ natToBytes 8 index

/-- The whole report. -/
def State.report (s : State) (buf index : Nat) : List Byte :=
  let head := s.reportHead buf index
  head ++ fixLen 9893 (Config.xmssSign index head) ++ fixLen 68 Config.deviceKey ++ fixLen 9893 Config.deviceCert

/-- The next signature index: no index is used twice. -/
def State.nextIndex (s : State) : State :=
  if s.attLow + 1 < 2 ^ 28 then { s with attLow := s.attLow + 1 }
  else { s with attLow := 0, attStep := s.attStep + 1 }

/-- A report can be written: its request is busy, and the steward of the partition's lowest die runs. -/
def State.attReady (s : State) (die : Nat) : Option AttReq :=
  if (s.firmware.any fun f => f.die == die) && (s.diesOf (s.pnOfDie die)).head? == some die then
    s.attReqs.find? fun r => r.pn == s.pnOfDie die
  else none

/-- Writes bytes of the machine's own to device memory by physical address, line by line: the state, and the GT at which
the stores are complete (R260). -/
def State.writePa (s : State) (a : Nat) (bs : List Byte) : State × Nat :=
  let lines := (List.range ((a + bs.length + 63) / 64 - a / 64)).map fun k => s.devLoc (64 * (a / 64 + k))
  let t := lines.foldl (fun t x => max t (s.homeTime (lineOf x))) s.gt
  let cells := bs.mapIdx fun i b => (s.devLoc (a + i), b)
  let s := (lines.foldl (fun s x => s.openHome x 64) s).storeCells cells
  (lines.foldl (fun s x => s.touchSlots x 64) s, t)

/-- STATE 2, as a release at sys scope, once the stores of the report are complete (R262). -/
def State.attDone (s : State) (die : Nat) (r : AttReq) (t : Nat) : State :=
  if t ≤ s.gt then
    (State.setAttStat (State.sysRelease { s with attReqs := s.attReqs.erase r } die r.pn stewardCtx) r.pn 2 0).unhold
  else s

/-- ATTESTATION_REPORT_DONE: the report is written, then STATE 2. -/
def execAttestationReportDone (die : Nat) (s : State) : Result :=
  match s.attReady die with
  | none => .next s
  | some r =>
    match r.due with
    | some t => .next (s.attDone die r t)
    | none =>
      let done : State := { s with attReqs := s.attReqs.erase r }
      if 4096 ≤ s.attStep then .next (done.setAttStat r.pn 3 2)
      else
        let (s, t) := done.nextIndex.writePa r.buf (s.report r.buf (2 ^ 28 * s.attStep + s.attLow))
        let r := { r with due := some t }
        .next ((State.attDone { s with attReqs := r :: s.attReqs } die r t).settleLocks.unhold)

end Sys2Proof.Machine
end

