-- ==== Sys2Proof/Machine/Csr.lean ====
section
/-! DEFINITION. The control registers: index, level, copy, what a read returns and what a write does
(spec/08_isa_engines_system.md, R196; the register tables of R220, R228, R258, R318, R321, R330, R353, R372, R383, R401). -/

namespace Sys2Proof.Machine

/-- Which copy of a register an issuer reaches. -/
inductive CsrCopy where
  | module | die | part | core | ctx
  /-- The locality map of island k lies with die k / 8. -/
  | island (k : Nat)
  deriving DecidableEq, Repr

/-- How software may use a register. -/
inductive CsrAccess where
  | rw | ro | wo
  deriving DecidableEq, Repr

structure CsrRow where
  /-- The least level that may name it; a locality map may be read at partition level on the partition's own dies. -/
  level : Nat
  copy : CsrCopy
  access : CsrAccess
  deriving DecidableEq, Repr

def between (lo i hi : Nat) : Bool := decide (lo ≤ i ∧ i ≤ hi)

/-- The register an index names, if a chapter allocates it. -/
def csrRow (i : Nat) : Option CsrRow :=
  if between 0x0100 i 0x0101 then some ⟨1, .part, .rw⟩
  else if i = 0x0210 ∨ i = 0x0220 then some ⟨2, .die, .rw⟩
  else if between 0x0228 i 0x0247 then some ⟨1, .island (i - 0x0228), .ro⟩
  else if between 0x0300 i 0x037F then some ⟨1, .die, .rw⟩
  else if between 0x0380 i 0x03BF then some ⟨1, .die, .wo⟩
  else if between 0x03C0 i 0x03C2 then some ⟨1, .part, .rw⟩
  else if i = 0x03C3 then some ⟨1, .part, .ro⟩
  else if i = 0x03C4 ∨ i = 0x03C8 ∨ i = 0x03D0 ∨ between 0x03D4 i 0x03D5 then some ⟨1, .part, .rw⟩
  else if i = 0x03D8 then some ⟨1, .core, .rw⟩
  else if i = 0x03D9 then some ⟨1, .part, .wo⟩
  else if i = 0x03DA ∨ i = 0x0400 ∨ between 0x0410 i 0x043F then some ⟨1, .part, .rw⟩
  else if between 0x0500 i 0x0509 ∨ between 0x0510 i 0x0512 then some ⟨2, .module, .rw⟩
  else if between 0x0520 i 0x052F then some ⟨1, .module, .ro⟩
  else if i = 0x0530 then some ⟨2, .module, .rw⟩
  else if i = 0x0531 then some ⟨1, .module, .ro⟩
  else if between 0x0540 i 0x0550 then some ⟨1, .module, .rw⟩
  else if i = 0x0600 ∨ between 0x0640 i 0x0641 then some ⟨1, .part, .rw⟩
  else if between 0x0642 i 0x0644 then some ⟨1, .part, .ro⟩
  else if between 0x0610 i 0x0633 ∨ between 0x0638 i 0x063C ∨ between 0x0650 i 0x0652 ∨ between 0x0654 i 0x0656 then some ⟨1, .ctx, .rw⟩
  else if i = 0x0653 then some ⟨1, .ctx, .ro⟩
  else if i = 0x0700 ∨ between 0x0704 i 0x0708 then some ⟨2, .module, .rw⟩
  else if between 0x0701 i 0x0702 then some ⟨2, .module, .ro⟩
  else if between 0x0710 i 0x0713 then some ⟨1, .part, .rw⟩
  else if between 0x0800 i 0x0820 ∨ i = 0x0834 then some ⟨2, .module, .rw⟩
  else if i = 0x0821 then some ⟨1, .core, .rw⟩
  else if i = 0x0822 then some ⟨1, .core, .ro⟩
  else if between 0x0828 i 0x082C then some ⟨1, .module, .ro⟩
  else if between 0x0830 i 0x0831 then some ⟨1, .part, .rw⟩
  else if i = 0x0832 then some ⟨1, .part, .wo⟩
  else if i = 0x0833 then some ⟨1, .part, .ro⟩
  else none

/-- The copy that a core of the module reaches. -/
def State.csrScope (s : State) (c : CsrCopy) (core : Nat) : CsrScope :=
  let pn := s.pnOfDie (dieOfCore core)
  match c with
  | .module => .module
  | .die => .die (dieOfCore core)
  | .part => .part pn
  | .core => .core core
  | .ctx => .ctx pn (s.dbgSel pn)
  | .island k => .die (k / 8)

/-- The level that naming the register takes (R321, R330). -/
def State.csrLevel (s : State) (r : CsrRow) (core : Nat) : Nat :=
  match r.copy with
  | .island k => if s.pnOfDie (k / 8) = s.pnOfDie (dieOfCore core) then 1 else 2
  | _ => r.level

/-! ### Reads -/

/-- CTX_CTL(c): VALID, SUSP, RES (R330). -/
def State.ctxCtl (s : State) (pn c : Nat) : Word :=
  let res := s.blocks.any fun b => b.pn == pn && b.ctx == c && b.resident && b.kind == .task
  match s.ctx? pn c with
  | some x => BitVec.ofNat 32 ((if x.valid then 2 ^ 31 else 0) + (if x.susp then 2 ^ 30 else 0) + (if res then 2 ^ 29 else 0))
  | none => 0

/-- The barrier that DBG_BARH and DBG_BARN name (R378). -/
def State.debugBar (s : State) (pn : Nat) : Option Barrier :=
  let n := (s.csr (.part pn) 0x0641).toNat
  match s.namedWarp pn (s.csr (.part pn) 0x0640) with
  | none => none
  | some (b, _) =>
    let bar := n / 2 ^ 16 % 16
    if n / 2 ^ 8 % 2 = 0 then some (s.barOf (.block b.launch b.blk bar))
    else
      let g := n % 256
      if (s.launch? b.launch).elim true fun l => decide (l.groups.length ≤ g) then none
      else some (s.barOf (.group b.launch g bar))

def State.debugBarWord (s : State) (pn k : Nat) : Word :=
  match s.debugBar pn with
  | none => 0
  | some b => if k = 0 then BitVec.ofNat 32 (b.arrived % 65536 * 65536 + b.x % 65536) else if k = 1 then b.phase
    else b.status

/-- What a read returns; a write-only register reads as zero (R6). -/
def State.csrRead (s : State) (core level i : Nat) (r : CsrRow) : Word :=
  let pn := s.pnOfDie (dieOfCore core)
  if r.access = .wo then 0
  else if between 0x0430 i 0x043F then s.ctxCtl pn (i - 0x0430)
  else if between 0x0642 i 0x0644 then s.debugBarWord pn (i - 0x0642)
  else if i = 0x0822 then
    let sel := (s.csr (.core core) 0x0821).toNat
    let pclu := sel % 256
    s.telemetry pclu (sel / 256) (decide (2 ≤ level) || s.pnOfDie (pclu / 40) == pn)
  else s.csr (s.csrScope r.copy core) i

/-! ### Writes -/

/-- A field clamped to a range. -/
def clamp (lo v hi : Nat) : Nat := max lo (min v hi)

/-- The low word of an address register, its low bits reading zero; the high words keep every bit. -/
def lowAligned (v : Word) (bits : Nat) : Word := v &&& (0xFFFFFFFF#32 <<< bits)

/-- The bits that a write keeps of a register without further effects: reserved bits read zero, fields are clamped. -/
def csrStored (pn i : Nat) (old v : Word) : Word :=
  let n := v.toNat
  if i = 0x0100 then v &&& 0xFFFFFC00#32
  else if i = 0x0101 then v &&& 0x8F00FFFF#32
  else if i = 0x0210 then BitVec.ofNat 32 (clamp 64 (n % 2 ^ 14) 8192)
  else if i = 0x0220 then
    let ivl := if old.getLsbD 30 then old.toNat % 4096 else clamp 250 (n % 4096) 4000
    BitVec.ofNat 32 ((if v.getLsbD 31 then 2 ^ 31 else 0) + (if v.getLsbD 30 || old.getLsbD 30 then 2 ^ 30 else 0) + ivl)
  else if between 0x0300 i 0x037F then (if i % 2 = 0 then lowAligned v 6 else v)
  else if i = 0x03C0 ∨ i = 0x0650 ∨ i = 0x0830 then lowAligned v 6
  else if i = 0x03C2 then BitVec.ofNat 32 (n / 65536 * 65536 + clamp 4 (n % 32) 20)
  else if i = 0x03C8 then
    let k := n % 2048
    BitVec.ofNat 32 (if 512 * pn ≤ k ∧ k + 2 ≤ 512 * pn + 511 then k else 512 * pn)
  else if i = 0x03D0 then v &&& 0x00FFFFFF#32
  else if i = 0x03D4 then v &&& 0xFFFFFFFD#32
  else if i = 0x0400 then BitVec.ofNat 32 (n / 2 ^ 31 * 2 ^ 31 + max 50 (n % 65536))
  else if i = 0x0508 then v &&& 0xFF#32
  else if i = 0x0509 then
    BitVec.ofNat 32 ((if n / 1024 % 1024 + n % 1024 ≤ 576 then n / 2 ^ 31 * 2 ^ 31 else 0) + n % 2 ^ 20)
  else if i = 0x0510 then v &&& 0xFFFF#32
  else if i = 0x0530 then v &&& 0xC0FF00FF#32
  else if i = 0x0600 then v &&& 0xF#32
  else if between 0x0610 i 0x061F then (if i % 2 = 0 then lowAligned v 2 else v)
  else if between 0x0620 i 0x0627 then v &&& 0xCF000000#32
  else if between 0x0630 i 0x0633 then v &&& 0xFF00003F#32
  else if between 0x0638 i 0x063B then v &&& 0x8FFFF800#32
  else if i = 0x0641 then v &&& 0x000F01FF#32
  else if i = 0x0652 then
    BitVec.ofNat 32 (n / 2 ^ 30 * 2 ^ 30 + max 4 (n / 65536 % 16) * 65536 + max 1 (n % 65536))
  else if i = 0x0656 then BitVec.ofNat 32 (clamp 6 (n % 64) 48)
  else if between 0x0710 i 0x0713 then v &&& 0x1F1F#32
  else if between 0x0800 i 0x081F then BitVec.ofNat 32 (n / 2 ^ 28 * 2 ^ 28 + clamp 40 (n % 65536) 2000)
  else if i = 0x0820 then BitVec.ofNat 32 (clamp 2048 (n % 2 ^ 20) 262144)
  else if i = 0x0821 then v &&& 0xFFFF#32
  else v

/-- PWR_CAP: balances keep their value until a refill caps them again (R401, R404). -/
def State.setPowerCap (s : State) (v : Word) : State :=
  let all := (List.range 128).map fun c => (c, s.balance c)
  let s := s.setCsr .module 0x0820 v
  { s with energy := all.filter fun e => e.2 != s.energyCap }

/-- Refills that are due come before a change of the budget (R402). -/
def State.refillNow (s : State) (die : Nat) : State :=
  match execTokenRefill die s with
  | .next t => t
  | _ => s

/-- A result that is a next state. -/
def Result.state (r : Result) (s : State) : State :=
  match r with
  | .next t => t
  | _ => s

/-- CTX_CTL(c) (R330, R340). -/
def State.writeCtxCtl (s : State) (pn c : Nat) (v : Word) : State :=
  let s := (if v.getLsbD 31 then execCtxCreate pn c s else execCtxTeardown pn c s).state s
  let susp := v.getLsbD 30
  if (s.ctx? pn c).elim susp fun x => x.susp != susp then (execCtxSuspend pn c susp s).state s else s

/-- Slices and ticks of a new period fall at its multiples from now on (R319, R341). -/
def State.newPeriod (s : State) (die pn i : Nat) : State :=
  if i = 0x0400 then { s with sliced := numSet s.sliced pn s.gt }
  else if i = 0x0220 then { s with ticked := (List.range 8).foldl (fun t k => numSet t (8 * die + k) s.gt) s.ticked }
  else s

/-- What a write does to a register that software may write (R196); the partition-level registers of a die whose image has
been refused stay as they are (R413). -/
def State.csrWrite (s : State) (core i : Nat) (r : CsrRow) (v : Word) : State :=
  let die := dieOfCore core
  let pn := s.pnOfDie die
  let sc := s.csrScope r.copy core
  if r.access = .ro || (decide (r.level < 2) && s.refused.contains die) then s
  else if between 0x0380 i 0x03BF then (execLqBell die (i - 0x0380) s).state s
  else if i = 0x03D9 then (execNoteSend core v s).state s
  else if between 0x0430 i 0x043F then s.writeCtxCtl pn (i - 0x0430) v
  else if between 0x0500 i 0x0503 then (execHportCtlWrite (i - 0x0500) v s).state s
  else if i = 0x0511 then (execPeerWtabLatch die v s).state s
  else if i = 0x063C then (execTrigStatWrite core v s).state s
  else if i = 0x0700 then (execPartMapWrite v s).state s
  else if between 0x0704 i 0x0707 then (execMemIvlWrite (i - 0x0704) v s).state s
  else if i = 0x0708 then (execWeltOpenWrite v s).state s
  else if i = 0x0832 then (execAttCmd die v s).state s
  else if i = 0x0834 then (execFwSvnWrite die v s).state s
  else if i = 0x0820 then s.setPowerCap (csrStored pn i 0 v)
  else
    let s := if between 0x0800 i 0x081F then s.refillNow ((i - 0x0800) / 8) else s
    let s := (s.setCsr sc i (csrStored pn i (s.csr sc i) v)).newPeriod die pn i
    if i = 0x0530 ∧ !v.getLsbD 31 then
      State.setCsr { s with clock := State.reset.clock } .module 0x0531 (timeStat 0 31 s.timeOffset)
    else s

/-! ### The host's window (R362) -/

/-- HOST_WINDOW_ACCESS: a 32-bit access at offset 4 × i of the window of a die, at partition level. -/
def execHostWindowAccess (addr : Nat) (write : Bool) (v : Word) (s : State) : Result :=
  let core := 128 * (addr / 2 ^ 24 % 4)
  let i := addr % 2 ^ 24 / 4
  if addr % 4 ≠ 0 then .next s
  else
    match csrRow i with
    | none => .next s
    | some r =>
      if 1 < s.csrLevel r core then .next s
      else if write then .next (s.csrWrite core i r v).unhold
      else .next s

end Sys2Proof.Machine
end

