-- ==== Sys2Proof/Machine/System.lean ====
section
/-! DEFINITION. The SYS words: control registers, warps by handle, halting, resuming and stepping, shoot-downs, quiesce,
capability and group entries (spec/08_isa_engines_system.md, R195 to R204; spec/17_churn.md, R328). -/

namespace Sys2Proof.Machine

/-! ### The common form (R82, R176, R195) -/

/-- A SYS word that acts once: interlock, then what the registers of every issued thread meet, with PRIV below the level,
and `more`, what the operands of the highest one name; below the level they name nothing (log 24). -/
def sysWord (s : State) (lvl : Nat) (uses : List RegUse) (more : Exec → List (Lane × Cause)) (k : Exec → Result) : Result :=
  withIssue s none fun x =>
    if x.onceLocked uses then x.onceHold uses
    else
      let low := decide (x.w.level < lvl)
      let cs := inLaneOrder (x.onceCauses uses low ++ if low then [] else more x)
      if cs.isEmpty then k x else x.orTrap cs [] (.next x.s)

/-- A SYS word that acts for each issued thread: PRIV below the level. -/
def sysEach (s : State) (lvl : Nat) (uses : List RegUse) (k : Exec → Result) : Result :=
  withIssue s none fun x =>
    if x.interlocked uses then x.holdOn uses
    else if x.w.level < lvl then
      x.orTrap ((lanesIn x.act).filterMap fun l => (x.regCause uses true l).map fun c => (l, c)) [] (.next x.s)
    else k x

def Exec.pn (x : Exec) : Nat := x.s.pnOfDie (dieOfCore x.b.core)

def badHandle : Cause := { code := .illegal }
def badBits : Cause := { code := .illegal, sub := 1 }

/-! ### CSRR, CSRW (R196) -/

/-- The condition of naming a register: an index that is not allocated, or one above the issuer's level; no register is
visible at task level (R30, R196). -/
def Exec.csrCause (x : Exec) (i : Nat) : Option Cause :=
  match csrRow i with
  | none => some { code := .illegal }
  | some r => if x.w.level < x.s.csrLevel r x.b.core then some { code := .priv } else none

/-- What every lane meets in naming a register: the condition of the index, and STREAM where field b of the index is the
number of a bound port (R150). -/
def Exec.csrCauses (x : Exec) (i : BitVec 14) : List (Lane × Cause) :=
  (lanesIn x.act).flatMap fun l =>
    ((x.csrCause i.toNat).toList ++ (if (x.w.thread l).bound (i.toNat % 128) then [streamFault] else [])).map fun c => (l, c)

def csrWord (s : State) (uses : List RegUse) (i : BitVec 14) (k : Exec → CsrRow → Result) : Result :=
  sysWord s 0 uses (fun x => x.csrCauses i) fun x =>
    match csrRow i.toNat with
    | some r => k x r
    | none => x.trapAll { code := .illegal }

def execCsrr (d : VReg) (i : BitVec 14) (s : State) : Result :=
  csrWord s [dst1 d] i fun x r =>
    x.answer [] d (x.s.csrRead x.b.core x.w.level i.toNat r) id

def execCsrw (d : VReg) (i : BitVec 14) (s : State) : Result :=
  csrWord s [src1 d] i fun x r =>
    x.actOnce [d] fun s => (s.csrWrite x.b.core i.toNat r (x.hiWord [] d)).unhold

/-! ### RDWR, WRWR (R197) -/

/-- A selector. -/
structure Selector where
  file : Nat
  lane : Lane
  index : Nat
  bad : Bool

def selectorOf (v : Word) : Selector :=
  let n := v.toNat
  { file := n / 2 ^ 28, lane := laneOfNat (n / 2 ^ 8 % 32), index := n % 2 ^ 7
    bad := n / 2 ^ 13 % 2 ^ 15 != 0 || n / 2 ^ 7 % 2 != 0 }

/-- The warp is parked, or stopped in a halted block. -/
def Warp.reachableIn (w : Warp) (b : Block) : Bool := w.parked.isSome || (b.halted && w.hasStopped)

/-- The warp of a handle that RDWR and WRWR may reach. -/
def State.heldWarp (s : State) (pn : Nat) (h : Word) : Option (Block × Nat × Warp) :=
  match s.namedWarp pn h with
  | none => none
  | some (b, i) => (b.warp? i).bind fun w => if w.reachableIn b then some (b, i, w) else none

/-- A register of a file; none where the index is out of range. -/
def readFile (b : Block) (w : Warp) (z : Selector) : Option Word :=
  let t := w.thread z.lane
  let at0 (v : Word) : Option Word := if z.index = 0 then some v else none
  match z.file with
  | 0 => if z.index < w.alloc then some (t.v.toList.getD z.index 0) else none
  | 1 => at0 (t.p.setWidth 32 ||| 0x80#32)
  | 2 => if z.index < 64 then some (w.uni (BitVec.ofNat 6 z.index)) else none
  | 3 => w.m[z.index]?
  | 4 => w.a[z.index]?
  | 5 => at0 (t.pc.setWidth 32)
  | 6 => at0 (t.pc.extractLsb' 32 32)
  | 7 => at0 (w.wct.setWidth 32)
  | 8 => at0 (w.wct.extractLsb' 32 32)
  | 9 => at0 (cntWord w)
  | 10 => at0 (t.fpflags.setWidth 32)
  | 11 => if z.index < 4 then some (((t.ports.toList.getD z.index none).map (·.pos)).getD 0) else none
  | 12 => b.seq.q[z.index]?
  | 13 => at0 b.seq.offset
  | _ => none

/-- The poison of what a selector names: a read of it traps (R33, R329); FILE 1 holds every predicate. -/
def Warp.filePoison (w : Warp) (z : Selector) : Option Poison :=
  w.poison.find? fun p => p.file == z.file && (z.file == 1 || p.reg == z.index) && (2 ≤ z.file || p.lane == z.lane.val)

/-- The warp that V[a] of some active lane names is in a move (R328). -/
def Exec.namesMoving (x : Exec) (a : VReg) : Bool :=
  (lanesIn x.act).any fun l =>
    match x.get1 (x.w.thread l) a with
    | .ok (h, _) => (x.s.namedWarp x.pn h).elim false fun e => x.s.moveOf e.1.core
    | .error _ => false

/-- What a lane of RDWR reads. -/
def Exec.fileRead (x : Exec) (a b : VReg) : LaneRead Word := fun l t =>
  match x.rd11 a b l t with
  | .error c => .error c
  | .ok (u, t) =>
    let z := selectorOf u.2
    match x.s.heldWarp x.pn u.1 with
    | none => .error badHandle
    | some (tb, _, w) =>
      if z.bad then .error badHandle
      else
        match readFile tb w z with
        | none => .error badHandle
        | some v =>
          match w.filePoison z with
          | some p => .error { code := .ecc, addr := p.addr }
          | none => .ok (v, t)

def execRdwr (d a b : VReg) (s : State) : Result :=
  sysEach s 1 [src1 a, src1 b, dst1 d] fun x =>
    if x.namesMoving a then x.hold
    else x.run [src1 a, src1 b, dst1 d] false (x.fileRead a b) (fun _ _ v t => x.put1 t d v) keepWarp

/-- A thread moved to an address: one asleep goes on there when it wakes (R197; log 43). -/
def Thread.moveTo (t : Thread) (pc : DWord) : Thread :=
  { t with pc := pc, life := match t.life with | .asleep z => .asleep { z with next := pc } | x => x }

/-- The position of a port, as it stands and as the word of a sleeping thread leaves it (R197). -/
def Thread.setPos (t : Thread) (j : Nat) (v : Word) : Thread :=
  let at' (ps : Vector (Option Stream) 4) : Vector (Option Stream) 4 :=
    ps.setIfInBounds j ((ps.toList.getD j none).map fun st => { st with pos := v })
  { t with ports := at' t.ports, life := match t.life with | .asleep z => .asleep { z with ports := at' z.ports } | x => x }

/-- What a WRWR changes; the condition it meets where it may not. -/
inductive FileWrite where
  | thread (f : Thread → Thread)
  | warp (f : Warp → Warp)
  | seq (f : Sequencer → Sequencer)

def writeFile (b : Block) (w : Warp) (z : Selector) (v : Word) : Except Cause FileWrite :=
  let at0 (f : Thread → Thread) : Except Cause FileWrite := if z.index = 0 then .ok (.thread f) else .error badHandle
  match z.file with
  | 0 =>
    if z.index < w.alloc then .ok (.thread fun t => { t with v := t.v.setIfInBounds z.index v }) else .error badHandle
  | 1 => at0 fun t => { t with p := v.setWidth 7 }
  | 2 => if z.index < 64 then .ok (.warp fun w => w.setUni (BitVec.ofNat 6 z.index) v) else .error badHandle
  | 3 => if z.index < 12 then .ok (.warp fun w => { w with m := w.m.setIfInBounds z.index v }) else .error badHandle
  | 4 => if z.index < 12 then .ok (.warp fun w => { w with a := w.a.setIfInBounds z.index v }) else .error badHandle
  | 5 =>
    if z.index ≠ 0 then .error badHandle
    else if v.extractLsb' 0 2 ≠ 0 then .error { code := .memAlign }
    else .ok (.thread fun t => t.moveTo (t.pc.extractLsb' 32 32 ++ v))
  | 6 => at0 fun t => t.moveTo (v ++ t.pc.setWidth 32)
  | 10 => at0 fun t => { t with fpflags := v.setWidth 5 }
  | 11 =>
    if 4 ≤ z.index then .error badHandle
    else
      match (w.thread z.lane).ports.toList.getD z.index none with
      | none => .error { code := .stream }
      | some st =>
        if st.count < v then .error { code := .stream }
        else .ok (.thread fun t => t.setPos z.index v)
  | 12 =>
    if 32 ≤ z.index ∨ (b.seq.st = 1 ∧ !b.halted) then .error badHandle
    else .ok (.seq fun q => { q with q := q.q.setIfInBounds z.index v })
  | _ => .error badHandle

def State.applyFile (s : State) (bid wi : Nat) (l : Lane) : FileWrite → State
  | .thread f => s.modThread bid wi l f
  | .warp f => s.modWarp bid wi f
  | .seq f => s.modSeq bid f

/-- A register that is written holds no poison any more (R359). -/
def State.cleanFile (s : State) (bid wi : Nat) (z : Selector) : State :=
  s.modWarp bid wi fun w => { w with poison := w.poison.filter fun p =>
    !(p.file == z.file && (z.file == 1 || p.reg == z.index) && (2 ≤ z.file || p.lane == z.lane.val)) }

/-- What a lane of WRWR writes, and where. -/
def Exec.fileWrite (x : Exec) (d a b : VReg) : LaneRead ((Nat × Nat × Selector) × FileWrite) := fun l t =>
  match x.rd11 a b l t with
  | .error c => .error c
  | .ok (u, t) =>
    match x.get1 t d with
    | .error c => .error c
    | .ok (v, t) =>
      let z := selectorOf u.2
      match x.s.heldWarp x.pn u.1 with
      | none => .error badHandle
      | some (tb, i, w) =>
        if z.bad then .error badHandle
        else (match writeFile tb w z v with | .error c => .error c | .ok f => .ok (((tb.bid, i, z), f), t))

def execWrwr (d a b : VReg) (s : State) : Result :=
  let uses := [src1 a, src1 b, src1 d]
  sysEach s 1 uses fun x =>
    if x.namesMoving a then x.hold
    else
      let reads := x.readLanes uses false (x.fileWrite d a b)
      let outs := writeLanes reads fun _ _ _ t => .ok ⟨t, []⟩
      x.orTrap (laneCauses outs) [] (.next ((lanesIn x.act).foldl (fun s l =>
        match laneVal reads l with
        | none => s
        | some ((bid, i, z), f) => (s.applyFile bid i z.lane f).cleanFile bid i z) (x.finish uses outs id)).unhold)

/-! ### HALTW, RESW (R198, R199) -/

/-- HALTW: the block is halted at once; the word completes when every warp has stopped, and any move of its cluster is
over (R198, R328). -/
def execHaltw (a : VReg) (s : State) : Result :=
  sysWord s 1 [src1 a]
    (fun x => x.ofOperand [] a fun h => causeIf ((x.s.namedWarp x.pn h).elim true fun e => !e.1.resident) badHandle) fun x =>
      match x.s.namedWarp x.pn (x.hiWord [] a) with
      | none => x.trapAll badHandle
      | some (b, _) =>
        if !(x.debugCauses []).isEmpty then x.orTrap [] [] (.next x.s)
        else
          let y := x.inState (x.s.haltBlock b.bid)
          let stopped := (y.s.block? b.bid).elim true fun b => b.warps.all Warp.hasStopped
          if stopped && !y.s.moveOf b.core then y.actOnce [a] State.unhold else y.hold

/-- A parked warp goes on: in a halted block it stays held until the halt is released. -/
def Warp.unpark (halted : Bool) (w : Warp) : Warp :=
  let w := { w with parked := none }.arrivals
  if halted then { w with stopped := ~~~w.endedMask } else w

/-- Mode 0: the word of each parked thread runs again, exempt from breakpoints and watchpoints (R375). -/
def Warp.again (p : Parked) (w : Warp) : Warp :=
  w.modThreads fun l t => if inMask p.lanes l then { t with exempt := true, held := false, hangKept := 0 } else t

/-- Mode 1: each parked thread passes its word or pair. -/
def Warp.past (p : Parked) (w : Warp) : Warp :=
  w.modThreads fun l t => if inMask p.lanes l then t.pass p.len else t

/-- Mode 2: every thread ends as by EXIT. -/
def Warp.retire (w : Warp) : Warp := ({ w with parked := none, note := none }.endLanes (~~~0#32))

/-- Mode 3: the halt is released.  What was asked of the block's core meanwhile is asked of it now (R246, R342). -/
def Block.releaseHalt (b : Block) : Block :=
  match b.life with
  | .switchedOut _ => { b with life := .switchedOut false, stopFor := none, frozen := false }
  | _ => { b with life := .running, stopFor := none, frozen := false, warps := b.warps.map Warp.goOn }

def State.releaseHalt (s : State) (b : Block) : State :=
  let s := s.modBlock b.bid Block.releaseHalt
  if s.switching b.core && b.resident then
    s.modBlock b.bid fun b => { b.askStop .switch s.gt (s.hiRail b.core) with life := .stopped }
  else s

/-- What RESW does to its target; nothing where the target is not in the state the mode needs. -/
def State.resume (s : State) (b : Block) (i : Nat) (w : Warp) (mode : Nat) : Option State :=
  match mode, w.parked with
  | 0, some p => some (s.modWarp b.bid i fun w => (w.again p).unpark b.halted)
  | 1, some p => some (s.modWarp b.bid i fun w => (w.past p).unpark b.halted)
  | 2, p =>
    if p.isSome || b.halted then
      let s := (w.sleepGroups b.bid i).foldl State.withdrawWq s
      some ((s.cancelCmds fun c => c.bid == b.bid && c.w == i).modWarp b.bid i Warp.retire)
    else none
  | 3, _ => if b.halted then some (s.releaseHalt b) else none
  | _, none => none
  | _, some _ => none

/-- The target of RESW, where it is in the state that the mode needs. -/
def Exec.resumed (x : Exec) (h m : Word) : Option (Block × Nat × Warp × State) :=
  (x.s.namedWarp x.pn h).bind fun (tb, i) => (tb.warp? i).bind fun w =>
    (x.s.resume tb i w (m.toNat % 4)).map fun s => (tb, i, w, s)

def Exec.reswCause (x : Exec) (h m : Word) : Option Cause :=
  if m.toNat / 4 ≠ 0 then some badBits
  else
    match x.s.namedWarp x.pn h with
    | none => some badHandle
    | some (tb, _) => causeIf (!x.s.moveOf tb.core && (x.resumed h m).isNone) badHandle

/-- RESW: it waits for the end of a move of the target's cluster (R328), and mode 2 for the loads that have still to push to
a bound port of the target, as EXIT does (R118, R149). -/
def execResw (a b : VReg) (s : State) : Result :=
  sysWord s 1 [src1 a, src1 b]
    (fun x => (x.operand [] a).elim [] fun h => x.ofOperand [a] b (x.reswCause h)) fun x =>
      let h := x.hiWord [] a
      let m := x.hiWord [a] b
      match x.resumed h m with
      | none => x.hold
      | some (tb, i, w, _) =>
        if x.s.moveOf tb.core || (m.toNat % 4 == 2 && x.s.portPending tb.bid i w (~~~0)) then x.hold
        else x.actOnce [a, b] fun s => ((s.resume tb i w (m.toNat % 4)).getD s).settleLocks.unhold

/-! ### STEP (R200) -/

/-- Starts a step: the stepping threads wait on their word until it is over. -/
def State.startStep (s : State) (r : StepReq) : State := State.closeIssue { s with stepReq := some r }

/-- What a stepping lane reads at issue; that it can take its answer is checked then (R150). -/
def Exec.stepLane (x : Exec) (d a b : VReg) (l : Lane) (t : Thread) : Except Cause LaneOut :=
  match x.popHi [a, b] l t with
  | .error c => .error c
  | .ok t => (match checkDst x t d with | .error c => .error c | .ok _ => .ok ⟨t, []⟩)

/-- The active lanes of the word as they have read, where each is. -/
def Exec.lanesAre (x : Exec) (outs : Vector (Option (Except Cause LaneOut)) 32) : State :=
  x.s.modWarp x.i.bid x.i.w fun w => w.modThreads fun l t => match outs[l] with | some (.ok o) => o.t | _ => t

/-- The warp that STEP names: no handle of one, or one whose block is not halted or which is parked, is ILLEGAL, once no
move of its cluster stands before that. -/
def Exec.stepCause (x : Exec) (h v : Word) : Option Cause :=
  if v.toNat / 32 ≠ 0 then some badBits
  else
    match x.s.namedWarp x.pn h with
    | none => some badHandle
    | some (tb, i) =>
      causeIf (!x.s.moveOf tb.core && (tb.warp? i).elim true fun w => !tb.halted || w.parked.isSome) badHandle

def execStep (d a b : VReg) (s : State) : Result :=
  sysWord s 1 [src1 a, src1 b, dst1 d]
    (fun x => (x.operand [] a).elim [] fun h => x.ofOperand [a] b (x.stepCause h)) fun x =>
      let v := x.hiWord [a] b
      match (x.s.namedWarp x.pn (x.hiWord [] a)).bind fun (tb, i) => (tb.warp? i).map fun w => (tb, i, w) with
      | none => x.hold
      | some (tb, i, w) =>
        let t := w.thread (laneOfNat v.toNat)
        if x.s.moveOf tb.core ∨ !tb.resident ∨ !w.hasStopped ∨ x.s.stepReq.isSome then x.hold
        else if t.ended then x.answer [a, b] d 3 id
        else if t.asleep.isSome then x.answer [a, b] d 1 id
        else
          let outs := lanesOf fun l => if inMask x.act l then some (x.stepLane d a b l (x.w.thread l)) else none
          x.orTrap (laneCauses outs) [] (.next ((x.lanesAre outs).startStep
            { bid := x.i.bid, w := x.i.w, lanes := x.i.lanes, len := x.i.len, d := d, tbid := tb.bid, tw := i
              lane := v.toNat % 32, started := false }))

/-- What a stepped thread has come to. -/
def stepResult (w : Warp) (l : Lane) : Word :=
  if (w.thread l).ended then 3
  else if w.parked.isSome then 2
  else if (w.thread l).asleep.isSome then 1
  else 0

/-- The step is over: V[d] is written in every stepping thread, and they go on. -/
def State.endStep (s : State) (r : StepReq) : State :=
  let v := (s.warp? r.tbid r.tw).elim 3 fun w => stepResult w (laneOfNat r.lane)
  let s := State.modWarp { s with stepReq := none } r.bid r.w fun w => w.pass r.lanes r.len
  ((lanesIn r.lanes).foldl (fun s l => s.deliverReg r.bid r.w l r.d v) s).unhold

/-! ### TLBINV, QSC (R201, R202) -/

/-- Dropped translations: modes 0 to 2 act in one partition, mode 3 on the TLBs of the dies of a mask. -/
def State.shootDown (s : State) (pn mode ctx va : Nat) (dies : List Nat) : State :=
  let gone (t : TlbEntry) : Bool :=
    match mode with
    | 0 => t.pn == pn && t.ctx == ctx && va / t.size == t.base / t.size
    | 1 => t.pn == pn && t.ctx == ctx
    | 2 => t.pn == pn
    | _ => dies.contains t.place.die
  { s with
    tlb := s.tlb.filter fun t => !gone t
    changed := if mode = 3 then s.changed.filter fun d => !dies.contains d else s.changed }

/-- TLBINV's operand: reserved bits are ILLEGAL, mode 3 needs steward level. -/
def Exec.tlbinvCause (x : Exec) (v : Word) : Option Cause :=
  let n := v.toNat
  if n / 2 ^ 12 ≠ 0 ∨ n / 4 % 4 ≠ 0 ∨ (n % 4 ≠ 3 ∧ n / 256 % 16 ≠ 0) then some badBits
  else causeIf (n % 4 == 3 && decide (x.w.level < 2)) { code := .priv }

def execTlbinv (a b : VReg) (s : State) : Result :=
  sysWord s 1 [src2 a, src1 b] (fun x => x.ofOperand [] b x.tlbinvCause) fun x =>
    let n := (x.hiWord [] b).toNat
    x.actOnce [b] fun s =>
      (s.shootDown x.pn (n % 4) (n / 16 % 16) (x.hiPair a).toNat (diesOfMask (n / 256 % 16))).unhold

def execQsc (d a : VReg) (s : State) : Result :=
  sysWord s 2 [src1 a, dst1 d]
    (fun x => x.ofOperand [] a fun v => causeIf (v.toNat / 16 % 16 != 0 || v.toNat / 2 ^ 9 != 0) badBits) fun x =>
      let n := (x.hiWord [] a).toNat
      let q := x.s.qsc (n % 16) (n / 256 == 1)
      x.answer [a] d q.1 fun s => (s.qsc (n % 16) (n / 256 == 1)).2.unhold

/-! ### CAPW, GRPW (R203, R204, R339, R365) -/

/-- The window and offset of an image of n bytes at a 16-aligned local offset.  An offset that is cluster-local names the
other slot's window, as in LDL; R203 and R204 do not say (DESIGN CHOICE, log 56). -/
def Exec.imageAt (x : Exec) (off n : Nat) : Except Cause (Nat × Nat) :=
  if off % 16 ≠ 0 then .error { code := .memAlign, addr := BitVec.ofNat 64 off } else x.s.resolveLocal x.b off n

/-- The bytes of an image. -/
def Exec.image (x : Exec) (off n : Nat) : List Byte :=
  match x.imageAt off n with
  | .ok (bid, o) => natToBytes n (x.s.winRead bid o n)
  | .error _ => []

/-- What an image meets: its place, then a malformed content, then a soft error in it (R34, R203). -/
def Exec.imageCause (x : Exec) (off n : Nat) (ok : List Byte → Bool) : Option Cause :=
  match x.imageAt off n with
  | .error c => some c
  | .ok (bid, o) =>
    if !ok (x.image off n) then some badBits
    else causeIf (x.s.winBad bid o n) { code := .ecc, addr := BitVec.ofNat 64 off }

/-- GROUP endpoints: [63:40] zero. -/
def groupEndpoint (n : Nat) : Bool := n / 2 ^ 40 == 0

/-- Every byte that the layout of an entry reserves is zero. -/
def capImageOk (f : Nat → Nat → Nat) : Bool :=
  f 1 1 / 32 == 0 && f 3 1 == 0 && f 24 8 == 0 && (f 0 1 == capQueue || f 2 1 == 0) &&
    (match f 0 1 with
     | 1 => groupEndpoint (f 8 8) && f 16 8 == 0
     | 2 => f 8 8 / 2 ^ 56 == 0 && f 16 8 == 0
     | 6 => groupEndpoint (f 16 8)
     | 7 => f 8 8 % 65536 == 0 && f 16 8 / 2 ^ 40 == 0 && f 16 8 % 65536 == 0 && f 16 8 != 0
     | _ => f 16 8 == 0)

/-- The binding that a CARD entry names: an old one, or a new one of the context (R275). -/
def State.cardFor (s : State) (pn ctx : Nat) (va : DWord) : Option (Nat × State) :=
  match s.translate none pn ctx va.toNat .none with
  | .error _ => none
  | .ok p =>
    if p.mt ≠ 0 ∨ p.loc % 64 ≠ 0 then none
    else
      match s.cards.find? fun k => k.pn == pn && k.loc == p.loc with
      | some k => some (k.gen, s)
      | none => (s.readCard pn ctx va p.loc s.cardGen).map fun k => (k.gen, s.bindCard k)

/-- Writes an entry from its image; nothing where the image is malformed. -/
def State.capw (s : State) (pn ctx n : Nat) (image : List Byte) : Option State :=
  let f (o k : Nat) : Nat := sliceNat image o k
  if !capImageOk f then none
  else
    let bound := if f 0 1 = capCard then s.cardFor pn ctx (BitVec.ofNat 64 (f 8 8)) else some (0, s)
    bound.map fun (gen, s) =>
      let e : CapEntry := { type := f 0 1, perms := BitVec.ofNat 5 (f 1 1), pclass := f 2 1, allow := BitVec.ofNat 32 (f 4 4)
                            endpoint := BitVec.ofNat 64 (f 8 8), aux := BitVec.ofNat 64 (f 16 8), card := gen }
      (s.setCtx pn ctx fun c => { c with caps := numSet c.caps n e }).unbindCards

def execCapw (a b : VReg) (s : State) : Result :=
  sysWord s 1 [src1 a, src1 b]
    (fun x => (x.operand [] a).elim [] fun v =>
      let n := v.toNat
      if n / 64 % 4 ≠ 0 ∨ n / 2 ^ 12 ≠ 0 then x.everyLane badBits
      else x.ofOperand [a] b fun off => x.imageCause off.toNat 32 fun im => (x.s.capw x.pn (n / 256) (n % 64) im).isSome) fun x =>
        let n := (x.hiWord [] a).toNat
        let im := x.image (x.hiWord [a] b).toNat 32
        x.actOnce [a, b] fun s => ((s.capw x.pn (n / 256) (n % 64) im).getD s).settleLocks.unhold

/-- The launch whose group-table entry may be written. -/
def State.grpwTarget (s : State) (pn ctx : Nat) (kern : Word) (g : Nat) (e : GroupEntry) : Option Launch :=
  (s.liveLaunch pn ctx kern).bind fun l =>
    if s.unplaced l && decide (g < l.groups.length) && ({ l with groups := l.groups.set g e }).groupsOk then some l else none

def execGrpw (d a b : VReg) (s : State) : Result :=
  sysWord s 1 [src2 a, src1 b, dst1 d]
    (fun x =>
      (if x.readable (src2 a) && (x.hiPair a).toNat / 2 ^ 40 != 0 then x.everyLane badBits else []) ++
        x.ofOperand [] b fun off => x.imageCause off.toNat 16 groupEntryOk) fun x =>
      let v := x.hiPair a
      let g := v.toNat / 2 ^ 32
      let e := groupEntry (x.image (x.hiWord [] b).toNat 16)
      match x.s.grpwTarget x.pn x.b.ctx (v.setWidth 32) g e with
      | none => x.answer [b] d 0 id
      | some l => x.answer [b] d 1 fun s => (s.modLaunch l.lid fun l => { l with groups := l.groups.set g e }).unhold

end Sys2Proof.Machine
end

