-- ==== Sys2Proof/Machine/Fetch.lean ====
section
/-! DEFINITION. Which warp a quad issues, fetching a word, and what surrounds the word it runs: waits, energy, trace counts, the
end of a STEP, time (spec/10_scheduling.md, R224 to R229; spec/11_divergence_cuckoo.md, R230 to R232;
spec/12_progress_classes.md, R255; spec/05_isa_integer_control.md, R117; spec/08_isa_engines_system.md, R194, R200;
spec/20_debug_trace.md, R379; spec/22_power_health_identity.md, R404). -/

namespace Sys2Proof.Machine

/-! ### Time (R2, R255; log 2) -/

/-- The target of a checked word counts as halted while a member that has not retired is halted (R255). -/
def State.targetHalted (s : State) (t : Target) : Bool :=
  match s.targetBlocks t with
  | some (l, ks) => ks.any fun k => !s.blkRetired l k && (s.blockOf l.lid k).elim false Block.halted
  | none => false

/-- The hang watchdog of a sleep counts (R255): its word is checked, or is WAITM. -/
def State.hangCounts (s : State) (z : Sleep) : Bool :=
  match z.target, z.kind with
  | some t, _ => !s.targetHalted t
  | none, .mask _ => true
  | none, _ => false

def Thread.age (dt : Nat) (counts : Sleep → Bool) (t : Thread) : Thread :=
  match t.life with
  | .asleep z => if counts z then { t with life := .asleep { z with hang := z.hang + dt } } else t
  | _ => t

/-- The context of the block's waiters is resident: they are on a core, or evicted while it is not switched out. -/
def State.contextHere (s : State) (b : Block) : Bool := b.resident || (b.life == .evicted && !s.ctxOut b.pn b.ctx)

def Block.age (dt : Nat) (counts : Sleep → Bool) (b : Block) : Block :=
  { b with warps := b.warps.map fun w => w.modThreads fun _ t => t.age dt counts }

/-- A warp of the block that has not stopped waits for tokens (R405). -/
def State.awaitsTokens (s : State) (b : Block) : Bool :=
  s.ereqs.any fun r => r.warps.any fun e => e.1 == b.bid && (b.warp? e.2).elim false fun w => !w.hasStopped

/-- By how much dt ns put the stop deadline of a block off: it counts cycles, not the time in which a warp waits for tokens;
of the time in which the cluster's clock is stretched it counts a part, whichever it is (R405, R406). -/
def State.putOff (s : State) (b : Block) (dt : Nat) : Nat :=
  if b.stopFor.isNone then 0
  else if s.awaitsTokens b then dt
  else if s.droops.contains (s.physCluster b.core) then Config.freePick (s.free + clusterOfCore b.core) % (dt + 1)
  else 0

/-- GT advances by dt, and so does the hang time of waiters that are not halted and whose context is resident. -/
def State.advance (s : State) (dt : Nat) : State :=
  { s with gt := s.gt + dt, blocks := s.blocks.map fun b =>
      let b := { b with deadline := b.deadline + s.putOff b dt }
      if s.contextHere b && !b.halted then b.age dt s.hangCounts else b }

/-- Time passes in a step: at least `least` ns. -/
def State.passTime (s : State) (least : Nat) : State :=
  { (State.advance { s with free := s.free + 1 } (least + Config.elapsed s.free)) with free := s.free + 130 }

/-! ### Fetching (R60, R117, R230 to R232, R345) -/

/-- The versions of a word that a fetch of a physical core may return: those of its cached lines, then the one in memory
(R232). -/
def State.wordVersions (s : State) (core pn ctx loc : Nat) : List Word :=
  let old := (s.code.filter fun e => e.core == core && e.pn == pn && e.ctx == ctx && e.line == lineOf loc).map fun e =>
    BitVec.ofNat 32 (sliceNat e.bytes (loc % 64) 4)
  let new := BitVec.ofNat 32 (s.load loc 4)
  if old.all (· == new) then [new] else old ++ [new]

/-- Lines of 64 bytes in an instruction cache of 64 KiB (R2). -/
def codeLines : Nat := 1024

/-- A full instruction cache gives up one of its lines, whichever it is. -/
def State.trimCode (s : State) (core : Nat) : State :=
  let mine := s.code.filter fun e => e.core == core
  if mine.length < codeLines then s
  else
    let (k, s) := s.drawPick mine.length
    match mine[k]? with
    | some e => { s with code := s.code.erase e }
    | none => s

/-- The line of a fetch may be held in the core's instruction cache from then on. -/
def State.keepCode (s : State) (core pn ctx loc : Nat) : State :=
  let e : CodeLine := ⟨core, pn, ctx, lineOf loc, s.lineBytes (lineOf loc)⟩
  if s.code.contains e then s else { (s.trimCode core) with code := e :: (s.trimCode core).code }

/-- Fetches the word at an address for a block: the word and the state after it, or the fault (R117). -/
def State.fetch (s : State) (b : Block) (pc : Nat) : Except Cause (Word × State) :=
  match s.translate (some b.core) b.pn b.ctx pc .execute with
  | .error c => .error c
  | .ok p =>
    if s.badAt p.loc 4 then .error { code := .ecc, addr := BitVec.ofNat 64 pc }
    else
    let core := s.physCore b.core
    let ws := s.wordVersions core b.pn b.ctx p.loc
    let (k, s) := s.drawPick ws.length
    .ok (ws.getD k 0, (s.keepLeaf (some b.core) b.pn b.ctx pc).keepCode core b.pn b.ctx p.loc)

/-- A fetch across a closed boundary is dropped there: it is not answered (R391). -/
def State.fetchBarred (s : State) (b : Block) (pc : Nat) : Bool :=
  match s.translate (some b.core) b.pn b.ctx pc .execute with
  | .ok p => s.barred b.core p.loc
  | .error _ => false

/-- The lanes of an issue that is not made are held. -/
def State.holdIssue (s : State) (i : Issue) : State :=
  (s.modLanes i.bid i.w i.lanes fun t => { t with held := true }).closeIssue

/-- The instruction of the word in issue: a hint misuse and a word that does not decode are no instruction (R69, R70). -/
def Issue.instr (i : Issue) : Instr :=
  if i.misuse then .illegalWord i.word
  else (match decode i.word with | .ok x => x | .error _ => .illegalWord i.word)

/-- A vector issue of a quad takes its energy, or asks for it (R404, R405); a steward core's clock is not a cluster's. -/
def State.payIssue (s : State) (b : Block) (w : Warp) (word : Word) : Option State :=
  if vectorMajor word && !b.isSteward then s.vectorEnergy b.core (w.slot / 16) else some s

/-- The word that cannot have its energy yet is held, and the request waits. -/
def State.awaitEnergy (s : State) (i : Issue) (b : Block) (w : Warp) : State :=
  (s.askEnergy (clusterOfCore b.core) (.vector b.core (w.slot / 16)) 1 [(i.bid, i.w)]).holdIssue i

/-- A word that is held is no issue of its burst: what it has taken of it is there when it is tried again (R404). -/
def State.giveBack (s : State) (b : Block) (w : Warp) (word : Word) : State :=
  if vectorMajor word && !b.isSteward then s.setBurst b.core (w.slot / 16) (s.burstLeft b.core (w.slot / 16) + 1) else s

/-- The fetch fault of an issued group names its lowest lane (R230). -/
def State.fetchTrap (s : State) (i : Issue) (b : Block) (w : Warp) (c : Cause) : State :=
  s.takeTrap { i with word := 0 } b w c ((lanesIn i.lanes).head?.elim 0 (·.val)) i.lanes

/-- The word was not completed: its threads are held. -/
def State.heldAt (s : State) (i : Issue) : Bool :=
  (s.warp? i.bid i.w).elim false fun w => (lanesIn i.lanes).any fun l => (w.thread l).held

/-- The word in issue belongs to the STEP in progress. -/
def State.stepOf (s : State) (i : Issue) : Option StepReq :=
  match s.stepReq with
  | some r => if r.started && r.tbid == i.bid && r.tw == i.w then some r else none
  | none => none

/-- A STEP whose word is over ends; one whose word is held issues it again later (R200). -/
def State.closeStep (s : State) (i : Issue) : State :=
  match s.stepOf i with
  | some r => if s.heldAt i then { s with stepReq := some { r with started := false } } else s.endStep r
  | none => s

/-- What a step finds where a word is to be issued: the instruction to run and the state to run it in, or a state in
which it is not run. -/
inductive Fetched where
  | run (x : Instr) (s : State)
  | stop (s : State)

/-- Fetches the next word of an issue: the word itself, or the word after its hint. -/
def State.nextWord (s : State) (i : Issue) : Fetched :=
  match s.block? i.bid with
  | none => .stop s.closeIssue
  | some b =>
    match b.warp? i.w with
    | none => .stop s.closeIssue
    | some w =>
      if s.fetchBarred b i.wordPc.toNat then .stop (s.holdIssue i)
      else
      match s.fetch b i.wordPc.toNat with
      | .error c => .stop (s.fetchTrap i b w c)
      | .ok (word, s) =>
        match s.payIssue b w word with
        | none => .stop (s.awaitEnergy i b w)
        | some s => .run ({ i with word := word }).instr { s with issue := some { i with word := word } }

/-- Fetches a sequencer's word. -/
def State.nextSeqWord (s : State) (bid : Nat) : Fetched :=
  match s.block? bid with
  | none => .stop { s with seqNow := none }
  | some b =>
    if s.fetchBarred b b.seq.pc.toNat then
      .stop (State.modBlock { s with seqNow := none } bid fun b => { b with seq := { b.seq with held := true } })
    else
    match s.fetch b b.seq.pc.toNat with
    | .error _ => .stop (State.seqFetchFault { s with seqNow := none } b)
    | .ok (word, s) =>
      .run (match decodeSeq word with | some x => x | none => .seqWordUnallocated word) { s with seqNow := some bid }

/-! ### Choosing (R224 to R227) -/

/-- The warp has come to a safe point with a notification pending: it parks there (R351). -/
def Warp.atNote (w : Warp) : Bool := w.note.isSome && w.atSafe && w.stop == .none

/-- Threads that may issue (R224). -/
def Warp.eligible (w : Warp) : Mask :=
  if w.parked.isSome || w.released || w.atNote then 0
  else maskOf fun l => (w.thread l).running && !(w.thread l).held && !inMask w.stopped l

/-- The block's warps may issue: it is on a core, in the context that runs there, and awaits no hop of the rail. -/
def State.blockIssues (s : State) (b : Block) : Bool :=
  (match b.life with | .placed | .running | .stopped | .halted => true | _ => false) &&
  (b.isSteward || (s.running b.core == some b.ctx && (numLookup s.hops (clusterOfCore b.core)).isNone))

/-- The warp waits in a STEP of its own. -/
def State.inStep (s : State) (bid w : Nat) : Bool := s.stepReq.elim false fun r => r.bid == bid && r.w == w

/-- A warp a quad may choose. -/
structure Choice where
  bid : Nat
  w : Nat
  cls : Nat
  slot : Nat
  warp : Warp

/-- The eligible warps of a quad (R225). -/
def State.quadChoices (s : State) (core quad : Nat) : List Choice :=
  (s.blocks.filter fun b => b.core == core && s.blockIssues b).flatMap fun b =>
    (b.warps.mapIdx fun i w => (i, w)).filterMap fun (i, w) =>
      if w.slot / 16 = quad ∧ w.eligible ≠ 0 ∧ !s.inStep b.bid i then
        some ⟨b.bid, i, b.cls, (match b.kind with | .handler _ _ _ => 16 | _ => w.slot % 16), w⟩
      else none

/-- A warp that is due. -/
def Choice.due (c : Choice) : Bool := (c.cls == 3 && decide (94 ≤ c.warp.wait)) || decide (4000 ≤ c.warp.wait)

/-- SelectWarp of R225. -/
def selectWarp (cs : List Choice) : Option Choice :=
  match cs.filter Choice.due with
  | [] => leastBy (fun c => (16 + c.warp.backoff - c.cls, 32 * (2 ^ 32 - c.warp.wait) + c.slot)) cs
  | due => leastBy (fun c => (2 ^ 32 - c.warp.wait, c.slot)) due

/-- The eligible threads that share the PC of a lane. -/
def Warp.groupAt (w : Warp) (l : Lane) : Mask := maskOf fun k => inMask w.eligible k && (w.thread k).pc == (w.thread l).pc

/-- The threads of the group that issues: the largest group wait count, no YIELD mark, the lowest PC (R227). -/
def Warp.selectGroup (w : Warp) : Option (DWord × Mask) :=
  let e := w.eligible
  let group := w.groupAt
  let count (m : Mask) : Nat := ((lanesIn m).map fun k => (w.thread k).gwait).foldl max 0
  let marked (m : Mask) : Bool := (lanesIn m).any fun k => (w.thread k).yielded
  (leastBy (fun l => (2 ^ 32 - count (group l),
    (if marked (group l) then 2 ^ 64 else 0) + (w.thread l).pc.toNat)) (lanesIn e)).map fun l => ((w.thread l).pc, group l)

/-- A placed block runs once a warp of it is eligible (R246). -/
def State.runBlock (s : State) (bid : Nat) : State :=
  match s.block? bid with
  | none => s
  | some b =>
    if b.life = .placed ∧ s.blockIssues b ∧ b.warps.any (fun w => w.eligible != 0) then
      s.modBlock bid fun b => { b with life := if b.stopFor.isSome then .stopped else .running }
    else s

/-- The first issue of a block: that of a guarded block counts where it comes late (R229, R324). -/
def State.startBlock (s : State) (bid : Nat) : State :=
  match s.block? bid with
  | none => s
  | some b =>
    if b.begun then s
    else
      let s := s.modBlock bid fun b => { b with begun := true }
      match s.launch? b.launch with
      | some l =>
        if l.guarded && l.cls == 3 && s.guardCtx l.pn == some l.ctx && decide (l.readyGt + 12000 < s.gt) then s.guardLate l
        else s
      | none => s

/-- A quad begins an issue; the step then goes on to fetch the word. -/
def State.beginIssue (s : State) (core quad : Nat) : State :=
  match selectWarp (s.quadChoices core quad) with
  | none => s
  | some c =>
    match c.warp.selectGroup with
    | none => s
    | some (pc, lanes) =>
      { s.startBlock c.bid with
        issue := some ⟨c.bid, c.w, lanes, pc, 0, none⟩ }

/-- A thread that a STEP carries on leaves its safe point: unless the word is one, a stop saves all it has (R237). -/
def Warp.unpoint (lane : Nat) (w : Warp) : Warp := { w with liveIdx := w.liveIdx.setIfInBounds lane 0 }

/-- The stepped thread issues its word (R200). -/
def State.beginStep (s : State) : State :=
  match s.stepReq with
  | none => s
  | some r =>
    match s.warp? r.tbid r.tw with
    | none => s.endStep r
    | some w =>
      { s.modWarp r.tbid r.tw (Warp.unpoint r.lane) with
        stepReq := some { r with started := true }
        issue := some ⟨r.tbid, r.tw, maskOf fun l => l.val == r.lane, (w.thread (laneOfNat r.lane)).pc, 0, none⟩ }

end Sys2Proof.Machine
end

