-- ==== Sys2Proof/Machine/Soft.lean ====
section
/-! DEFINITION. Soft errors, which strike freely: corrected ones, and uncorrectable ones of a register of any file, of local
memory, of device DRAM, of a plane or an accumulator row (spec/01_machine_state.md, R33; spec/16_matrix_engine.md, R315; spec/17_churn.md, R329;
spec/22_power_health_identity.md, R408; log 26). -/

namespace Sys2Proof.Machine

/-- A number below n that nothing fixes. -/
def freeBelow (free n : Nat) : Nat := Config.freePick free % max 1 n

/-- A corrected error of a die: CECC saturates at 255. -/
def State.corrected (s : State) (die : Nat) : State :=
  let v := s.csr .module (0x0828 + die)
  s.setCsr .module (0x0828 + die) (if v.toNat % 256 = 255 then v else v + 1)

/-- An uncorrectable error of a register of a warp: its content is open, and reading it traps. -/
def Warp.upset (w : Warp) (free : Nat) : Warp :=
  let lane := laneOfNat (freeBelow free 32)
  let reg := freeBelow (free + 1) w.alloc
  { w.modThreads fun l t =>
      if l = lane then t.setReg (BitVec.ofNat 7 reg) ((Config.freeBits (free + 2)).setWidth 32) else t with
    poison := ⟨lane.val, reg, (Config.freeBits (free + 3)).setWidth 64, 0⟩ :: w.poison }

/-- One of a predicate of a lane, of a uniform register, of a mask or of an arrival set. -/
def Warp.upsetHard (w : Warp) (free : Nat) : Warp :=
  let lane := laneOfNat (freeBelow free 32)
  let k := freeBelow (free + 1) 64
  let v : Word := (Config.freeBits (free + 2)).setWidth 32
  let (file, reg, w) : Nat × Nat × Warp := match freeBelow (free + 3) 4 with
    | 0 => (1, k % 7, w.modThreads fun l t => if l = lane then t.setPred (BitVec.ofNat 3 (k % 7)) v.msb else t)
    | 1 => (2, 1 + k % 63, w.setUni (BitVec.ofNat 6 (1 + k % 63)) v)
    | 2 => (3, k % 12, { w with m := w.m.setIfInBounds (k % 12) v })
    | _ => (4, k % 12, { w with a := w.a.setIfInBounds (k % 12) v })
  { w with poison := ⟨lane.val, reg, (Config.freeBits (free + 4)).setWidth 64, file⟩ :: w.poison }

/-- One of a byte of device DRAM. -/
def State.upsetMem (s : State) (free : Nat) : State :=
  let a := freeBelow free deviceBytes
  { s with mem := memWrite s.mem a ((Config.freeBits (free + 1)).setWidth 8), badMem := a :: s.badMem.filter (· != a) }

/-- One of a byte of local memory. -/
def Block.upsetWin (b : Block) (free : Nat) : Block :=
  let off := freeBelow free b.lm
  if b.lm = 0 then b
  else { b with
    win := memWrite b.win off ((Config.freeBits (free + 1)).setWidth 8)
    bad := off :: b.bad.filter (· != off) }

/-- One of a plane. -/
def Plane.upset (p : Plane) (free : Nat) : Plane := { freePlane free with fmt := p.fmt, bad := true }

/-- One of an accumulator row. -/
def EngineCtx.upsetRow (e : EngineCtx) (free : Nat) : EngineCtx :=
  let k := freeBelow free 512
  let row := (List.range 128).map fun n => (Config.freeBits (free + 1 + n)).setWidth 32
  { e with
    acc := e.acc.filter (·.1 != k) ++ (if row.all (· == 0) then [] else [(k, row)])
    badAcc := k :: e.badAcc.filter (· != k) }

/-- A soft error strikes a block: in what, and where, nothing fixes.  Planes and accumulators exist once the sequencer has
been started (R306). -/
def State.upset (s : State) : State :=
  let f := s.free
  let t : State := { s with free := s.free + 16384 + 8 }
  match s.blocks[freeBelow f s.blocks.length]? with
  | none => t
  | some b =>
    match freeBelow (f + 1) 8 with
    | 0 => t.corrected (dieOfCore b.core)
    | 1 => t.modWarp b.bid (freeBelow (f + 2) b.warps.length) (Warp.upset · (f + 3))
    | 2 => t.modBlock b.bid (Block.upsetWin · (f + 3))
    | 6 => t.modWarp b.bid (freeBelow (f + 2) b.warps.length) (Warp.upsetHard · (f + 3))
    | 7 => t.upsetMem (f + 2)
    | n =>
      if !b.seq.made then t
      else
        t.modBlock b.bid fun b => { b with eng :=
          match n with
          | 3 => { b.eng with active := b.eng.active.upset (f + 3) }
          | 4 => { b.eng with shadow := b.eng.shadow.upset (f + 3) }
          | _ => b.eng.upsetRow (f + 3) }

end Sys2Proof.Machine
end

