-- ==== Sys2Proof/Machine/Events.lean ====
section
/-! DEFINITION. What may happen in a step beside a word: what comes from outside, what is due at a GT, and what the parts of
the machine do in an order the spec leaves open (spec/95_what_each_step_holds.md; the chapters of the events). -/

namespace Sys2Proof.Machine

/-! ### What comes from outside -/

/-- Events of the table that come from outside: everything else in the input queue is passed over.  A residue check that
fails and an uncorrectable error of a copy's source are the environment's too (R193, R301). -/
def fromOutside (x : Instr) : Bool :=
  match x with
  | .moduleReset | .firmwareVerify _ _ | .tempSample _ _ | .droopDetect _ | .droopRecover _ | .hostLinkTrain _ _ _
  | .hostLinkDown _ | .hostMemrd _ _ | .hostMemwr _ _ | .bisnpComplete _ _ | .hostWindowAccess _ _ _ | .hostSnoop _ _
  | .hostCompletion _ _ | .peerRequestInbound _ _ | .peerResponse _ _ | .peerFlitReceive _ _ _ | .peerLinkTrain _ _ _
  | .ptpMessage _ _ | .ptpSourceLost | .copyFault _ => true
  | .matrixRunComplete _ ok => !ok
  | _ => false

/-! ### What happens inside -/

/-- One thing that the machine may do of itself. -/
inductive Due where
  | refill (die : Nat)
  | leaseOver (place line : Nat)
  | replace (place line : Nat)
  | exclusiveOver (line : Nat)
  | launchReady (lid : Nat)
  | deadline (bid : Nat)
  | rdgt (bid w : Nat) (l : Lane)
  | deqt (bid w : Nat) (l : Lane)
  | csleep (bid w : Nat) (l : Lane)
  | hang (bid w : Nat) (l : Lane)
  | slice (pn : Nat)
  | churn (island : Nat)
  | trace (core : Nat)
  | runs (bid : Nat)
  | load (id : Nat)
  | perform (id : Nat)
  | ack (op : Nat)
  | waitf (bid w : Nat) (l : Lane)
  | element (bid w : Nat) (l : Lane)
  | copyBegin (id : Nat)
  | copyUnit (id k : Nat)
  | copyDone (id : Nat)
  | copyFault (id : Nat)
  | grant (cluster : Nat)
  | readOn (cluster id : Nat)
  | runDone (cluster : Nat)
  | operationDone (cluster : Nat)
  | token (cluster : Nat)
  | rail (cluster : Nat)
  | invocation (core quad : Nat)
  | note (bid w : Nat)
  | dispatch (pn : Nat)
  | evicted (bid : Nat)
  | release (bid w : Nat)
  | ordered (lid : Nat)
  | launchEnd (lid : Nat)
  | switched (core : Nat)
  | transfer (island : Nat)
  | moved (island : Nat)
  | forward (slice : Nat)
  | ringTask (gen : Nat)
  | bin (cluster id : Nat)
  | quiet (die : Nat)
  | scrubbed (die : Nat)
  | report (die : Nat)
  | host
  | seqWord (bid : Nat)
  | stepWord
  | quad (core quad : Nat)
  deriving DecidableEq, Repr

/-- Does it.  A word that is begun is fetched and run by the next step. -/
def Due.run (d : Due) (s : State) : Result :=
  match d with
  | .refill d => execTokenRefill d s
  | .leaseOver p l => execLeaseExpire p l s
  | .replace p l => .next (s.replaceCopy p l)
  | .exclusiveOver l => execExclusiveLeaseEnd l s
  | .launchReady l => execLaunchReady l s
  | .deadline b => execStopDeadline b s
  | .rdgt b w l => execRdgtWake b w l s
  | .deqt b w l => execDeqtDeadline b w l s
  | .csleep b w l => execCsleepWake b w l s
  | .hang b w l => execHangWatchdogExpire b w l s
  | .slice p => execSliceTick p s
  | .churn i => execChurnTick i s
  | .trace c => execTracePeriod c s
  | .runs b => .next (s.runBlock b)
  | .load a => execLoadReturn a s
  | .perform a => execStorePerformedAtHome a s
  | .ack o => execStoreAck o s
  | .waitf b w l => execWaitfWake b w l s
  | .element b w l => execQueueElementReady b w l s
  | .copyBegin c => execCopyBegin c s
  | .copyUnit c k => execCopyGranuleFilled c k s
  | .copyDone c => execCopyComplete c s
  | .copyFault c => execCopyFault c s
  | .grant c => execMatrixGrant c s
  | .readOn c m => .next (s.readOn c m)
  | .runDone c => execMatrixRunComplete c true s
  | .operationDone c => execMatrixOperationComplete c s
  | .token c => execTokenGrant c s
  | .rail c => execRailSwitch c s
  | .invocation c q => execHandlerInvocationStart c q s
  | .note b w => execNotificationDeliver b w s
  | .dispatch p => execDispatch p s
  | .evicted b => execEvictionSaveComplete b s
  | .release b w => execWarpSlotRelease b w s
  | .ordered l => execOrderedAtomicApply l s
  | .launchEnd l => execLaunchEnd l s
  | .switched c => execContextSwitchComplete c s
  | .transfer i => execChurnMoveTransfer i s
  | .moved i => execChurnMoveComplete i s
  | .forward c => execSliceForward c s
  | .ringTask g => execRingTaskLaunch g s
  | .bin c b => execReorderBinDepart c b s
  | .quiet d => execQuietReached d s
  | .scrubbed d => execScrubComplete d s
  | .report d => execAttestationReportDone d s
  | .host => .next (s.nextHost.getD s)
  | .seqWord b => .next { s with seqNow := some b }
  | .stepWord => .next s.beginStep
  | .quad c q => .next (s.beginIssue c q)

/-- It would change something now. -/
def Due.acts (d : Due) (s : State) : Bool :=
  match d.run s with
  | .next t => decide (t ≠ s)
  | _ => false

/-! ### What is due at a GT -/

/-- Lanes asleep, with their warp and what they wait for. -/
def State.asleep (s : State) : List (Nat × Nat × Lane × Sleep) :=
  s.blocks.flatMap fun b => (b.warps.mapIdx fun i w => (w.sleepers.map fun e => (b.bid, i, e.1, e.2))).flatten

/-- What a sleeping lane owes to time. -/
def Sleep.timed (z : Sleep) (gt bid w : Nat) (l : Lane) : List Due :=
  match z.kind with
  | .time t _ => if t.toNat ≤ gt then [.rdgt bid w l] else []
  | .deq _ _ (some t) => if t.toNat ≤ gt then [.deqt bid w l] else []
  | .csleep _ _ t _ => if t.toNat ≠ 0 ∧ t.toNat ≤ gt then [.csleep bid w l] else []
  | _ => []

/-- When a known launch became ready: the later of its START and of its coming to the head of its queue (R218). -/
def Launch.dueAt (l : Launch) : Nat := max l.start.toNat l.readyGt

/-- Of two launches whose time has come, the one that became ready first; in the same cycle, by queue and die (R218). -/
def readyFirst (a b : Launch) : Bool :=
  decide (a.dueAt < b.dueAt ∨ (a.dueAt = b.dueAt ∧ (a.queue < b.queue ∨ (a.queue = b.queue ∧ a.die ≤ b.die))))

/-- Launches whose time has come. -/
def State.readyLaunches (s : State) : List Due :=
  (sortBy readyFirst (s.launches.filter s.readyNow)).map fun l => .launchReady l.lid

/-- What GT makes due, in the order in which it is done. -/
def State.timed (s : State) : List Due :=
  ((List.range 4).filter fun d => s.refillsDue d != 0).map Due.refill ++
  ((s.copies.filter fun c => decide (c.expiry ≤ s.gt ∧ c.expiry < noExpiry)).map fun c => .leaseOver c.place.num c.line) ++
  ((s.xleases.filter fun x => decide (x.expiry ≤ s.gt)).map fun x => .exclusiveOver x.line) ++
  s.readyLaunches ++
  ((s.blocks.filter fun b => b.stopFor.isSome && decide (b.deadline ≤ s.gt)).map fun b => .deadline b.bid) ++
  (s.asleep.flatMap fun (b, w, l, z) => z.timed s.gt b w l) ++
  (s.asleep.map fun (b, w, l, _) => .hang b w l) ++
  s.dueBins.map (fun b => .bin b.cluster b.id) ++
  ((List.range 4).filter s.sliceDue).map Due.slice ++
  ((List.range 32).filter s.churnDue).map Due.churn ++
  ((s.traces.filter s.traceOver).map fun t => .trace t.core) ++
  ((s.blocks.filter fun b => b.life == .placed).map fun b => .runs b.bid)

/-! ### What goes on in no fixed order (log 3) -/

/-- Accesses that end on this module, or that reach no one. -/
def State.accessDues (s : State) : List Due :=
  s.accs.filterMap fun a =>
    match s.block? a.bid with
    | none => none
    | some b =>
      if !s.ready b.core a || (s.outward b a && s.reachable a.loc) then none
      else some (if a.isLoad then .load a.id else .perform a.id)

/-- What a command may do next; a unit of those that remain is any of them (R289). -/
def State.copyDues (s : State) (c : Copy) : List Due :=
  match c.stage with
  | .queued => [.copyBegin c.id]
  | .recorded => [.copyDone c.id]
  | .begun =>
    if c.finished then [.copyDone c.id]
    else
      ((List.range (unitCount c.kind c.raw)).filter fun k => !c.done.contains k).map (Due.copyUnit c.id) ++
        (if (s.block? c.bid).elim false fun b => (s.copyFaultOf b c).isSome then [.copyFault c.id] else [])

/-- Quads with an eligible warp. -/
def State.quadDues (s : State) : List Due :=
  ((s.blocks.filter s.blockIssues).flatMap fun b =>
    (b.warps.filter fun w => w.eligible != 0).map fun w => Due.quad b.core (w.slot / 16)).eraseDups

/-- The stepped thread is not held, and its cluster does not move (R328). -/
def State.stepDues (s : State) : List Due :=
  match s.stepReq with
  | some r =>
    if (s.block? r.tbid).elim false (fun b => s.moveOf b.core) then []
    else if (s.warp? r.tbid r.tw).elim true fun w => !(w.thread (laneOfNat r.lane)).held then [.stepWord] else []
  | none => []

/-- Everything that might go on now. -/
def State.mayGo (s : State) : List Due :=
  s.accessDues ++
  ((s.ops.filter fun o => !o.isLoad).map fun o => .ack o.id) ++
  (s.asleep.flatMap fun (b, w, l, _) => [.waitf b w l, .element b w l, .csleep b w l]) ++
  s.cmds.flatMap s.copyDues ++
  (s.engines.flatMap fun e => [.grant e.cluster, .runDone e.cluster, .operationDone e.cluster] ++ e.entries.map fun m => .readOn e.cluster m.id) ++
  (s.ereqs.map fun r => .token r.cluster) ++
  (s.hops.map fun h => .rail h.1) ++
  (s.records.map fun r => .invocation r.1 r.2.1) ++
  (s.blocks.flatMap fun b => (b.warps.mapIdx fun i w => (i, w)).flatMap fun (i, w) =>
    (if w.noteReady then [Due.note b.bid i] else []) ++ (if w.mayRelease then [.release b.bid i] else [])) ++
  (((List.range 4).filter fun p =>
    (s.launches.any fun l => l.pn == p && l.state == .ready) ||
      s.blocks.any fun b => b.pn == p && (match b.life with | .switchedOut _ => true | _ => false)).map Due.dispatch) ++
  ((s.blocks.filter fun b => b.stopFor == some .eviction).map fun b => .evicted b.bid) ++
  ((s.launches.filter fun l => l.state == .ready).flatMap fun l => [.ordered l.lid, .launchEnd l.lid]) ++
  (s.switches.map fun w => .switched w.core) ++
  (s.moves.map fun m => if m.sent then .moved m.island else .transfer m.island) ++
  (s.slices.map fun e => .forward e.slice) ++
  (s.cards.map fun k => .ringTask k.gen) ++
  ((s.copies.filter fun c => decide (c.expiry ≤ s.gt + 8)).map fun c => .leaseOver c.place.num c.line) ++
  (s.copies.map fun c => .replace c.place.num c.line) ++
  (s.xleases.map fun x => .exclusiveOver x.line) ++
  ((List.range 4).flatMap fun d => [.quiet d, .scrubbed d, .report d]) ++
  [.host] ++
  ((s.blocks.filter fun b => b.seq.st == 1 && b.seqRuns && !b.seq.held).map fun b => .seqWord b.bid) ++
  s.stepDues ++
  s.quadDues

/-- What the machine does of itself: what is due, else one of the things that may go on or a soft error, else time passes
and what was held is tried again. -/
def State.selfStep (s : State) : Result :=
  match s.timed.find? fun d => d.acts s with
  | some d => d.run s
  | none =>
    let ds := s.mayGo.filter fun d => d.acts s
    let (k, s) := s.drawPick (ds.length + 1)
    match ds[k]? with
    | some d => d.run s
    | none => .next (if ds.isEmpty then (s.passTime 1).unhold else s.upset)

end Sys2Proof.Machine
end

