-- ==== Sys2Proof/Machine/Dispatch.lean ====
section
/-! DEFINITION. What each instruction does: one arm per constructor, each a call of its meaning. -/

namespace Sys2Proof.Machine

def exec (i : Instr) (s : State) : Host.Outcome State Fault Refusal :=
  match i with
  | .iadd g d a b => Sys2Proof.Machine.execIadd g d a b s
  | .isub g d a b => Sys2Proof.Machine.execIsub g d a b s
  | .imin g d a b => Sys2Proof.Machine.execImin g d a b s
  | .imax g d a b => Sys2Proof.Machine.execImax g d a b s
  | .iminu g d a b => Sys2Proof.Machine.execIminu g d a b s
  | .imaxu g d a b => Sys2Proof.Machine.execImaxu g d a b s
  | .iabs g d a => Sys2Proof.Machine.execIabs g d a s
  | .ineg g d a => Sys2Proof.Machine.execIneg g d a s
  | .imul g d a b => Sys2Proof.Machine.execImul g d a b s
  | .imulh g d a b => Sys2Proof.Machine.execImulh g d a b s
  | .imulhu g d a b => Sys2Proof.Machine.execImulhu g d a b s
  | .imad g d a b => Sys2Proof.Machine.execImad g d a b s
  | .imadw g d a b => Sys2Proof.Machine.execImadw g d a b s
  | .imadwu g d a b => Sys2Proof.Machine.execImadwu g d a b s
  | .idiv g d a b => Sys2Proof.Machine.execIdiv g d a b s
  | .idivu g d a b => Sys2Proof.Machine.execIdivu g d a b s
  | .irem g d a b => Sys2Proof.Machine.execIrem g d a b s
  | .iremu g d a b => Sys2Proof.Machine.execIremu g d a b s
  | .iadd64 g d a b => Sys2Proof.Machine.execIadd64 g d a b s
  | .isub64 g d a b => Sys2Proof.Machine.execIsub64 g d a b s
  | .shl g d a b => Sys2Proof.Machine.execShl g d a b s
  | .shr g d a b => Sys2Proof.Machine.execShr g d a b s
  | .sar g d a b => Sys2Proof.Machine.execSar g d a b s
  | .rotl g d a b => Sys2Proof.Machine.execRotl g d a b s
  | .shli g d a imm => Sys2Proof.Machine.execShli g d a imm s
  | .shri g d a imm => Sys2Proof.Machine.execShri g d a imm s
  | .sari g d a imm => Sys2Proof.Machine.execSari g d a imm s
  | .andi g d a imm => Sys2Proof.Machine.execAndi g d a imm s
  | .and g d a b => Sys2Proof.Machine.execAnd g d a b s
  | .or g d a b => Sys2Proof.Machine.execOr g d a b s
  | .xor g d a b => Sys2Proof.Machine.execXor g d a b s
  | .andn g d a b => Sys2Proof.Machine.execAndn g d a b s
  | .orn g d a b => Sys2Proof.Machine.execOrn g d a b s
  | .xnor g d a b => Sys2Proof.Machine.execXnor g d a b s
  | .not g d a => Sys2Proof.Machine.execNot g d a s
  | .popc g d a => Sys2Proof.Machine.execPopc g d a s
  | .clz g d a => Sys2Proof.Machine.execClz g d a s
  | .ctz g d a => Sys2Proof.Machine.execCtz g d a s
  | .brev g d a => Sys2Proof.Machine.execBrev g d a s
  | .bfe g d a b => Sys2Proof.Machine.execBfe g d a b s
  | .bfeu g d a b => Sys2Proof.Machine.execBfeu g d a b s
  | .bfi g d a b => Sys2Proof.Machine.execBfi g d a b s
  | .iaddi g d a imm => Sys2Proof.Machine.execIaddi g d a imm s
  | .isetp g p c a b acc => Sys2Proof.Machine.execIsetp g p c a b acc s
  | .fsetp g p c a b acc => Sys2Proof.Machine.execFsetp g p c a b acc s
  | .isetpi g p c a imm acc => Sys2Proof.Machine.execIsetpi g p c a imm acc s
  | .pand g d a b => Sys2Proof.Machine.execPand g d a b s
  | .por g d a b => Sys2Proof.Machine.execPor g d a b s
  | .pxor g d a b => Sys2Proof.Machine.execPxor g d a b s
  | .pnot g d a => Sys2Proof.Machine.execPnot g d a s
  | .sel g d a b => Sys2Proof.Machine.execSel g d a b s
  | .p2v g d => Sys2Proof.Machine.execP2v g d s
  | .v2p g m a => Sys2Proof.Machine.execV2p g m a s
  | .mov g d a => Sys2Proof.Machine.execMov g d a s
  | .movw g d a => Sys2Proof.Machine.execMovw g d a s
  | .wmov g d a => Sys2Proof.Machine.execWmov g d a s
  | .wmovw g d a => Sys2Proof.Machine.execWmovw g d a s
  | .wadd g d a b => Sys2Proof.Machine.execWadd g d a b s
  | .movi g d imm => Sys2Proof.Machine.execMovi g d imm s
  | .lea g d a b z => Sys2Proof.Machine.execLea g d a b z s
  | .rds d a => Sys2Proof.Machine.execRds d a s
  | .wrs d a => Sys2Proof.Machine.execWrs d a s
  | .rdgt d a => Sys2Proof.Machine.execRdgt d a s
  | .bra g o => Sys2Proof.Machine.execBra g o s
  | .call g o => Sys2Proof.Machine.execCall g o s
  | .brx g a imm => Sys2Proof.Machine.execBrx g a imm s
  | .callx g a imm => Sys2Proof.Machine.execCallx g a imm s
  | .ret g a => Sys2Proof.Machine.execRet g a s
  | .exit g => Sys2Proof.Machine.execExit g s
  | .spt g imm => Sys2Proof.Machine.execSpt g imm s
  | .nop g => Sys2Proof.Machine.execNop g s
  | .yield g => Sys2Proof.Machine.execYield g s
  | .bkpt g imm => Sys2Proof.Machine.execBkpt g imm s
  | .trap g imm => Sys2Proof.Machine.execTrap g imm s
  | .eret g => Sys2Proof.Machine.execEret g s
  | .join g m => Sys2Proof.Machine.execJoin g m s
  | .leave g m => Sys2Proof.Machine.execLeave g m s
  | .waitm g m => Sys2Proof.Machine.execWaitm g m s
  | .mskrd g m v => Sys2Proof.Machine.execMskrd g m v s
  | .mskwr g m v => Sys2Proof.Machine.execMskwr g m v s
  | .mskact g m v => Sys2Proof.Machine.execMskact g m v s
  | .fadd g d a b => Sys2Proof.Machine.execFadd g d a b s
  | .fsub g d a b => Sys2Proof.Machine.execFsub g d a b s
  | .fmul g d a b => Sys2Proof.Machine.execFmul g d a b s
  | .ffma g d a b => Sys2Proof.Machine.execFfma g d a b s
  | .fmin g d a b => Sys2Proof.Machine.execFmin g d a b s
  | .fmax g d a b => Sys2Proof.Machine.execFmax g d a b s
  | .fcpys g d a b => Sys2Proof.Machine.execFcpys g d a b s
  | .fabs g d a => Sys2Proof.Machine.execFabs g d a s
  | .fneg g d a => Sys2Proof.Machine.execFneg g d a s
  | .frndRne g d a => Sys2Proof.Machine.execFrndRne g d a s
  | .frndRtz g d a => Sys2Proof.Machine.execFrndRtz g d a s
  | .frndRdn g d a => Sys2Proof.Machine.execFrndRdn g d a s
  | .frndRup g d a => Sys2Proof.Machine.execFrndRup g d a s
  | .frcp g d a => Sys2Proof.Machine.execFrcp g d a s
  | .frsq g d a => Sys2Proof.Machine.execFrsq g d a s
  | .fsqrt g d a => Sys2Proof.Machine.execFsqrt g d a s
  | .fex2 g d a => Sys2Proof.Machine.execFex2 g d a s
  | .flg2 g d a => Sys2Proof.Machine.execFlg2 g d a s
  | .fsin g d a => Sys2Proof.Machine.execFsin g d a s
  | .fcos g d a => Sys2Proof.Machine.execFcos g d a s
  | .ftanh g d a => Sys2Proof.Machine.execFtanh g d a s
  | .fsigm g d a => Sys2Proof.Machine.execFsigm g d a s
  | .dadd g d a b => Sys2Proof.Machine.execDadd g d a b s
  | .dsub g d a b => Sys2Proof.Machine.execDsub g d a b s
  | .dmul g d a b => Sys2Proof.Machine.execDmul g d a b s
  | .dfma g d a b => Sys2Proof.Machine.execDfma g d a b s
  | .badd2 g d a b => Sys2Proof.Machine.execBadd2 g d a b s
  | .bmul2 g d a b => Sys2Proof.Machine.execBmul2 g d a b s
  | .bfma2 g d a b => Sys2Proof.Machine.execBfma2 g d a b s
  | .bmax2 g d a b => Sys2Proof.Machine.execBmax2 g d a b s
  | .hadd2 g d a b => Sys2Proof.Machine.execHadd2 g d a b s
  | .hmul2 g d a b => Sys2Proof.Machine.execHmul2 g d a b s
  | .hfma2 g d a b => Sys2Proof.Machine.execHfma2 g d a b s
  | .hmax2 g d a b => Sys2Proof.Machine.execHmax2 g d a b s
  | .cvtf g d a x r t z => Sys2Proof.Machine.execCvtf g d a x r t z s
  | .f2i g d a x r t z => Sys2Proof.Machine.execF2i g d a x r t z s
  | .i2f g d a x r t z => Sys2Proof.Machine.execI2f g d a x r t z s
  | .bxq g d a m => Sys2Proof.Machine.execBxq g d a m s
  | .bxd g d a m => Sys2Proof.Machine.execBxd g d a m s
  | .bxpk g d a m => Sys2Proof.Machine.execBxpk g d a m s
  | .shfli g d a b => Sys2Proof.Machine.execShfli g d a b s
  | .shflu g d a b => Sys2Proof.Machine.execShflu g d a b s
  | .shfld g d a b => Sys2Proof.Machine.execShfld g d a b s
  | .shflx g d a b => Sys2Proof.Machine.execShflx g d a b s
  | .voteAll g d n a => Sys2Proof.Machine.execVoteAll g d n a s
  | .voteAny g d n a => Sys2Proof.Machine.execVoteAny g d n a s
  | .voteUni g d n a => Sys2Proof.Machine.execVoteUni g d n a s
  | .voteBallot g d n a => Sys2Proof.Machine.execVoteBallot g d n a s
  | .matchAny g d a wide => Sys2Proof.Machine.execMatchAny g d a wide s
  | .matchAll g d a wide => Sys2Proof.Machine.execMatchAll g d a wide s
  | .redux g d a o => Sys2Proof.Machine.execRedux g d a o s
  | .scan g d a e o => Sys2Proof.Machine.execScan g d a e o s
  | .strb j a => Sys2Proof.Machine.execStrb j a s
  | .stru j => Sys2Proof.Machine.execStru j s
  | .strp d j => Sys2Proof.Machine.execStrp d j s
  | .strs j a => Sys2Proof.Machine.execStrs j a s
  | .ld g d b z p o => Sys2Proof.Machine.execLd g d b z p o s
  | .st g d b z p o => Sys2Proof.Machine.execSt g d b z p o s
  | .ldl g d b z p o => Sys2Proof.Machine.execLdl g d b z p o s
  | .stl g d b z p o => Sys2Proof.Machine.execStl g d b z p o s
  | .lda g d b z p o => Sys2Proof.Machine.execLda g d b z p o s
  | .strl g d b z p o => Sys2Proof.Machine.execStrl g d b z p o s
  | .pref g b e p o => Sys2Proof.Machine.execPref g b e p o s
  | .disc g b e p o => Sys2Proof.Machine.execDisc g b e p o s
  | .aaddNear g d a b => Sys2Proof.Machine.execAaddNear g d a b s
  | .aminNear g d a b => Sys2Proof.Machine.execAminNear g d a b s
  | .amaxNear g d a b => Sys2Proof.Machine.execAmaxNear g d a b s
  | .aexchNear g d a b => Sys2Proof.Machine.execAexchNear g d a b s
  | .aadd g d a b => Sys2Proof.Machine.execAadd g d a b s
  | .amin g d a b => Sys2Proof.Machine.execAmin g d a b s
  | .amax g d a b => Sys2Proof.Machine.execAmax g d a b s
  | .aexch g d a b => Sys2Proof.Machine.execAexch g d a b s
  | .aand g d a b => Sys2Proof.Machine.execAand g d a b s
  | .aor g d a b => Sys2Proof.Machine.execAor g d a b s
  | .axor g d a b => Sys2Proof.Machine.execAxor g d a b s
  | .ainc g d a b => Sys2Proof.Machine.execAinc g d a b s
  | .cas g d a b => Sys2Proof.Machine.execCas g d a b s
  | .cash g d a b => Sys2Proof.Machine.execCash g d a b s
  | .cash64 g d a b => Sys2Proof.Machine.execCash64 g d a b s
  | .cas128 g d a b => Sys2Proof.Machine.execCas128 g d a b s
  | .faadd g d a b => Sys2Proof.Machine.execFaadd g d a b s
  | .famin g d a b => Sys2Proof.Machine.execFamin g d a b s
  | .famax g d a b => Sys2Proof.Machine.execFamax g d a b s
  | .bfaadd2 g d a b => Sys2Proof.Machine.execBfaadd2 g d a b s
  | .casc g a b c => Sys2Proof.Machine.execCasc g a b c s
  | .incc g a b c => Sys2Proof.Machine.execIncc g a b c s
  | .minc g a b c => Sys2Proof.Machine.execMinc g a b c s
  | .rlock g c => Sys2Proof.Machine.execRlock g c s
  | .wlock g c => Sys2Proof.Machine.execWlock g c s
  | .runlk g c => Sys2Proof.Machine.execRunlk g c s
  | .wunlk g c => Sys2Proof.Machine.execWunlk g c s
  | .rtry g d c => Sys2Proof.Machine.execRtry g d c s
  | .wtry g d c => Sys2Proof.Machine.execWtry g d c s
  | .fence z k => Sys2Proof.Machine.execFence z k s
  | .waitc l z c m => Sys2Proof.Machine.execWaitc l z c m s
  | .waitf g a b c np k => Sys2Proof.Machine.execWaitf g a b c np k s
  | .poll g a b c np k => Sys2Proof.Machine.execPoll g a b c np k s
  | .bara g d a c => Sys2Proof.Machine.execBara g d a c s
  | .barw g d a c => Sys2Proof.Machine.execBarw g d a c s
  | .baraw g d a c => Sys2Proof.Machine.execBaraw g d a c s
  | .barst g d a c => Sys2Proof.Machine.execBarst g d a c s
  | .barx g d a c => Sys2Proof.Machine.execBarx g d a c s
  | .barxw g d a c => Sys2Proof.Machine.execBarxw g d a c s
  | .enq g d a c => Sys2Proof.Machine.execEnq g d a c s
  | .deq g d c => Sys2Proof.Machine.execDeq g d c s
  | .enqt g d a c => Sys2Proof.Machine.execEnqt g d a c s
  | .deqt g d a c => Sys2Proof.Machine.execDeqt g d a c s
  | .qlen g d c => Sys2Proof.Machine.execQlen g d c s
  | .cpy g d a c => Sys2Proof.Machine.execCpy g d a c s
  | .cpyt g d a c => Sys2Proof.Machine.execCpyt g d a c s
  | .cpyim g d a c => Sys2Proof.Machine.execCpyim g d a c s
  | .cpyg g d a c => Sys2Proof.Machine.execCpyg g d a c s
  | .ctok g d a c => Sys2Proof.Machine.execCtok g d a c s
  | .csleep g d a c => Sys2Proof.Machine.execCsleep g d a c s
  | .card g d a c => Sys2Proof.Machine.execCard g d a c s
  | .deal g d c => Sys2Proof.Machine.execDeal g d c s
  | .reord g a c => Sys2Proof.Machine.execReord g a c s
  | .sqrun g d a => Sys2Proof.Machine.execSqrun g d a s
  | .sqst g d => Sys2Proof.Machine.execSqst g d s
  | .sqstop g d => Sys2Proof.Machine.execSqstop g d s
  | .csrr d imm => Sys2Proof.Machine.execCsrr d imm s
  | .csrw d imm => Sys2Proof.Machine.execCsrw d imm s
  | .rdwr d a b => Sys2Proof.Machine.execRdwr d a b s
  | .wrwr d a b => Sys2Proof.Machine.execWrwr d a b s
  | .haltw a => Sys2Proof.Machine.execHaltw a s
  | .resw a b => Sys2Proof.Machine.execResw a b s
  | .step d a b => Sys2Proof.Machine.execStep d a b s
  | .tlbinv a b => Sys2Proof.Machine.execTlbinv a b s
  | .qsc d a => Sys2Proof.Machine.execQsc d a s
  | .capw a b => Sys2Proof.Machine.execCapw a b s
  | .grpw d a b => Sys2Proof.Machine.execGrpw d a b s
  | .himm p => Sys2Proof.Machine.execHimm p s
  | .hgrd n p => Sys2Proof.Machine.execHgrd n p s
  | .hfmd f z r => Sys2Proof.Machine.execHfmd f z r s
  | .hpol n z a => Sys2Proof.Machine.execHpol n z a s
  | .hsch p => Sys2Proof.Machine.execHsch p s
  | .hprd n p => Sys2Proof.Machine.execHprd n p s
  | .mxlds q b => Sys2Proof.Machine.execMxlds q b s
  | .mxstr q b => Sys2Proof.Machine.execMxstr q b s
  | .mxspr q b => Sys2Proof.Machine.execMxspr q b s
  | .mxdrn q b => Sys2Proof.Machine.execMxdrn q b s
  | .mxswp => Sys2Proof.Machine.execMxswp s
  | .mxz => Sys2Proof.Machine.execMxz s
  | .qend => Sys2Proof.Machine.execQend s
  | .mxck b d => Sys2Proof.Machine.execMxck b d s
  | .qmovi d imm => Sys2Proof.Machine.execQmovi d imm s
  | .qadd d a imm => Sys2Proof.Machine.execQadd d a imm s
  | .qloop c o => Sys2Proof.Machine.execQloop c o s
  | .qbar b => Sys2Proof.Machine.execQbar b s
  | .qwait b => Sys2Proof.Machine.execQwait b s
  | .illegalWord w => Sys2Proof.Machine.execIllegalWord w s
  | .seqWordUnallocated w => Sys2Proof.Machine.execSeqWordUnallocated w s
  | .moduleReset => Sys2Proof.Machine.execModuleReset s
  | .firmwareVerify die image => Sys2Proof.Machine.execFirmwareVerify die image s
  | .lqBell die queue => Sys2Proof.Machine.execLqBell die queue s
  | .launchReady launch => Sys2Proof.Machine.execLaunchReady launch s
  | .dispatch pn => Sys2Proof.Machine.execDispatch pn s
  | .stopDeadline bid => Sys2Proof.Machine.execStopDeadline bid s
  | .evictionSaveComplete bid => Sys2Proof.Machine.execEvictionSaveComplete bid s
  | .warpSlotRelease bid warp => Sys2Proof.Machine.execWarpSlotRelease bid warp s
  | .orderedAtomicApply launch => Sys2Proof.Machine.execOrderedAtomicApply launch s
  | .launchEnd launch => Sys2Proof.Machine.execLaunchEnd launch s
  | .churnTick island => Sys2Proof.Machine.execChurnTick island s
  | .churnMoveTransfer island => Sys2Proof.Machine.execChurnMoveTransfer island s
  | .churnMoveComplete island => Sys2Proof.Machine.execChurnMoveComplete island s
  | .sliceTick pn => Sys2Proof.Machine.execSliceTick pn s
  | .contextSwitchComplete core => Sys2Proof.Machine.execContextSwitchComplete core s
  | .leaseExpire place line => Sys2Proof.Machine.execLeaseExpire place line s
  | .exclusiveLeaseEnd line => Sys2Proof.Machine.execExclusiveLeaseEnd line s
  | .storePerformedAtHome op => Sys2Proof.Machine.execStorePerformedAtHome op s
  | .storeAck op => Sys2Proof.Machine.execStoreAck op s
  | .loadReturn op => Sys2Proof.Machine.execLoadReturn op s
  | .waitfWake bid warp lane => Sys2Proof.Machine.execWaitfWake bid warp lane s
  | .queueElementReady bid warp lane => Sys2Proof.Machine.execQueueElementReady bid warp lane s
  | .deqtDeadline bid warp lane => Sys2Proof.Machine.execDeqtDeadline bid warp lane s
  | .rdgtWake bid warp lane => Sys2Proof.Machine.execRdgtWake bid warp lane s
  | .csleepWake bid warp lane => Sys2Proof.Machine.execCsleepWake bid warp lane s
  | .hangWatchdogExpire bid warp lane => Sys2Proof.Machine.execHangWatchdogExpire bid warp lane s
  | .sliceForward slice => Sys2Proof.Machine.execSliceForward slice s
  | .ringTaskLaunch card => Sys2Proof.Machine.execRingTaskLaunch card s
  | .reorderBinDepart cluster bin => Sys2Proof.Machine.execReorderBinDepart cluster bin s
  | .copyBegin copy => Sys2Proof.Machine.execCopyBegin copy s
  | .copyComplete copy => Sys2Proof.Machine.execCopyComplete copy s
  | .copyFault copy => Sys2Proof.Machine.execCopyFault copy s
  | .matrixGrant cluster => Sys2Proof.Machine.execMatrixGrant cluster s
  | .matrixRunComplete cluster residueOk => Sys2Proof.Machine.execMatrixRunComplete cluster residueOk s
  | .tokenRefill die => Sys2Proof.Machine.execTokenRefill die s
  | .tokenGrant cluster => Sys2Proof.Machine.execTokenGrant cluster s
  | .droopDetect cluster => Sys2Proof.Machine.execDroopDetect cluster s
  | .droopRecover cluster => Sys2Proof.Machine.execDroopRecover cluster s
  | .railSwitch cluster => Sys2Proof.Machine.execRailSwitch cluster s
  | .tempSample cluster temp => Sys2Proof.Machine.execTempSample cluster temp s
  | .handlerInvocationStart core quad => Sys2Proof.Machine.execHandlerInvocationStart core quad s
  | .notificationDeliver bid warp => Sys2Proof.Machine.execNotificationDeliver bid warp s
  | .tracePeriod core => Sys2Proof.Machine.execTracePeriod core s
  | .ctxCreate pn ctx => Sys2Proof.Machine.execCtxCreate pn ctx s
  | .ctxTeardown pn ctx => Sys2Proof.Machine.execCtxTeardown pn ctx s
  | .ctxSuspend pn ctx on => Sys2Proof.Machine.execCtxSuspend pn ctx on s
  | .noteSend core handle => Sys2Proof.Machine.execNoteSend core handle s
  | .partMapWrite v => Sys2Proof.Machine.execPartMapWrite v s
  | .memIvlWrite region v => Sys2Proof.Machine.execMemIvlWrite region v s
  | .weltOpenWrite v => Sys2Proof.Machine.execWeltOpenWrite v s
  | .fwSvnWrite die v => Sys2Proof.Machine.execFwSvnWrite die v s
  | .peerWtabLatch die v => Sys2Proof.Machine.execPeerWtabLatch die v s
  | .trigStatWrite core v => Sys2Proof.Machine.execTrigStatWrite core v s
  | .attCmd die v => Sys2Proof.Machine.execAttCmd die v s
  | .attestationReportDone die => Sys2Proof.Machine.execAttestationReportDone die s
  | .quietReached die => Sys2Proof.Machine.execQuietReached die s
  | .scrubComplete die => Sys2Proof.Machine.execScrubComplete die s
  | .hportCtlWrite die v => Sys2Proof.Machine.execHportCtlWrite die v s
  | .hostLinkTrain port width cxl => Sys2Proof.Machine.execHostLinkTrain port width cxl s
  | .hostLinkDown link => Sys2Proof.Machine.execHostLinkDown link s
  | .hostMemrd addr size => Sys2Proof.Machine.execHostMemrd addr size s
  | .hostMemwr addr bytes => Sys2Proof.Machine.execHostMemwr addr bytes s
  | .bisnpComplete line dirty => Sys2Proof.Machine.execBisnpComplete line dirty s
  | .hostWindowAccess addr write v => Sys2Proof.Machine.execHostWindowAccess addr write v s
  | .hostSnoop line bytes => Sys2Proof.Machine.execHostSnoop line bytes s
  | .hostCompletion op ok => Sys2Proof.Machine.execHostCompletion op ok s
  | .peerRequestInbound src req => Sys2Proof.Machine.execPeerRequestInbound src req s
  | .peerResponse op ok => Sys2Proof.Machine.execPeerResponse op ok s
  | .peerFlitReceive link seq crcOk => Sys2Proof.Machine.execPeerFlitReceive link seq crcOk s
  | .peerLinkTrain link width nbr => Sys2Proof.Machine.execPeerLinkTrain link width nbr s
  | .ptpMessage port msg => Sys2Proof.Machine.execPtpMessage port msg s
  | .ptpSourceLost => Sys2Proof.Machine.execPtpSourceLost s
  | .copyGranuleFilled copy granule => Sys2Proof.Machine.execCopyGranuleFilled copy granule s
  | .matrixOperationComplete cluster => Sys2Proof.Machine.execMatrixOperationComplete cluster s

end Sys2Proof.Machine
end

