-- ==== Sys2Proof/Machine/Run.lean ====
section
/-! DEFINITION. What surrounds the run of a word: the wait counts of its quad, its trace counts, the end of a STEP, line
buffers at a stop, time (spec/10_scheduling.md, R224 to R227; spec/08_isa_engines_system.md, R200;
spec/15_async_copies.md, R294; spec/20_debug_trace.md, R379). -/

namespace Sys2Proof.Machine

/-! ### Wait counts (R224, R226, R227) -/

/-- The word of some threads would be held at issue: it is tried in a state that is then dropped.  Of a pair, both words
are. -/
def State.wouldHold (s : State) (i : Issue) : Bool :=
  match s.nextWord i with
  | .stop t => t.heldAt i
  | .run x t =>
    match exec x t with
    | .next t =>
      (match t.issue with
       | none => t.heldAt i
       | some j =>
         match t.nextWord j with
         | .stop u => u.heldAt i
         | .run y u => (match exec y u with | .next v => v.heldAt i | _ => false))
    | _ => false

/-- A lane of a warp could issue: the interlock and the counter limits let its next word go (R224). -/
def State.groupFree (s : State) (bid wi : Nat) (w : Warp) (l : Lane) : Bool :=
  inMask w.eligible l && !s.wouldHold ⟨bid, wi, maskOf fun k => k == l, (w.thread l).pc, 0, none⟩

/-- The cycles of the quad that the word took. -/
def Issue.cycles (i : Issue) : Nat := if i.hint.isSome then 2 else 1

/-- The warp that has issued: its count, and the counts of the groups that could have issued in its place, each the largest
of its threads' (R227).  In a churn move its own count does not change (R226). -/
def State.countIssued (before : State) (i : Issue) (moving : Bool) (w w' : Warp) : Warp :=
  let free := maskOf fun l => !inMask i.lanes l && before.groupFree i.bid i.w w l
  let most (pc : DWord) : Nat :=
    (lanesIn free).foldl (fun m k => if (w.thread k).pc = pc then max m (w.thread k).gwait else m) 0
  { w'.modThreads fun l t =>
      if inMask i.lanes l then { t with gwait := 0, yielded := t.yielded && t.running && w'.parked.isNone }
      else if inMask free l then { t with gwait := most (w.thread l).pc + 1 }
      else t with wait := if moving then w'.wait else 0 }

/-- The counts of a quad after an issue that was not held; `before` has the word in issue.  While the cluster is in a churn
move the wait counts stand still (R226, R328). -/
def State.countWaits (before : State) (i : Issue) (after : State) : State :=
  match before.block? i.bid, before.warp? i.bid i.w with
  | some b, some w =>
    let moving := before.moveOf b.core
    let others := if moving then [] else (before.quadChoices b.core (w.slot / 16)).filter fun c =>
      !(c.bid == i.bid && c.w == i.w) && allLanes.any fun l => before.groupFree c.bid c.w c.warp l
    (others.foldl (fun s c => s.modWarp c.bid c.w fun w => { w with wait := w.wait + i.cycles }) after).modWarp i.bid i.w
      (before.countIssued i moving w)
  | _, _ => after

/-! ### After a word -/

/-- What follows a word that left its issue: counts of the quad and of the trace, words that were held, the end of a STEP.
The word of a STEP is no issue of its quad. -/
def State.closeWord (before : State) (i : Issue) (after : State) : State :=
  (if after.heldAt i then
     (match before.block? i.bid, before.warp? i.bid i.w with
      | some b, some w => after.giveBack b w i.word
      | _, _ => after)
   else (before.traceIssue i (if (before.stepOf i).isSome then after else before.countWaits i after)).unhold).closeStep i

/-- What follows a word of a warp, in whatever state it ran; `before` holds it in issue. -/
def afterWord (before : State) (r : Result) : Result :=
  match r with
  | .next s =>
    .next (match before.issue, s.issue with
      | some i, none => (before.closeWord i s).passTime 0
      | _, _ => s.passTime 0)
  | r => r

/-- What follows a sequencer word. -/
def afterSeqWord (r : Result) : Result :=
  match r with
  | .next s => .next (s.passTime 0)
  | r => r

/-! ### Stops (R294) -/

/-- A stop was asked of the block, and every warp of it has stopped. -/
def Block.allStopped (b : Block) : Bool := b.stopFor.isSome && b.warps.all Warp.hasStopped

/-- The line buffers of a core are emptied when a block on it has stopped, whatever becomes of the stop. -/
def State.emptyStopped (before after : State) : State :=
  (after.blocks.filter fun b => b.allStopped && !(before.block? b.bid).elim false Block.allStopped).foldl
    (fun s b => s.dropLineBufs b.core) after

/-- The end of any step. -/
def Result.tidy (before : State) (r : Result) : Result :=
  match r with
  | .next s => .next (before.emptyStopped s)
  | r => r

end Sys2Proof.Machine
end

