-- ==== Sys2Proof/Machine/Step.lean ====
section
/-! DEFINITION. One step of the machine: the word in issue, else a sequencer's word, else what comes from outside, else
what the machine does of itself (log 3); and the state in which a given word is the next to run (log 1). -/

namespace Sys2Proof.Machine

/-- One step. -/
def step (s : State) : Host.Outcome State Fault Refusal := Result.tidy s <|
  match s.issue, s.seqNow, s.inputs with
  | some i, _, _ =>
    (match s.nextWord i with
     | .run x s => afterWord s (exec x s)
     | .stop t => afterWord s (.next t))
  | none, some bid, _ =>
    (match s.nextSeqWord bid with
     | .run x s => afterSeqWord (exec x s)
     | .stop s => afterSeqWord (.next s))
  | none, none, x :: rest => if fromOutside x then exec x { s with inputs := rest } else .next { s with inputs := rest }
  | none, none, [] => s.selfStep

/-- Where withFetchWord puts the word: an address of the first die's memory. -/
def fetchAddr : Nat := 65536

/-- A sequencer about to run its stream from that address. -/
def fetchSequencer : Sequencer :=
  { newSequencer with pc := BitVec.ofNat 64 fetchAddr, start := BitVec.ofNat 64 fetchAddr, st := 1, made := true }

/-- The block that runs the word: one warp of the first die's steward core, with every register and a whole window. -/
def State.fetchBlock (s : State) : Block :=
  { s.stewardBlock 0 with
    lm := 262144
    warps := [freshWarp (Vector.replicate 32 (newThread (BitVec.ofNat 64 fetchAddr) (zeroRegs 128))) [] 128 2]
    seq := fetchSequencer }

/-- The state with an instruction where the next step fetches it, for a sequencer where its word is no word of a warp
(log 1, log 13). -/
def State.withFetchWord (s : State) (nbits w : Nat) : State :=
  let t : State := { s with nextId := s.nextId + 1, blocks := s.blocks ++ [s.fetchBlock] }
  let t := t.store fetchAddr 8 (w % 2 ^ nbits)
  let word : Word := BitVec.ofNat 32 (w % 2 ^ nbits)
  match decode word, decodeSeq word with
  | .error _, some _ => { t with issue := none, seqNow := some s.nextId }
  | _, _ => { t with issue := some ⟨s.nextId, 0, ~~~0, BitVec.ofNat 64 fetchAddr, 0, none⟩ }

end Sys2Proof.Machine
end

