-- ==== Sys2Proof/Safety.lean ====
section
/-! DEFINITION. The terms in which the claims speak: a word that issues and what it leaves behind; the memories in canonical
form, the one-time signature indices (spec/03_formats_and_assembly.md, R70 to R73;
spec/22_power_health_identity.md, R415). -/

namespace Sys2Proof

open Sys2Proof.Machine

/-! ### The whole machine -/

/-- Memory and every window are in canonical form. -/
def memoriesOk (s : State) : Prop := memWf s.mem = true ∧ ∀ b ∈ s.blocks, memWf b.win = true

/-- The number of the next one-time signature: indices below it are spent (R415). -/
def nextSignature (s : State) : Nat := 2 ^ 28 * s.attStep + s.attLow

/-! ### A word that issues -/

/-- `x` is the word in issue of `s`: its block, its warp, and its active set under the guard. -/
structure Issued (s : State) (g : Option PReg) (x : Exec) : Prop where
  state : x.s = s
  issue : s.issue = some x.i
  block : s.block? x.i.bid = some x.b
  warp : x.b.warp? x.i.w = some x.w
  act : x.act = activeMask x.i x.w g

/-- A word in issue whose active set is not empty. -/
structure Issuing (s : State) (g : Option PReg) (x : Exec) : Prop extends Issued s g x where
  busy : x.act ≠ 0

/-- No breakpoint is on the word (R373), and no predicate, uniform or mask register that it reads holds a soft error
(R329). -/
structure Undisturbed (x : Exec) : Prop where
  quiet : x.bpHits = []
  sound : x.hardCauses = []

/-- Nothing keeps the word from its effect: no register of it awaits an access (R72), every active lane may use its
registers (R14, R150, R359), and it is undisturbed. -/
structure Unhindered (x : Exec) (uses : List RegUse) : Prop extends Undisturbed x where
  free : x.interlocked uses = false
  regs : ∀ l, inMask x.act l = true → x.regCause uses false l = none

/-- The same of a word that acts once, whose operands the highest active lane alone reads (R91, R176). -/
structure UnhinderedOnce (x : Exec) (uses : List RegUse) : Prop extends Undisturbed x where
  free : x.onceLocked uses = false
  regs : x.onceCauses uses false = []

/-- The state with the pushes of the active lanes stored, ascending lane by lane (R151). -/
def pushed (x : Exec) (out : Lane → LaneOut) : State :=
  (lanesIn x.act).foldl (fun s l => (out l).pushes.foldl (fun s p => s.winWrite p.1 p.2) s) x.s

/-- A lane after the word: an active one as the word leaves it, an issued one past the word, any other as it was. -/
def laneAfter (x : Exec) (out : Lane → LaneOut) (l : Lane) : Thread :=
  if inMask x.act l then (out l).t
  else if inMask x.i.lanes l then (x.w.thread l).pass x.i.len
  else x.w.thread l

/-- `t` is the machine after the word has had its effect on its lanes and, by `upd`, on the rest of its warp: nothing
else has changed but the windows its pushes go to. -/
structure WordDone (x : Exec) (uses : List RegUse) (out : Lane → LaneOut) (upd : Warp → Warp) (t : State) : Prop where
  /-- The issue is over. -/
  closed : t.issue = none
  /-- The warp: every lane, and all else as `upd` leaves it; registers written hold no poison (R329, R359). -/
  warp : ∃ w, t.warp? x.i.bid x.i.w = some w ∧ (∀ l, w.thread l = laneAfter x out l) ∧
    w = { upd x.w with
      threads := w.threads
      poison := ((x.w.cleanse x.act uses).cleanHard x.i x.act).poison
      stopped := w.stopped }
  /-- Every other warp. -/
  others : ∀ bid i, (bid, i) ≠ (x.i.bid, x.i.w) → t.warp? bid i = x.s.warp? bid i
  /-- Every block but for its warps and its window. -/
  blocks : ∀ bid b, x.s.block? bid = some b →
    ∃ b', t.block? bid = some b' ∧ b' = { b with warps := b'.warps, win := b'.win, bad := b'.bad }
  /-- The windows, and which bytes of them hold a soft error. -/
  windows : ∀ bid, (t.block? bid).map (fun b => (b.win, b.bad)) = ((pushed x out).block? bid).map fun b => (b.win, b.bad)
  /-- Every byte of memory. -/
  memory : ∀ a, memRead t.mem a = memRead x.s.mem a
  /-- Every other piece of state. -/
  rest : { t with issue := x.s.issue, blocks := x.s.blocks } = x.s

/-- A lane that neither pops nor pushes a stream. -/
def plainOut (t : Thread) : LaneOut := ⟨t, []⟩

/-- `t` is the machine after a word that changes nothing but its warp, by `upd` once the issued lanes are past it: a lane
asleep where a stop is asked has stopped (R210). -/
structure WarpDone (x : Exec) (upd : Warp → Warp) (t : State) : Prop where
  /-- The issue is over. -/
  closed : t.issue = none
  /-- The warp. -/
  warp : t.warp? x.i.bid x.i.w = some ((upd (x.w.pass x.i.lanes x.i.len)).cleanHard x.i x.act).settle
  /-- Every other warp. -/
  others : ∀ bid i, (bid, i) ≠ (x.i.bid, x.i.w) → t.warp? bid i = x.s.warp? bid i
  /-- Every block but for its warps: its window too. -/
  blocks : ∀ bid b, x.s.block? bid = some b → ∃ b', t.block? bid = some b' ∧ b' = { b with warps := b'.warps }
  /-- Every byte of memory. -/
  memory : ∀ a, memRead t.mem a = memRead x.s.mem a
  /-- Every other piece of state. -/
  rest : { t with issue := x.s.issue, blocks := x.s.blocks } = x.s

/-- No watchpoint stands on what the word touches (R374). -/
def Unwatched (x : Exec) : Prop := ∀ ts, x.wpHits ts = []

/-- `t` is the machine after the word has put its accesses in flight: its lanes and windows as `out` says, its counter
raised where it counts, the accesses in lane order, and leaves of its translations that a TLB may now hold, where full in
the place of another (R2, R155, R345). -/
def AccessesIssued (x : Exec) (uses : List RegUse) (out : Lane → LaneOut) (isLoad counted : Bool) (ds : List Draft)
    (t : State) : Prop :=
  ∃ u, WordDone x uses out (fun w => if counted then w.countUp isLoad else w) u ∧
    t = { (if ds = [] then u else u.launchAccesses x.i x.b.core isLoad counted (dropOverwritten ds)) with
      tlb := t.tlb, free := t.free }

/-- The class check of the word on target `t` lets it go on: as `y`, over the state the check leaves (R248 to R250). -/
structure Passed (x : Exec) (g : Option PReg) (t : Target) (mayPromote met : Bool) (y : Exec) : Prop where
  went : ∃ s', x.s.waitCheck x.b t mayPromote met = .ok s' ∧ y = x.inState s'
  issued : Issued y.s g y

/-- The word has made the warp sleep or wake, with the number `n` given to the sleep used up (R170; log 3). -/
def Numbered (x : Exec) (post : State → Prop) (t : State) : Prop :=
  ∃ u, post u ∧ t = { u with nextId := x.s.nextId + 1 }

/-- The sleep a word puts a lane into: it goes on past the word (R112, R170). -/
def sleepOn (x : Exec) (k : SleepKind) (ports : Vector (Option Stream) 4) : Sleep where
  kind := k
  next := x.i.pc + BitVec.ofNat 64 x.i.len
  word := x.i.word
  hint := x.i.hint.getD 0
  order := x.s.nextId
  ports := ports

/-! ### What one lane of a word reads and writes -/

/-- A lane's thread past the word. -/
def past (x : Exec) (l : Lane) : Thread := (x.w.thread l).pass x.i.len

/-- d ← f V[a] in one lane, with flags: a is read, then d is written (R73, R91). -/
def unaryLane (x : Exec) (d a : VReg) (f : Word → Word × Flags) (l : Lane) : Except Cause LaneOut :=
  match x.get1 (past x l) a with
  | .error c => .error c
  | .ok (u, t) => x.put1 (t.flag (f u).2) d (f u).1

/-- d ← f V[a] V[b] in one lane: a is read, then b, then d is written. -/
def binaryLane (x : Exec) (d a b : VReg) (f : Word → Word → Word × Flags) (l : Lane) : Except Cause LaneOut :=
  match x.get1 (past x l) a with
  | .error c => .error c
  | .ok (u, t) =>
    match x.get1 t b with
    | .error c => .error c
    | .ok (v, t) => x.put1 (t.flag (f u v).2) d (f u v).1

/-- a and b read in one lane, in this order: their values, and the thread after any pops. -/
def readTwo (x : Exec) (a b : VReg) (l : Lane) : Except Cause ((Word × Word) × Thread) :=
  match x.get1 (past x l) a with
  | .error c => .error c
  | .ok (u, t) => (match x.get1 t b with | .error c => .error c | .ok (v, t) => .ok ((u, v), t))

/-- A source or destination of one register or of a pair, as a use. -/
def useOf (sh : Shape) (r : VReg) (role : Role) : RegUse := ⟨sh, r, role⟩

/-- The conversions: what each reads and writes, and its function (R127, R137). -/
def convertLane (x : Exec) (sd sa : Shape) (d a : VReg) (f : DWord → DWord × Flags) (l : Lane) : Except Cause LaneOut :=
  match x.getShape sa a l (past x l) with
  | .error c => .error c
  | .ok (u, t) => x.putShape sd (t.flag (f u).2) d (f u).1

end Sys2Proof
end

