-- ==== Sys2Proof/Certificates/Slice0/Obligations.lean ====
section
/-! DEFINITION. The statements for the provers. -/

namespace Sys2Proof

open Sys2Proof.Machine

/-! ### Terms of the statements -/

/-- The words d ← f a, each with its function. -/
def unaryWords : List ((PReg → VReg → VReg → Instr) × (Issue → Word → Word × Flags)) :=
  [(Instr.iabs, fun (_ : Issue) (u : Word) => (if u.toInt < 0 then -u else u, {})),
   (Instr.ineg, fun (_ : Issue) (u : Word) => (-u, {})),
   (Instr.not, fun (_ : Issue) (u : Word) => (~~~u, {})),
   (Instr.popc, fun (_ : Issue) (u : Word) => (popc u, {})),
   (Instr.clz, fun (_ : Issue) (u : Word) => (clz u, {})),
   (Instr.ctz, fun (_ : Issue) (u : Word) => (ctz u, {})),
   (Instr.brev, fun (_ : Issue) (u : Word) => (brev u, {})),
   (Instr.mov, fun (_ : Issue) (u : Word) => (u, {})),
   (Instr.fabs, fun (_ : Issue) (u : Word) => (u &&& 0x7FFFFFFF#32, {})),
   (Instr.fneg, fun (_ : Issue) (u : Word) => (u ^^^ 0x80000000#32, {})),
   (Instr.frndRne, fun (i : Issue) (u : Word) => (fpRound i.fpMode .rne u, {})),
   (Instr.frndRtz, fun (i : Issue) (u : Word) => (fpRound i.fpMode .rtz u, {})),
   (Instr.frndRdn, fun (i : Issue) (u : Word) => (fpRound i.fpMode .rdn u, {})),
   (Instr.frndRup, fun (i : Issue) (u : Word) => (fpRound i.fpMode .rup u, {})),
   (Instr.frcp, fun (i : Issue) (u : Word) => fpRcp i.fpMode u),
   (Instr.frsq, fun (i : Issue) (u : Word) => fpRsq i.fpMode u),
   (Instr.fsqrt, fun (i : Issue) (u : Word) => fpSqrt i.fpMode u),
   (Instr.fex2, fun (i : Issue) (u : Word) => fpEx2 i.fpMode u),
   (Instr.flg2, fun (i : Issue) (u : Word) => fpLg2 i.fpMode u),
   (Instr.fsin, fun (i : Issue) (u : Word) => fpSinCos i.fpMode false u),
   (Instr.fcos, fun (i : Issue) (u : Word) => fpSinCos i.fpMode true u),
   (Instr.ftanh, fun (i : Issue) (u : Word) => fpTanh i.fpMode u),
   (Instr.fsigm, fun (i : Issue) (u : Word) => fpSigm i.fpMode u)]

/-- The words d ← f a b, each with its function. -/
def binaryWords : List ((PReg → VReg → VReg → VReg → Instr) × (Issue → Word → Word → Word × Flags)) :=
  [(Instr.iadd, fun (_ : Issue) (u v : Word) => (u + v, {})),
   (Instr.isub, fun (_ : Issue) (u v : Word) => (u - v, {})),
   (Instr.imin, fun (_ : Issue) (u v : Word) => (if u.toInt ≤ v.toInt then u else v, {})),
   (Instr.imax, fun (_ : Issue) (u v : Word) => (if u.toInt ≥ v.toInt then u else v, {})),
   (Instr.iminu, fun (_ : Issue) (u v : Word) => (if u.toNat ≤ v.toNat then u else v, {})),
   (Instr.imaxu, fun (_ : Issue) (u v : Word) => (if u.toNat ≥ v.toNat then u else v, {})),
   (Instr.imul, fun (_ : Issue) (u v : Word) => (u * v, {})),
   (Instr.imulh, fun (_ : Issue) (u v : Word) => (BitVec.ofInt 32 (u.toInt * v.toInt / 2 ^ 32), {})),
   (Instr.imulhu, fun (_ : Issue) (u v : Word) => (BitVec.ofNat 32 (u.toNat * v.toNat / 2 ^ 32), {})),
   (Instr.idiv, fun (_ : Issue) (u v : Word) => (idiv u v, {})),
   (Instr.idivu, fun (_ : Issue) (u v : Word) => (idivu u v, {})),
   (Instr.irem, fun (_ : Issue) (u v : Word) => (irem u v, {})),
   (Instr.iremu, fun (_ : Issue) (u v : Word) => (iremu u v, {})),
   (Instr.shl, fun (_ : Issue) (u v : Word) => (if v.toNat ≤ 31 then u <<< v.toNat else 0, {})),
   (Instr.shr, fun (_ : Issue) (u v : Word) => (if v.toNat ≤ 31 then u >>> v.toNat else 0, {})),
   (Instr.sar, fun (_ : Issue) (u v : Word) => (sar u v.toNat, {})),
   (Instr.rotl, fun (_ : Issue) (u v : Word) => (rotl u v.toNat, {})),
   (Instr.and, fun (_ : Issue) (u v : Word) => (u &&& v, {})),
   (Instr.or, fun (_ : Issue) (u v : Word) => (u ||| v, {})),
   (Instr.xor, fun (_ : Issue) (u v : Word) => (u ^^^ v, {})),
   (Instr.andn, fun (_ : Issue) (u v : Word) => (u &&& ~~~v, {})),
   (Instr.orn, fun (_ : Issue) (u v : Word) => (u ||| ~~~v, {})),
   (Instr.xnor, fun (_ : Issue) (u v : Word) => (~~~(u ^^^ v), {})),
   (Instr.bfe, fun (_ : Issue) (u v : Word) => (bfe u v, {})),
   (Instr.bfeu, fun (_ : Issue) (u v : Word) => (bfeu u v, {})),
   (Instr.fadd, fun (i : Issue) (u v : Word) => onWord (fpAdd fp32 i.fpMode u.toNat v.toNat)),
   (Instr.fsub, fun (i : Issue) (u v : Word) => onWord (fpSub fp32 i.fpMode u.toNat v.toNat)),
   (Instr.fmul, fun (i : Issue) (u v : Word) => onWord (fpMul fp32 i.fpMode u.toNat v.toNat)),
   (Instr.fmin, fun (i : Issue) (u v : Word) => onWord (fpMinMax fp32 i.fpMode false u.toNat v.toNat)),
   (Instr.fmax, fun (i : Issue) (u v : Word) => onWord (fpMinMax fp32 i.fpMode true u.toNat v.toNat)),
   (Instr.fcpys, fun (_ : Issue) (u v : Word) => (fcpys u v, {})),
   (Instr.badd2, fun (i : Issue) (u v : Word) => packed2 (fpAdd bf16 i.fpMode) u v),
   (Instr.bmul2, fun (i : Issue) (u v : Word) => packed2 (fpMul bf16 i.fpMode) u v),
   (Instr.bmax2, fun (i : Issue) (u v : Word) => packed2 (fpMinMax bf16 i.fpMode true) u v),
   (Instr.hadd2, fun (i : Issue) (u v : Word) => packed2 (fpAdd fp16 i.fpMode) u v),
   (Instr.hmul2, fun (i : Issue) (u v : Word) => packed2 (fpMul fp16 i.fpMode) u v),
   (Instr.hmax2, fun (i : Issue) (u v : Word) => packed2 (fpMinMax fp16 i.fpMode true) u v)]

/-- The words d ← f a b d, each with its function. -/
def ternaryWords : List ((PReg → VReg → VReg → VReg → Instr) × (Issue → Word → Word → Word → Word × Flags)) :=
  [(Instr.imad, fun (_ : Issue) (u v w : Word) => (u * v + w, {})),
   (Instr.bfi, fun (_ : Issue) (u v w : Word) => (bfi u v w, {})),
   (Instr.ffma, fun (i : Issue) (u v w : Word) => onWord (fpFma fp32 i.fpMode u.toNat v.toNat w.toNat)),
   (Instr.bfma2, fun (i : Issue) (u v w : Word) => packed3 (fpFma bf16 i.fpMode) u v w),
   (Instr.hfma2, fun (i : Issue) (u v w : Word) => packed3 (fpFma fp16 i.fpMode) u v w)]

/-- The words on register pairs, d ← f a b, each with its function. -/
def pairWords : List ((PReg → VReg → VReg → VReg → Instr) × (Issue → DWord → DWord → DWord × Flags)) :=
  [(Instr.iadd64, fun (_ : Issue) (u v : DWord) => (u + v, {})),
   (Instr.isub64, fun (_ : Issue) (u v : DWord) => (u - v, {})),
   (Instr.dadd, fun (i : Issue) (u v : DWord) => onDWord (fpAdd fp64 i.fpMode u.toNat v.toNat)),
   (Instr.dsub, fun (i : Issue) (u v : DWord) => onDWord (fpSub fp64 i.fpMode u.toNat v.toNat)),
   (Instr.dmul, fun (i : Issue) (u v : DWord) => onDWord (fpMul fp64 i.fpMode u.toNat v.toNat))]

/-- The words d ← f a imm, each with its function of the effective immediate of R66. -/
def immWords : List ((PReg → VReg → VReg → BitVec 7 → Instr) × (Word → Word → Word)) :=
  [(Instr.shli, fun (u k : Word) => if k.toNat ≤ 31 then u <<< k.toNat else 0),
   (Instr.shri, fun (u k : Word) => if k.toNat ≤ 31 then u >>> k.toNat else 0),
   (Instr.sari, fun (u k : Word) => sar u k.toNat),
   (Instr.andi, fun (u k : Word) => u &&& k)]

/-- The special registers of 32 bits by index, each with its value in a lane (R26). -/
def specialValues (x : Exec) (l : Lane) : List (Nat × Word) :=
  [(0, BitVec.ofNat 32 l.val), (1, BitVec.ofNat 32 x.i.w), (2, BitVec.ofNat 32 (x.b.blk % 2 ^ 24)), (3, kernOf x.s x.b),
   (4, BitVec.ofNat 32 (x.b.lcore - 128 * x.b.pn)), (5, BitVec.ofNat 32 ((x.b.lcore - 128 * x.b.pn) / 4)),
   (6, BitVec.ofNat 32 (if x.b.core < 512 then 160 * dieOfCore x.b.core + 20 * (islandOfCore x.b.core % 8) +
      4 * x.s.physInIsland x.b.core + x.b.core % 4 else 640 + dieOfCore x.b.core)),
   (7, BitVec.ofNat 32 (if x.b.core < 512 then 40 * dieOfCore x.b.core + 5 * (islandOfCore x.b.core % 8) +
      x.s.physInIsland x.b.core else 160 + dieOfCore x.b.core)),
   (8, BitVec.ofNat 32 (islandOfCore x.b.core)), (9, BitVec.ofNat 32 (dieOfCore x.b.core)),
   (12, BitVec.ofNat 32 x.b.cls), (13, (x.w.thread l).fpflags.setWidth 32)] ++
  (List.range 4).map (fun k => (14 + k, match x.b.grps[k]? with | some g => BitVec.ofNat 32 (2 ^ 31 + g) | none => 0)) ++
  [(18, BitVec.ofNat 32 x.b.lm),
   (19, BitVec.ofNat 32 (2 ^ 12 * x.w.mxc + 2 ^ 8 * x.w.cpc + 2 ^ 4 * x.w.stc + x.w.ldc))]

/-- The shuffles, each with the lane that a lane reads for an index (R142). -/
def shuffleWords : List ((PReg → VReg → VReg → VReg → Instr) × (Nat → Nat → Option Nat)) :=
  [(.shfli, fun _ n => some (n % 32)),
   (.shflu, fun l n => if n ≤ l then some (l - n) else none),
   (.shfld, fun l n => some (l + n)),
   (.shflx, fun l n => some (l ^^^ (n % 32)))]

/-- The integer operations of REDUX and SCAN (R88). -/
def reduxFolds : List (ReduxOp × (Word → Word → Word)) :=
  [(.iadd, fun u v => u + v),
   (.imin, fun u v => if u.toInt ≤ v.toInt then u else v),
   (.imax, fun u v => if u.toInt ≥ v.toInt then u else v),
   (.iminu, fun u v => if u.toNat ≤ v.toNat then u else v),
   (.imaxu, fun u v => if u.toNat ≥ v.toNat then u else v),
   (.and, fun u v => u &&& v),
   (.or, fun u v => u ||| v),
   (.xor, fun u v => u ^^^ v)]

/-- A stream descriptor of 16 bytes in the block's own window, and the stream it describes (R147, R148). -/
def Describes (x : Exec) (off : Nat) (st : Stream) : Prop :=
  off % 16 = 0 ∧ off / 2 ^ 20 % 2 = 0 ∧ off + 16 ≤ x.b.lm ∧ x.s.winBad x.b.bid off 16 = false ∧
  st.base = BitVec.ofNat 32 (x.s.winRead x.b.bid off 4) ∧ st.stride = BitVec.ofNat 32 (x.s.winRead x.b.bid (off + 4) 4) ∧
  st.count = BitVec.ofNat 32 (x.s.winRead x.b.bid (off + 8) 4) ∧ st.pos = 0 ∧
  (x.s.winRead x.b.bid (off + 12) 1, st.size) ∈ [(0, 4), (1, 2), (2, 1)] ∧
  (x.s.winRead x.b.bid (off + 13) 1, st.out) ∈ [(0, false), (1, true)] ∧ x.s.winRead x.b.bid (off + 14) 2 = 0 ∧
  x.s.winRead x.b.bid off 4 % st.size = 0 ∧ x.s.winRead x.b.bid (off + 4) 4 % st.size = 0

/-- The accesses of a load: one for each active lane, ascending (R155). -/
def loadsOf (x : Exec) (k : AccKind) (d : VReg) (z : Size) (va : Lane → DWord) (p : Lane → Xlat) : List Draft :=
  (lanesIn x.act).map fun l =>
    { lane := l, kind := k, loc := (p l).loc, mt := (p l).mt, size := sizeBytes z, cls := (p l).cls, va := va l
      dst := some (d.toNat, (sizeShape z).regs) }

/-- The accesses of a store: one for each active lane, ascending, with the bytes it stores (R4, R155). -/
def storesOf (x : Exec) (k : AccKind) (z : Size) (va : Lane → DWord) (p : Lane → Xlat) (v : Lane → Nat) : List Draft :=
  (lanesIn x.act).map fun l =>
    { lane := l, kind := k, loc := (p l).loc, mt := (p l).mt, size := sizeBytes z, cls := (p l).cls, va := va l
      cells := cellsAt (p l).loc (sizeBytes z) (v l) }

/-- The accesses of an atomic: one for each active lane, ascending, with its operands (R160 to R163). -/
def atomicsOf (x : Exec) (op : AtomOp) (near : Bool) (d : VReg) (n : Nat) (va : Lane → DWord) (p : Lane → Xlat)
    (v : Lane → BitVec 128 × BitVec 128) : List Draft :=
  (lanesIn x.act).map fun l =>
    { lane := l, kind := .atomic op (near && (p l).mt == 0) (v l).1 (v l).2, loc := (p l).loc, mt := (p l).mt
      size := op.bytes, cls := (p l).cls, va := va l, dst := some (d.toNat, n) }

/-- The address of a word of F.M in one lane (R152). -/
def addressOf (x : Exec) (b : VReg) (o : BitVec 5) (scale : Nat) (l : Lane) : DWord :=
  (past x l).get2 b + BitVec.ofInt 64 (x.i.imm o false * scale)

/-- The atomics with one value operand: near form, operation (R161, R163). -/
def atomWords : List ((PReg → VReg → VReg → VReg → Instr) × AtomOp × Bool) :=
  [(.aaddNear, .add, true), (.aminNear, .min, true), (.amaxNear, .max, true), (.aexchNear, .exch, true),
   (.aadd, .add, false), (.amin, .min, false), (.amax, .max, false), (.aexch, .exch, false), (.aand, .and, false),
   (.aor, .or, false), (.axor, .xor, false), (.ainc, .inc, false)]

/-- The floating-point atomics (R163). -/
def fatomWords : List ((PReg → VReg → VReg → VReg → Instr) × AtomOp) :=
  [(.faadd, .fadd), (.famin, .fmin), (.famax, .fmax), (.bfaadd2, .bfadd2)]

/-- What the atomics of 32 bits store, from the old value and the operand (R161, R163). -/
def atomValues : List (AtomOp × (Word → Word → Word)) :=
  [(.add, fun o y => o + y), (.min, fun o y => if o.toInt ≤ y.toInt then o else y),
   (.max, fun o y => if y.toInt ≤ o.toInt then o else y), (.exch, fun _ y => y), (.and, fun o y => o &&& y),
   (.or, fun o y => o ||| y), (.xor, fun o y => o ^^^ y), (.inc, fun o y => if o.toNat ≥ y.toNat then 0 else o + 1),
   (.fadd, fun o y => BitVec.ofNat 32 (fpAdd fp32 {} o.toNat y.toNat).1),
   (.fmin, fun o y => BitVec.ofNat 32 (fpMinMax fp32 {} false o.toNat y.toNat).1),
   (.fmax, fun o y => BitVec.ofNat 32 (fpMinMax fp32 {} true o.toNat y.toNat).1),
   (.bfadd2, fun o y => (packed2 (fpAdd bf16 {}) o y).1)]

/-- The continuation atomics (R165). -/
def contWords : List ((PReg → VReg → VReg → Cap → Instr) × ContOp) :=
  [(.casc, .casc), (.incc, .incc), (.minc, .minc)]

/-- What WAITF and POLL do as they read the home: older copies of the reader serve no more, and the TLBs may hold the
leaves used (R171, R263, R345). -/
def readAtHome (x : Exec) (w : Lane → Watch) (s : State) : State :=
  (lanesIn x.act).foldl (fun s l =>
    (s.readHome x.b.core (w l).p.loc 4).keepLeaf (some x.b.core) x.b.pn x.b.ctx (w l).va) s

/-- Whether a watched word meets its condition at its home (R171). -/
def meets (s : State) (k : WaitCond) (w : Watch) : Bool := s.reachable w.p.loc && condHolds k (s.homeWord w.p.loc) w.y

/-- The warp's stores are done at a scope: within the block each lies in the L1, or has been acknowledged; beyond it all
have been acknowledged, and their completion time has come (R168, R262). -/
def StoresDone (x : Exec) (sc : Scope) : Prop :=
  if sc = .blk then
    ∀ o ∈ x.s.ops, o.bid = x.i.bid → o.w = x.i.w → o.isLoad = false →
      ∀ a ∈ x.s.accs, a.bid = x.i.bid → a.w = x.i.w → a.op = o.id → a.early = true
  else x.w.stc = 0 ∧ x.w.wct.toNat ≤ x.s.gt

/-- The warp's loads have returned, and its atomics, which count as loads too, have been performed (R264). -/
def LoadsDone (x : Exec) : Prop :=
  x.w.ldc = 0 ∧ ∀ a ∈ x.s.accs, a.bid = x.i.bid → a.w = x.i.w → a.isAtomic = true → a.done.isSome = true

/-- The fence a release at a scope needs is over (R168). -/
def Released (x : Exec) (sc : Scope) : Prop := StoresDone x sc ∧ LoadsDone x

/-- The lowest active lane. -/
def lowLane (m : Mask) : Option Lane := (lanesIn m).head?

/-- The copies, each with its descriptor kind (R179, R288). -/
def copyWords : List ((PReg → VReg → VReg → Cap → Instr) × Nat) := [(.cpy, 1), (.cpyt, 2), (.cpyim, 3), (.cpyg, 4)]

/-- The words of MXM that post an operation from a descriptor: op5, word (R89, R190). -/
def postWords : List ((QReg → BarNo → Instr) × Nat) := [(.mxlds, 0), (.mxstr, 2), (.mxspr, 3), (.mxdrn, 4)]

/-- The sequencer word of block `b` executes (R187). -/
structure Sequencing (s : State) (b : Block) : Prop where
  now : s.seqNow = some b.bid
  block : s.block? b.bid = some b

/-- The state with the sequencer word over, before its effect. -/
def seqTaken (s : State) : State := { s with seqNow := none }

/-- The same, and the block waits for no place in the table of the engine any more. -/
def seqOver (s : State) (b : Block) : State := (seqTaken s).leaveTable b

/-- The registers of R196 that a write stores without any further effect. -/
def plainRegister (i : Nat) : Prop :=
  ∃ r, csrRow i = some r ∧ r.access = .rw ∧ ¬ (0x0430 ≤ i ∧ i ≤ 0x043F) ∧ ¬ (0x0500 ≤ i ∧ i ≤ 0x0503) ∧ i ≠ 0x0511 ∧
    i ≠ 0x0530 ∧ i ≠ 0x063C ∧ i ≠ 0x0700 ∧ ¬ (0x0704 ≤ i ∧ i ≤ 0x0708) ∧ ¬ (0x0800 ≤ i ∧ i ≤ 0x0820) ∧ i ≠ 0x0834

/-- No state of the context's trigger sequencer is armed (R376). -/
def Untriggered (s : State) (pn ctx : Nat) : Prop := ∀ k, k < 4 → (s.csr (.ctx pn ctx) (0x0638 + k)).getLsbD 31 = false

/-- The translations that a mode of TLBINV names (R201). -/
def shotDown (pn mode ctx va : Nat) (dies : List Nat) (e : TlbEntry) : Prop :=
  match mode with
  | 0 => e.pn = pn ∧ e.ctx = ctx ∧ va / e.size = e.base / e.size
  | 1 => e.pn = pn ∧ e.ctx = ctx
  | 2 => e.pn = pn
  | _ => e.place.die ∈ dies

/-! ### Terms of the statements on events -/

/-- Access `op`, of block `b`, may be performed now. -/
structure Performable (s : State) (op : Nat) (a : Access) (b : Block) : Prop where
  acc : s.acc? op = some a
  block : s.block? a.bid = some b
  ready : s.ready b.core a = true
  /-- So may the lanes of its word that name the same bytes. -/
  lanes : ∀ e ∈ s.peers a, s.ready b.core e = true

/-- A load has returned `v` to some lanes: each destination is written, its access gone, and with the last of its word the
operation. -/
def returned (s : State) (lanes : List Access) (v : Nat) : State :=
  (lanes.foldl (fun s a => (s.deliverDst a v).dropAcc a) s).unhold

/-- A load has failed for some lanes: each destination is poisoned. -/
def poisonedBy (s : State) (lanes : List Access) : State :=
  (lanes.foldl (fun s a => (s.poisonDst a (laneOfNat a.lane)).dropAcc a) s).unhold

/-- Some lanes' accesses are performed, one after another; the planes in a slot that is stored to are undefined then.
Then the granules that they fill become full, and lock words are settled (R74, R157, R307). -/
def performedBy (s : State) (b : Block) (lanes : List Access) : State :=
  (((filledBy lanes).foldl (fun s g => s.setFull g.1 g.2) (lanes.foldl (fun s e =>
    if e.win?.isSome then s.performAcc b e else (s.performAcc b e).touchSlots e.loc e.size) s)).settleLocks).unhold

/-- A .l1 load also notes which stores of its core, still to be performed, its lanes have read (R263). -/
def notedBy (s : State) (b : Block) (lvl : Pol) (lanes : List Access) : State :=
  if lvl = .l1 then s.noteReaders b.core lanes else s

/-- A lane that sleeps, in a warp that is not asked to stop. -/
structure Sleeping (s : State) (bid w : Nat) (l : Lane) (b : Block) (x : Warp) (z : Sleep) : Prop where
  block : s.block? bid = some b
  warp : b.warp? w = some x
  going : x.stop = .none
  asleep : (x.thread l).life = .asleep z

/-- A thread past the word it slept in. -/
def wokenBy (z : Sleep) (t : Thread) : Thread :=
  { t with pc := z.next, life := .run, ports := z.ports, held := false, hangKept := 0, kept := none }

/-- `t` is `s` with one thread as `f` makes it, and nothing held any more: nothing else has changed (log 3). -/
structure ThreadSet (s : State) (bid w : Nat) (l : Lane) (f : Thread → Thread) (t : State) : Prop where
  warp : ∀ x, s.warp? bid w = some x → ∃ y, t.warp? bid w = some y ∧ y = { x with threads := y.threads } ∧
    ∀ k, y.thread k = { (if k = l then f (x.thread k) else x.thread k) with held := false }
  others : ∀ c i, (c, i) ≠ (bid, w) → t.warp? c i = (s.warp? c i).map Warp.unhold
  blocks : ∀ c b, s.block? c = some b →
    ∃ b', t.block? c = some b' ∧ b' = { b with warps := b'.warps, seq := { b.seq with held := false } }
  rest : { t with blocks := s.blocks } = s

/-- What a halted or stopped block of the engines is: command `c` of block `b`, whose engine runs. -/
structure Commanded (s : State) (id : Nat) (c : Copy) (b : Block) : Prop where
  cmd : s.cmd? id = some c
  block : s.block? c.bid = some b
  runs : s.enginesRun b = true

/-- The partition of a core. -/
def partOf (s : State) (core : Nat) : Nat := s.pnOfDie (dieOfCore core)

/-- The words of a matrix sequencer (R89). -/
def ofSequencer (i : Instr) : Bool :=
  match i with
  | .mxlds _ _ | .mxswp | .mxstr _ _ | .mxspr _ _ | .mxdrn _ _ | .mxz | .mxck _ _ | .qmovi _ _ | .qadd _ _ _ | .qloop _ _
  | .qbar _ | .qwait _ | .qend => true
  | _ => false

/-- Bit j of a field's source: past bit 31 it is `top` (R103). -/
def sourceBit (u : Word) (top : Bool) (j : Nat) : Bool := if j ≤ 31 then u.getLsbD j else top

/-- Reset values of control registers by index, in the copy named (R220, R228, R258, R318, R321, R330, R353, R354, R371,
R372, R379, R383, R401). -/
def resetRegisters : List (CsrScope × Nat × Word) :=
  [(.die 0, 0x0210, 500), (.die 3, 0x0220, 0x800003E8), (.die 0, 0x0228, 0x20000688), (.die 3, 0x0247, 0x20000688),
   (.part 0, 0x0100, 0), (.part 0, 0x0101, 0), (.die 0, 0x0300, 0), (.part 1, 0x03C0, 0), (.part 0, 0x03C2, 4),
   (.part 0, 0x03C8, 0), (.part 3, 0x03C8, 1536), (.part 2, 0x03D0, 1000000), (.part 0, 0x03D4, 0), (.part 0, 0x0400, 1000),
   (.module, 0x0500, 0x20000000), (.module, 0x0508, 0xF), (.module, 0x0509, 0), (.module, 0x0520, 0),
   (.module, 0x0530, 0x00800000), (.module, 0x0531, 0x3E000000), (.ctx 0 0, 0x0620, 0), (.ctx 0 15, 0x063C, 0),
   (.ctx 0 3, 0x0652, 0x00080064), (.ctx 0 3, 0x0656, 16), (.module, 0x0700, 0xE4), (.module, 0x0701, 0),
   (.module, 0x0702, 0xF0), (.module, 0x0704, 1), (.module, 0x0707, 8), (.module, 0x0708, 0), (.part 0, 0x0710, 0x1010),
   (.module, 0x0800, 0x12C), (.module, 0x0820, 4096), (.part 0, 0x0833, 0)]

/-- Whether a check has found a condition. -/
def verdictOf {α : Type} (r : Except Cause α) : Except Cause Unit :=
  match r with
  | .error k => .error k
  | .ok _ => .ok ()

/-- The send allowance of an enqueue, checked last (R24, R339). -/
def allowanceOf (x : Exec) (c : Cap) (r : Except Cause (CapEntry × QueueHdr × List Nat)) : Except Cause Unit :=
  match r with
  | .error k => .error k
  | .ok e =>
    if e.1.allow ≠ 0xFFFFFFFF ∧ e.1.allow.toNat < (lanesIn x.act).length then .error (capBad .capPerm c) else .ok ()

/-- The words that name a capability: the registers each uses, whether it acts once, and its check in the order of R24, with the object named
between its type and its permissions as R416 lays down. -/
def capWords (x : Exec) (g : PReg) (d a b : VReg) (c : Cap) (np : Bool) (k : WaitCond) :
    List (Instr × List RegUse × Bool × Except Cause Unit) :=
  let bar := fun (p : BitVec 5 → Bool) => verdictOf (x.cap c [capGroup, capBlock] (x.target c) p)
  let card := fun (p : BitVec 5) => verdictOf (x.cap c [capCard] noObject (permAll p))
  let flag := verdictOf (x.cap c [capGroup, capBlock, capCard, capQueue, capLock] (x.target c) (permAll permWait))
  let lock := fun (p : BitVec 5) => verdictOf (x.cap c [capLock] (x.lockObj c) (permAll p))
  let wait := verdictOf (x.cap c [capLock] (x.lockWait c) (permAll (permWait ||| permRecv)))
  let enq := allowanceOf x c (x.cap c [capQueue]
    (x.queueObj c .readWrite (·.tail) fun q => min (lanesIn x.act).length (q.cap - q.len)) (permAll permSend))
  let deq := verdictOf (x.cap c [capQueue]
    (x.queueObj c .readWrite (·.head) fun q => min (lanesIn x.act).length q.len) (permAll (permRecv ||| permWait)))
  let copy := verdictOf (x.cap c [capRing]
    (x.ringObj c .readWrite fun r => x.s.recordLoc (some x.b.core) x.b.pn x.b.ctx r r.next) (permAll permSend))
  let token := fun (quad : Bool) =>
    verdictOf (x.cap c [capRing] (x.ringObj c .read (x.slotsOf (x.tokens a quad))) (permAll permRecv))
  [(.bara g d a c, [src2 a, dst1 d], true, bar (permAll permSend)),
   (.barx g d a c, [src2 a, dst1 d], true, bar (permAll permSend)),
   (.barw g d a c, [src2 a, dst1 d], true, bar (permAll permWait)),
   (.baraw g d a c, [src2 a, dst1 d], true, bar (permAll (permSend ||| permWait))),
   (.barxw g d a c, [src2 a, dst1 d], true, bar (permAll (permSend ||| permWait))),
   (.barst g d a c, [src2 a, dst2 d], true, bar (permAny (permSend ||| permWait))),
   (.waitf g a b c np k, [src2 a, src1 b], false, flag),
   (.poll g a b c np k, [src2 a, ⟨.pair, b, .dst⟩, src1 b], false, flag),
   (.rlock g c, [], false, wait), (.wlock g c, [], false, wait),
   (.runlk g c, [], false, lock permSend), (.wunlk g c, [], false, lock permSend),
   (.rtry g d c, [dst1 d], false, lock permRecv), (.wtry g d c, [dst1 d], false, lock permRecv),
   (.enq g d a c, [src2 a, dst1 d], false, enq), (.enqt g d a c, [src4 a, dst1 d], false, enq),
   (.deq g d c, [⟨.pair, d, .dst⟩], false, deq), (.deqt g d a c, [⟨.quad, d, .dst⟩, src2 a], false, deq),
   (.qlen g d c, [dst1 d], false, verdictOf (x.cap c [capQueue] (x.queueObj c .read (·.head) fun _ => 0)
      (permAny (permSend ||| permRecv)))),
   (.cpy g d a c, [src1 a, dst1 d], true, copy), (.cpyt g d a c, [src1 a, dst1 d], true, copy),
   (.cpyim g d a c, [src1 a, dst1 d], true, copy), (.cpyg g d a c, [src1 a, dst1 d], true, copy),
   (.ctok g d a c, [src1 a, dst1 d], false, token false), (.csleep g d a c, [src4 a, dst1 d], false, token true),
   (.card g d a c, [src1 a, dst1 d], true, card permLaunch), (.deal g d c, [dst2 d], true, card permRecv),
   (.reord g a c, [src4 a], false, card permLaunch),
   (.casc g a b c, [src2 a, src2 b, dst1 (b + 1)], false, card permLaunch),
   (.incc g a b c, [src2 a, src2 b, dst1 (b + 1)], false, card permLaunch),
   (.minc g a b c, [src2 a, src2 b, dst1 (b + 1)], false, card permLaunch)]

end Sys2Proof

open Sys2Proof Sys2Proof.Machine

/-! ### Words over registers -/

/-- R150, R14: a register that is no bound port reads and writes as itself; a bound port pops its next element, read from
local memory at base + position × stride, or pushes one there, and its position rises by 1; a port of the wrong
direction, or at its end, raises STREAM, and an element that a soft error has destroyed ECC. -/
def Claim.OperandForms : Prop :=
  ∀ (x : Exec) (t : Thread) (r : VReg) (v : Word),
    (t.boundPort r.toNat = none →
      x.get1 t r = .ok (t.v[r.toNat], t) ∧ x.put1 t r v = .ok ⟨{ t with v := t.v.set r.toNat v }, []⟩) ∧
    (∀ st, t.boundPort r.toNat = some st → st.out = true ∨ st.pos = st.count → x.get1 t r = .error { code := .stream }) ∧
    (∀ st, t.boundPort r.toNat = some st → st.out = false ∨ st.pos = st.count →
      x.put1 t r v = .error { code := .stream }) ∧
    (∀ st bid off, t.boundPort r.toNat = some st → st.pos ≠ st.count →
      x.s.checkLocal x.b (st.base + st.pos * st.stride).toNat st.size = .ok (bid, off) →
      (st.out = false → x.s.winBad bid off st.size = true →
        x.get1 t r = .error { code := .ecc, addr := BitVec.ofNat 64 (st.base + st.pos * st.stride).toNat }) ∧
      (st.out = false → x.s.winBad bid off st.size = false → x.get1 t r = .ok (BitVec.ofNat 32 (x.s.winRead bid off st.size),
        { t with ports := t.ports.setIfInBounds (r.toNat - 124) (some { st with pos := st.pos + 1 }) })) ∧
      (st.out = true → x.put1 t r v = .ok
        ⟨{ t with ports := t.ports.setIfInBounds (r.toNat - 124) (some { st with pos := st.pos + 1 }) },
          [(bid, cellsAt off st.size v.toNat)]⟩))

/-- R91, R94, R101, R102, R108, R131, R135, R136: V[d] ← f V[a] in every active lane, and nothing else. -/
def Claim.UnaryWords : Prop :=
  ∀ p ∈ unaryWords, ∀ (s : State) (g : PReg) (d a : VReg) (x : Exec) (out : Lane → LaneOut),
    Issuing s (some g) x → Unhindered x [src1 a, dst1 d] →
    (∀ l, inMask x.act l = true → unaryLane x d a (p.2 x.i) l = .ok (out l)) →
    ∃ t, exec (p.1 g d a) s = .next t ∧ WordDone x [src1 a, dst1 d] out id t

/-- R91, R93, R97 to R99, R101, R103, R129 to R131, R133: V[d] ← f V[a] V[b] in every active lane, and nothing else. -/
def Claim.BinaryWords : Prop :=
  ∀ p ∈ binaryWords, ∀ (s : State) (g : PReg) (d a b : VReg) (x : Exec) (out : Lane → LaneOut),
    Issuing s (some g) x → Unhindered x [src1 a, src1 b, dst1 d] →
    (∀ l, inMask x.act l = true → binaryLane x d a b (p.2 x.i) l = .ok (out l)) →
    ∃ t, exec (p.1 g d a b) s = .next t ∧ WordDone x [src1 a, src1 b, dst1 d] out id t

/-- R64, R97, R103, R129, R133: V[d] ← f V[a] V[b] V[d]; a bound port as d is no operand of these words. -/
def Claim.TernaryWords : Prop :=
  ∀ p ∈ ternaryWords, ∀ (s : State) (g : PReg) (d a b : VReg) (x : Exec) (val : Lane → Word × Word) (th : Lane → Thread),
    Issuing s (some g) x → Unhindered x [src1 a, src1 b, third1 d] →
    (∀ l, inMask x.act l = true → readTwo x a b l = .ok (val l, th l)) →
    ∃ t, exec (p.1 g d a b) s = .next t ∧
      WordDone x [src1 a, src1 b, third1 d] (fun l =>
        let r := p.2 x.i (val l).1 (val l).2 ((th l).reg d)
        plainOut (((th l).flag r.2).setReg d r.1)) id t

/-- R96, R97, R110, R132: V64[d] ← f V64[a] V64[b]; DFMA adds V64[d]; IMADW and IMADWU multiply 32-bit sources into the pair; LEA
adds the shifted sign-extended register to the pair. -/
def Obligations.PairWords : Prop :=
  (∀ p ∈ pairWords, ∀ (s : State) (g : PReg) (d a b : VReg) (x : Exec),
    Issuing s (some g) x → Unhindered x [src2 a, src2 b, dst2 d] →
    ∃ t, exec (p.1 g d a b) s = .next t ∧
      WordDone x [src2 a, src2 b, dst2 d] (fun l =>
        let r := p.2 x.i ((past x l).get2 a) ((past x l).get2 b)
        plainOut (((past x l).flag r.2).put2 d r.1)) id t) ∧
  (∀ (s : State) (g : PReg) (d a b : VReg) (x : Exec),
    Issuing s (some g) x → Unhindered x [src2 a, src2 b, third2 d] →
    ∃ t, exec (.dfma g d a b) s = .next t ∧
      WordDone x [src2 a, src2 b, third2 d] (fun l =>
        let r := onDWord (fpFma fp64 x.i.fpMode ((past x l).get2 a).toNat ((past x l).get2 b).toNat ((past x l).get2 d).toNat)
        plainOut (((past x l).flag r.2).put2 d r.1)) id t) ∧
  (∀ p ∈ [(Instr.imadw, fun (u v : Word) => BitVec.ofInt 64 (u.toInt * v.toInt)),
      (Instr.imadwu, fun (u v : Word) => BitVec.ofNat 64 (u.toNat * v.toNat))],
    ∀ (s : State) (g : PReg) (d a b : VReg) (x : Exec) (val : Lane → Word × Word) (th : Lane → Thread),
    Issuing s (some g) x → Unhindered x [src1 a, src1 b, third2 d] →
    (∀ l, inMask x.act l = true → readTwo x a b l = .ok (val l, th l)) →
    ∃ t, exec (p.1 g d a b) s = .next t ∧
      WordDone x [src1 a, src1 b, third2 d] (fun l =>
        plainOut ((th l).put2 d (p.2 (val l).1 (val l).2 + (th l).get2 d))) id t) ∧
  (∀ (s : State) (g : PReg) (d a b : VReg) (k : BitVec 2) (x : Exec) (y : Lane → Word) (th : Lane → Thread),
    Issuing s (some g) x → Unhindered x [src2 a, src1 b, dst2 d] →
    (∀ l, inMask x.act l = true → x.get1 (past x l) b = .ok (y l, th l)) →
    ∃ t, exec (.lea g d a b k) s = .next t ∧
      WordDone x [src2 a, src1 b, dst2 d] (fun l =>
        plainOut ((th l).put2 d ((past x l).get2 a + ((y l).signExtend 64 <<< k.toNat)))) id t)

/-- R66, R95, R100, R108: the immediate forms, with the field's own value or the one HIMM widens it to. -/
def Claim.ImmediateWords : Prop :=
  (∀ p ∈ immWords, ∀ (s : State) (g : PReg) (d a : VReg) (i : BitVec 7) (x : Exec) (out : Lane → LaneOut),
    Issuing s (some g) x → Unhindered x [src1 a, dst1 d] →
    (∀ l, inMask x.act l = true →
      unaryLane x d a (fun u => (p.2 u (BitVec.ofInt 32 (x.i.imm i false)), {})) l = .ok (out l)) →
    ∃ t, exec (p.1 g d a i) s = .next t ∧ WordDone x [src1 a, dst1 d] out id t) ∧
  (∀ (s : State) (g : PReg) (d a : VReg) (i : BitVec 9) (x : Exec) (out : Lane → LaneOut),
    Issuing s (some g) x → Unhindered x [src1 a, dst1 d] →
    (∀ l, inMask x.act l = true →
      unaryLane x d a (fun u => (u + BitVec.ofInt 32 (x.i.imm i true), {})) l = .ok (out l)) →
    ∃ t, exec (.iaddi g d a i) s = .next t ∧ WordDone x [src1 a, dst1 d] out id t) ∧
  (∀ (s : State) (g : PReg) (d : VReg) (i : BitVec 16) (x : Exec) (out : Lane → LaneOut),
    Issuing s (some g) x → Unhindered x [dst1 d] →
    (∀ l, inMask x.act l = true → x.put1 (past x l) d (BitVec.ofInt 32 (x.i.imm i true)) = .ok (out l)) →
    ∃ t, exec (.movi g d i) s = .next t ∧ WordDone x [dst1 d] out id t)

/-- R127, R137: each conversion reads its source, narrows to the type's low bits, and rounds in the mode of its code with
X set, else in HFMD's. -/
def Obligations.ConversionWords : Prop :=
  ∀ (s : State) (g : PReg) (d a : VReg) (e : Bool) (r : RMode) (x : Exec) (out : Lane → LaneOut),
    Issuing s (some g) x →
    (∀ tt st : FType, Unhindered x [useOf (fShape st) a .src, useOf (fShape tt) d .dst] →
      (∀ l, inMask x.act l = true → convertLane x (fShape tt) (fShape st) d a (fun u =>
        onDWord (fpCvt (fmtOf st) (fmtOf tt) { x.i.fpMode with mode := if e then r else x.i.fpMode.mode }
          (u.toNat % 2 ^ (fmtOf st).width))) l = .ok (out l)) →
      ∃ t, exec (.cvtf g d a e r tt st) s = .next t ∧
        WordDone x [useOf (fShape st) a .src, useOf (fShape tt) d .dst] out id t) ∧
    (∀ (it : IType) (st : FType), Unhindered x [useOf (fShape st) a .src, useOf (iShape it) d .dst] →
      (∀ l, inMask x.act l = true → convertLane x (iShape it) (fShape st) d a (fun u =>
        let q := fpToInt (fmtOf st) (if e then r else x.i.fpMode.mode) it (u.toNat % 2 ^ (fmtOf st).width)
        (BitVec.ofInt 64 q.1, q.2)) l = .ok (out l)) →
      ∃ t, exec (.f2i g d a e r it st) s = .next t ∧
        WordDone x [useOf (fShape st) a .src, useOf (iShape it) d .dst] out id t) ∧
    (∀ (tt : FType) (it : IType), Unhindered x [useOf (iShape it) a .src, useOf (fShape tt) d .dst] →
      (∀ l, inMask x.act l = true → convertLane x (fShape tt) (iShape it) d a (fun u =>
        onDWord (intToFp (fmtOf tt) (if e then r else x.i.fpMode.mode) (iValue it u))) l = .ok (out l)) →
      ∃ t, exec (.i2f g d a e r tt it) s = .next t ∧
        WordDone x [useOf (iShape it) a .src, useOf (fShape tt) d .dst] out id t)

/-- R65, R104, R134: a compare writes its predicate in every active lane, ANDed into the old value where the word says so. -/
def Claim.CompareWords : Prop :=
  ∀ (s : State) (g p : PReg) (a b : VReg) (acc : Bool) (x : Exec) (val : Lane → Word × Word) (th : Lane → Thread),
    Issuing s (some g) x →
    (∀ c : IntCond, Unhindered x [src1 a, src1 b] → (∀ l, inMask x.act l = true → readTwo x a b l = .ok (val l, th l)) →
      ∃ t, exec (.isetp g p c a b acc) s = .next t ∧
        WordDone x [src1 a, src1 b] (fun l =>
          let h := IntCond.holds c (val l).1 (val l).2
          plainOut ((th l).setPred p (if acc then h && (th l).pred p else h))) id t) ∧
    (∀ (c : IntCond) (i : BitVec 7) (v : Lane → Word), Unhindered x [src1 a] →
      (∀ l, inMask x.act l = true → x.get1 (past x l) a = .ok (v l, th l)) →
      ∃ t, exec (.isetpi g p c a i acc) s = .next t ∧
        WordDone x [src1 a] (fun l =>
          let h := IntCond.holds c (v l) (BitVec.ofInt 32 (x.i.imm i true))
          plainOut ((th l).setPred p (if acc then h && (th l).pred p else h))) id t) ∧
    (∀ c : FloatCond, Unhindered x [src1 a, src1 b] → (∀ l, inMask x.act l = true → readTwo x a b l = .ok (val l, th l)) →
      ∃ t, exec (.fsetp g p c a b acc) s = .next t ∧
        WordDone x [src1 a, src1 b] (fun l =>
          let h := fpSetp x.i.fpMode c (val l).1 (val l).2
          plainOut (((th l).flag h.2).setPred p (if acc then h.1 && (th l).pred p else h.1))) id t)

/-- R105 to R107: the predicate words write what they say in every active lane, and nothing else; p7 stays true. -/
def Claim.PredicateWords : Prop :=
  (∀ p ∈ [(Instr.pand, fun (u v : Bool) => u && v), (Instr.por, fun u v => u || v), (Instr.pxor, fun u v => u != v)],
    ∀ (s : State) (g d a b : PReg) (x : Exec), Issuing s (some g) x → Unhindered x [] →
    ∃ t, exec (p.1 g d a b) s = .next t ∧
      WordDone x [] (fun l => plainOut ((past x l).setPred d (p.2 ((past x l).pred a) ((past x l).pred b)))) id t) ∧
  (∀ (s : State) (g d a : PReg) (x : Exec), Issuing s (some g) x → Unhindered x [] →
    ∃ t, exec (.pnot g d a) s = .next t ∧
      WordDone x [] (fun l => plainOut ((past x l).setPred d (!(past x l).pred a))) id t) ∧
  (∀ (s : State) (g : PReg) (d a b : VReg) (x : Exec) (val : Lane → Word × Word) (th : Lane → Thread) (out : Lane → LaneOut),
    Issuing s (some g) x → Unhindered x [src1 a, src1 b, dst1 d] →
    (∀ l, inMask x.act l = true → readTwo x a b l = .ok (val l, th l)) →
    (∀ l, inMask x.act l = true → x.put1 (th l) d
      (if (th l).pred x.i.selector.1 != x.i.selector.2 then (val l).1 else (val l).2) = .ok (out l)) →
    ∃ t, exec (.sel g d a b) s = .next t ∧ WordDone x [src1 a, src1 b, dst1 d] out id t) ∧
  (∀ (s : State) (g : PReg) (d : VReg) (x : Exec) (out : Lane → LaneOut),
    Issuing s (some g) x → Unhindered x [dst1 d] →
    (∀ l, inMask x.act l = true → x.put1 (past x l) d ((1#1 ++ (past x l).p).setWidth 32) = .ok (out l)) →
    ∃ t, exec (.p2v g d) s = .next t ∧ WordDone x [dst1 d] out id t) ∧
  (∀ (s : State) (g : PReg) (m : BitVec 7) (a : VReg) (x : Exec) (v : Lane → Word) (th : Lane → Thread),
    Issuing s (some g) x → Unhindered x [src1 a] →
    (∀ l, inMask x.act l = true → x.get1 (past x l) a = .ok (v l, th l)) →
    ∃ t, exec (.v2p g m a) s = .next t ∧
      WordDone x [src1 a] (fun l =>
        plainOut { th l with p := ((th l).p &&& ~~~m) ||| ((v l).setWidth 7 &&& m) }) id t)

/-- R18, R74, R109: uniform registers move to the lanes and back; the highest active lane's value goes to a uniform
register, and w0 discards what is written. -/
def Claim.UniformWords : Prop :=
  (∀ (s : State) (g : PReg) (d : VReg) (a : WReg) (x : Exec) (out : Lane → LaneOut),
    Issuing s (some g) x → Unhindered x [dst1 d] →
    (∀ l, inMask x.act l = true → x.put1 (past x l) d (if a = 0 then 0 else x.w.w[a.toNat]) = .ok (out l)) →
    ∃ t, exec (.movw g d a) s = .next t ∧ WordDone x [dst1 d] out id t) ∧
  (∀ (s : State) (g : PReg) (d : WReg) (a : VReg) (x : Exec) (v : Lane → Word) (th : Lane → Thread) (k : Lane),
    Issuing s (some g) x → Unhindered x [src1 a] →
    (∀ l, inMask x.act l = true → x.get1 (past x l) a = .ok (v l, th l)) →
    hiLane x.act = some k →
    ∃ t, exec (.wmov g d a) s = .next t ∧
      WordDone x [src1 a] (fun l => plainOut (th l))
        (fun w => if d = 0 then w else { w with w := w.w.set d.toNat (v k) }) t) ∧
  (∀ (s : State) (g : PReg) (d a b : WReg) (x : Exec), Issuing s (some g) x → Unhindered x [] →
    (∃ t, exec (.wmovw g d a) s = .next t ∧
      WordDone x [] (fun l => plainOut (past x l)) (fun w => w.setUni d (x.w.uni a)) t) ∧
    (∃ t, exec (.wadd g d a b) s = .next t ∧
      WordDone x [] (fun l => plainOut (past x l)) (fun w => w.setUni d (x.w.uni a + x.w.uni b)) t))


/-- R26, R111: RDS gives every special register of 32 bits its value; RDS of 10 or 11 gives a pair GT or the WCT; WRS of
13 sets the sticky flags; an index of no register traps with ILLEGAL. -/
def Claim.SpecialRegisters : Prop :=
  (∀ (s : State) (d : VReg) (k : BitVec 7) (x : Exec) (out : Lane → LaneOut) (val : Lane → Word),
    Issuing s none x → Unhindered x [dst1 d] →
    (∀ l, ∃ p ∈ specialValues x l, p.1 = k.toNat ∧ p.2 = val l) →
    (∀ l, inMask x.act l = true → x.put1 (past x l) d (val l) = .ok (out l)) →
    ∃ t, exec (.rds d k) s = .next t ∧ WordDone x [dst1 d] out id t) ∧
  (∀ (s : State) (d : VReg) (x : Exec), Issuing s none x → Unhindered x [dst2 d] →
    (∃ t, exec (.rds d 10) s = .next t ∧
      WordDone x [dst2 d] (fun l => plainOut ((past x l).put2 d (BitVec.ofNat 64 s.gt))) id t) ∧
    (∃ t, exec (.rds d 11) s = .next t ∧
      WordDone x [dst2 d] (fun l => plainOut ((past x l).put2 d x.w.wct)) id t)) ∧
  (∀ (s : State) (a : VReg) (x : Exec) (v : Lane → Word) (th : Lane → Thread),
    Issuing s none x → Unhindered x [src1 a] →
    (∀ l, inMask x.act l = true → x.get1 (past x l) a = .ok (v l, th l)) →
    ∃ t, exec (.wrs 13 a) s = .next t ∧
      WordDone x [src1 a] (fun l => plainOut { th l with fpflags := (v l).setWidth 5 }) id t) ∧
  (∀ (s : State) (d : VReg) (k : BitVec 7) (x : Exec), Issuing s none x → 20 ≤ k.toNat →
    exec (.rds d k) s = x.trapAll { code := .illegal } ∧ exec (.wrs k d) s = x.trapAll { code := .illegal })

/-- R112: a lane whose target has passed gets GT at once; any other sleeps on the word until GT reaches the target. -/
def Claim.ReadTime : Prop :=
  ∀ (s : State) (d a : VReg) (x : Exec), Issuing s none x → Unhindered x [src2 a, dst2 d] →
    ∃ t, exec (.rdgt d a) s = .next t ∧ Numbered x (WordDone x [src2 a, dst2 d] (fun l =>
      let target := (past x l).get2 a
      if target.toNat ≤ s.gt then plainOut ((past x l).put2 d (BitVec.ofNat 64 s.gt))
      else plainOut { past x l with
        pc := x.i.pc
        life := .asleep (sleepOn x (.time target d) (past x l).ports) }) id) t

/-- R66, R113, R114, R116, R117: BRA, BRX and RET move the active lanes to the target; the other issued lanes go past the word. -/
def Claim.Branches : Prop :=
  (∀ (s : State) (g : PReg) (o : BitVec 23) (x : Exec), Issuing s (some g) x → Unhindered x [] →
    ∃ t, exec (.bra g o) s = .next t ∧ WordDone x [] (fun l =>
      plainOut { past x l with pc := x.i.wordPc + BitVec.ofInt 64 (4 * x.i.imm o true) }) id t) ∧
  (∀ (s : State) (g : PReg) (a : VReg) (i : BitVec 12) (x : Exec), Issuing s (some g) x → Unhindered x [src2 a] →
    (∀ l, inMask x.act l = true → ((past x l).get2 a + BitVec.ofInt 64 (4 * x.i.imm i false)).extractLsb' 0 2 = 0) →
    ∃ t, exec (.brx g a i) s = .next t ∧ WordDone x [src2 a] (fun l =>
      plainOut { past x l with pc := (past x l).get2 a + BitVec.ofInt 64 (4 * x.i.imm i false) }) id t) ∧
  (∀ (s : State) (g : PReg) (a : VReg) (x : Exec), Issuing s (some g) x → Unhindered x [third1 a] →
    x.himmMisuse = false →
    (∀ l, inMask x.act l = true → ((past x l).reg a).extractLsb' 0 2 = 0) →
    ∃ t, exec (.ret g a) s = .next t ∧ WordDone x [third1 a] (fun l =>
      plainOut { past x l with pc := x.i.wordPc.extractLsb' 32 32 ++ (past x l).reg a }) id t)

/-- R14, R72, R114 to R116: CALL and CALLX write the link to v126, which nothing in flight still writes, and go to the
target, aligned and in the word's 4 GiB region. -/
def Claim.Calls : Prop :=
  ∀ (s : State) (g : PReg) (x : Exec), Issuing s (some g) x →
    (∀ o : BitVec 23, Unhindered x [linkUse] →
      let tgt := x.i.wordPc + BitVec.ofInt 64 (4 * x.i.imm o true)
      tgt.extractLsb' 0 2 = 0 → tgt.extractLsb' 32 32 = x.i.wordPc.extractLsb' 32 32 →
      ∃ t, exec (.call g o) s = .next t ∧ WordDone x [linkUse] (fun l =>
        plainOut { (past x l).setReg 126 ((x.i.wordPc + 4).setWidth 32) with pc := tgt }) id t) ∧
    (∀ (a : VReg) (i : BitVec 12), Unhindered x [src2 a, linkUse] →
      let tgt := fun l => (past x l).get2 a + BitVec.ofInt 64 (4 * x.i.imm i false)
      (∀ l, inMask x.act l = true → (tgt l).extractLsb' 0 2 = 0 ∧
        (tgt l).extractLsb' 32 32 = x.i.wordPc.extractLsb' 32 32) →
      ∃ t, exec (.callx g a i) s = .next t ∧ WordDone x [src2 a, linkUse] (fun l =>
        plainOut { (past x l).setReg 126 ((x.i.wordPc + 4).setWidth 32) with pc := tgt l }) id t)

/-- R119: NOP has no effect, YIELD only marks the issued lanes, SPT and EXIT of no lane only stop where a stop is asked. -/
def Claim.SafePoints : Prop :=
  (∀ (s : State) (g : PReg) (x : Exec), Issuing s (some g) x → Undisturbed x → x.himmMisuse = false →
    (∃ t, exec (.nop g) s = .next t ∧ WarpDone x id t) ∧
    (∃ t, exec (.yield g) s = .next t ∧ WarpDone x (fun w =>
      w.modThreads fun l t => if inMask x.i.lanes l then { t with yielded := true } else t) t)) ∧
  (∀ (s : State) (g : PReg) (k : BitVec 12) (x : Exec), Issued s (some g) x → Undisturbed x →
    ∃ t, exec (.spt g k) s = .next t ∧ WarpDone x (Warp.safePoint x.i.lanes
      (if 0 ≤ x.i.imm k false ∧ x.i.imm k false < 4096 then (x.i.imm k false).toNat else 0)) t) ∧
  (∀ (w : Warp) (lanes : Mask) (k : Nat), w.stop ≠ .asked → w.note = none → w.safePoint lanes k = w) ∧
  (∀ (w : Warp) (lanes : Mask) (k : Nat), w.stop = .asked →
    (w.safePoint lanes k).stopped = w.stopped ||| lanes ∧ (w.safePoint lanes k).threads = w.threads)

/-- R118, R121, R122: EXIT, once no load has an element still to push, ends the active lanes, unbinds their ports, takes
them out of every mask and applies every arrival check; ERET does the same outside a handler, and ends the invocation of a
handler warp, whose accesses in flight run on. -/
def Claim.Exits : Prop :=
  (∀ (s : State) (g : PReg) (x : Exec), Issued s (some g) x → Undisturbed x → x.portPending = false →
    (x.act ≠ 0 → x.himmMisuse = false) →
    ∃ t, exec (.exit g) s = .next t ∧ WarpDone x (fun w =>
      (w.endLanes x.act).safePoint (x.i.lanes &&& ~~~x.act) (s.sptabIndex x.b x.i.wordPc)) t) ∧
  (∀ (s : State) (g : PReg) (x : Exec), Issuing s (some g) x → Undisturbed x → x.himmMisuse = false → x.w.level ≠ 0 →
    (∀ core quad r, x.b.kind = .handler core quad r →
      ∃ t, exec (.eret g) s = .next t ∧
        ((∀ o ∈ s.ops, o.bid ≠ x.b.bid) → (∀ a ∈ s.accs, a.bid ≠ x.b.bid) → t.block? x.b.bid = none) ∧
        (∀ b, t.block? x.b.bid = some b → b.life = .retired ∧ ∀ w ∈ b.warps, ∀ l, (w.thread l).life = .ended) ∧
        (∀ n, n ≠ x.b.bid → t.block? n = s.block? n) ∧ { t with issue := s.issue, blocks := s.blocks } = s) ∧
    ((∀ core quad r, x.b.kind ≠ .handler core quad r) → x.portPending = false →
      ∃ t, exec (.eret g) s = .next t ∧ WarpDone x (fun w =>
        (w.endLanes x.act).safePoint (x.i.lanes &&& ~~~x.act) (s.sptabIndex x.b x.i.wordPc)) t)) ∧
  (∀ (w : Warp) (lanes : Mask) (l : Lane), inMask lanes l = true →
    ((w.endLanes lanes).thread l).life = .ended ∧ ∀ k, inMask ((w.endLanes lanes).mask k) l = false)

/-- R18, R122 to R126: JOIN adds the active lanes to a mask, LEAVE removes them, WAITM makes them arrive and sleep; a
mask whose lanes have all arrived lets them go, together, and where a stop is asked they stop together past their WAITM. -/
def Claim.MaskWords : Prop :=
  ∀ (s : State) (g : PReg) (m : MReg) (k : Fin 12) (x : Exec), Issuing s (some g) x → Undisturbed x → m.toNat = k.val →
    (∃ t, exec (.join g m) s = .next t ∧ WarpDone x (fun w => w.setMask k (w.mask k ||| x.act)) t) ∧
    (∃ t, exec (.leave g m) s = .next t ∧ WarpDone x (fun w =>
      let w' := w.setMask k (w.mask k &&& ~~~x.act)
      if w.arr k ≠ 0 ∧ w'.mask k &&& ~~~w.arr k = 0 then
        ((w'.modThreads fun l t => if inMask (w.arr k) l then t.release else t).setArr k 0).stopReleased (w.arr k)
      else w') t) ∧
    (∃ t, exec (.waitm g m) s = .next t ∧ Numbered x (WarpDone x (fun w =>
      let w' := w.modThreads fun l t => if inMask x.act l then { t with
        pc := x.i.pc
        life := .asleep (sleepOn x (.mask k.val) t.ports) } else t
      let a := w.arr k ||| x.act
      if w.mask k &&& ~~~a = 0 then
        ((w'.modThreads fun l t => if inMask a l then t.release else t).setArr k 0).stopReleased a
      else w'.setArr k a)) t)

/-- R126: MSKRD gives a mask, MSKACT the active lanes, both to the mask's register; MSKWR writes a mask from the highest
active lane, without the lanes that have ended, and applies the arrival check. -/
def Claim.MaskMoves : Prop :=
  ∀ (s : State) (g : PReg) (m : MReg) (k : Fin 12) (v : VReg) (x : Exec) (out : Lane → LaneOut),
    Issuing s (some g) x → m.toNat = k.val →
    (Unhindered x [dst1 v] →
      (∀ l, inMask x.act l = true → x.put1 (past x l) v (x.w.mask k) = .ok (out l)) →
      ∃ t, exec (.mskrd g m v) s = .next t ∧ WordDone x [dst1 v] out id t) ∧
    (Unhindered x [dst1 v] → (∀ l, inMask x.act l = true → x.put1 (past x l) v x.act = .ok (out l)) →
      ∃ t, exec (.mskact g m v) s = .next t ∧ WordDone x [dst1 v] out (fun w => w.setMask k x.act) t) ∧
    (∀ (val : Lane → Word) (h : Lane), Unhindered x [src1 v] →
      (∀ l, inMask x.act l = true → x.get1 (past x l) v = .ok (val l, past x l)) → hiLane x.act = some h →
      ∃ t, exec (.mskwr g m v) s = .next t ∧ WarpDone x (fun w =>
        let w' := w.setMask k (val h &&& ~~~w.endedMask)
        if w.arr k ≠ 0 ∧ w'.mask k &&& ~~~w.arr k = 0 then
          ((w'.modThreads fun l t => if inMask (w.arr k) l then t.release else t).setArr k 0).stopReleased (w.arr k)
        else w') t)

/-- R18, R34: a word that names m12 to m15 traps with MASK_RANGE in every active lane. -/
def Claim.MaskRange : Prop :=
  ∀ (s : State) (g : PReg) (m : MReg) (x : Exec), Issuing s (some g) x → 12 ≤ m.toNat →
    exec (.join g m) s = x.trapAll { code := .maskRange } ∧
    exec (.leave g m) s = x.trapAll { code := .maskRange } ∧
    exec (.waitm g m) s = x.trapAll { code := .maskRange } ∧
    ∀ v : VReg, (∀ l, x.regCause [dst1 v] false l = none) → (∀ l, x.regCause [src1 v] false l = none) →
      exec (.mskrd g m v) s = x.trapAll { code := .maskRange } ∧
      exec (.mskact g m v) s = x.trapAll { code := .maskRange } ∧
      exec (.mskwr g m v) s = x.trapAll { code := .maskRange }

/-- R142: SHFL gives each active lane the source of the lane its index names, or its own where that lane is not active. -/
def Claim.Shuffles : Prop :=
  ∀ p ∈ shuffleWords, ∀ (s : State) (g : PReg) (d a b : VReg) (x : Exec) (val : Lane → Word × Word) (th : Lane → Thread)
    (out : Lane → LaneOut),
    Issuing s (some g) x → Unhindered x [src1 a, src1 b, dst1 d] →
    (∀ l, inMask x.act l = true → readTwo x a b l = .ok (val l, th l)) →
    (∀ l, inMask x.act l = true → ∃ v, x.put1 (th l) d v = .ok (out l) ∧
      (∀ k, p.2 l.val (val l).2.toNat = some k.val → inMask x.act k = true → v = (val k).1) ∧
      ((∀ k, p.2 l.val (val l).2.toNat = some k.val → inMask x.act k = false) → v = (val l).1)) →
    ∃ t, exec (p.1 g d a b) s = .next t ∧ WordDone x [src1 a, src1 b, dst1 d] out id t

/-- R143: VOTE compares the active lanes whose predicate holds with the active lanes. -/
def Claim.Votes : Prop :=
  (∀ p ∈ [(Instr.voteAll, fun (v act : Mask) => v == act), (Instr.voteAny, fun v _ => v != 0),
      (Instr.voteUni, fun v act => v == 0 || v == act)],
    ∀ (s : State) (g d : PReg) (n : Bool) (a : PReg) (x : Exec) (v : Mask),
      Issuing s (some g) x → Unhindered x [] →
      (∀ l, inMask v l = (inMask x.act l && ((x.w.thread l).pred a != n))) →
      ∃ t, exec (p.1 g d n a) s = .next t ∧ WordDone x [] (fun l => plainOut ((past x l).setPred d (p.2 v x.act))) id t) ∧
  (∀ (s : State) (g : PReg) (d : VReg) (n : Bool) (a : PReg) (x : Exec) (v : Mask) (out : Lane → LaneOut),
    Issuing s (some g) x → Unhindered x [dst1 d] →
    (∀ l, inMask v l = (inMask x.act l && ((x.w.thread l).pred a != n))) →
    (∀ l, inMask x.act l = true → x.put1 (past x l) d v = .ok (out l)) →
    ∃ t, exec (.voteBallot g d n a) s = .next t ∧ WordDone x [dst1 d] out id t)

/-- R144: MATCH.ANY gives each active lane the active lanes with its value; MATCH.ALL gives the active lanes where all hold
one value, else 0. -/
def Claim.Matches : Prop :=
  ∀ (s : State) (g : PReg) (d a : VReg) (wide : Bool) (x : Exec) (val : Lane → DWord) (th : Lane → Thread)
    (out : Lane → LaneOut),
    let sh := if wide then Shape.pair else Shape.one
    Issuing s (some g) x → Unhindered x [useOf sh a .src, dst1 d] →
    (∀ l, inMask x.act l = true → x.getShape sh a l (past x l) = .ok (val l, th l)) →
    ((∀ l, inMask x.act l = true → ∃ v, x.put1 (th l) d v = .ok (out l) ∧
        ∀ k, inMask v k = (inMask x.act k && val k == val l)) →
      ∃ t, exec (.matchAny g d a wide) s = .next t ∧ WordDone x [useOf sh a .src, dst1 d] out id t) ∧
    ((∀ l, inMask x.act l = true → ∃ v, x.put1 (th l) d v = .ok (out l) ∧
        ((∀ k, inMask x.act k = true → val k = val l) → v = x.act) ∧
        ((∃ k, inMask x.act k = true ∧ val k ≠ val l) → v = 0)) →
      ∃ t, exec (.matchAll g d a wide) s = .next t ∧ WordDone x [useOf sh a .src, dst1 d] out id t)

/-- R54, R55, R145, R146: REDUX gives every active lane the combination of all active lanes' sources, SCAN the one of the
lanes up to it, or of those before it. -/
def Claim.Reductions : Prop :=
  ∀ (s : State) (g : PReg) (d a : VReg) (o : ReduxOp) (x : Exec) (val : Lane → Word) (th : Lane → Thread)
    (out : Lane → LaneOut),
    Issuing s (some g) x → Unhindered x [src1 a, dst1 d] →
    (∀ l, inMask x.act l = true → x.get1 (past x l) a = .ok (val l, th l)) →
    let src := fun l => if inMask x.act l then some (val l) else none
    ((∀ l, inMask x.act l = true →
        let r := reduxValue x.i.fpMode.mode o (allLanes.map src)
        x.put1 ((th l).flag r.2) d r.1 = .ok (out l)) →
      ∃ t, exec (.redux g d a o) s = .next t ∧ WordDone x [src1 a, dst1 d] out id t) ∧
    (∀ e : Bool, (∀ l, inMask x.act l = true →
        let r := scanValue x.i.fpMode.mode o e src l
        x.put1 ((th l).flag r.2) d r.1 = .ok (out l)) →
      ∃ t, exec (.scan g d a e o) s = .next t ∧ WordDone x [src1 a, dst1 d] out id t)

/-- R145, R146: the integer operations of REDUX and SCAN fold the active lanes' values, and raise no flag. -/
def Claim.IntegerReductions : Prop :=
  ∀ p ∈ reduxFolds, ∀ (m : RMode) (src : Lane → Option Word),
    (∀ v w, src v = some w → (reduxValue m p.1 (allLanes.map src)) =
      (((allLanes.filterMap src).tail).foldl p.2 ((allLanes.filterMap src).headD 0), {})) ∧
    ∀ l w, src l = some w → scanValue m p.1 false src l =
      ((((allLanes.filter (· ≤ l)).filterMap src).tail).foldl p.2 (((allLanes.filter (· ≤ l)).filterMap src).headD 0), {})

/-- R50 to R53, R138 to R140: BXQ quantises each half warp, BXPK packs its codes, BXD gives an element's value back. -/
def Claim.BlockFormats : Prop :=
  ∀ (s : State) (g : PReg) (d a : VReg) (m : BxFmt) (x : Exec) (val : Lane → Word) (th : Lane → Thread),
    Issuing s (some g) x →
    let half := fun (l : Lane) => (allLanes.filter fun j => j.val / 16 == l.val / 16).map fun j =>
      if inMask x.act j then some (val j) else none
    (Unhindered x [src1 a, dst2 d] → (∀ l, inMask x.act l = true → x.get1 (past x l) a = .ok (val l, th l)) →
      ∀ code : Lane → Word × Flags,
      (∀ l, inMask x.act l = true → (bxQuantise (bxK m) (half l)).codes[l.val % 16]? = some (some (code l))) →
      ∃ t, exec (.bxq g d a m) s = .next t ∧ WordDone x [src1 a, dst2 d] (fun l =>
        plainOut (((th l).flag (code l).2).put2 d
          (BitVec.ofNat 32 (65536 * (l.val % 16) + (bxQuantise (bxK m) (half l)).header.toNat) ++ (code l).1))) id t) ∧
    (∀ out : Lane → LaneOut, Unhindered x [src1 a, dst1 d] →
      (∀ l, inMask x.act l = true → x.get1 (past x l) a = .ok (val l, th l)) →
      (∀ l, inMask x.act l = true → x.put1 (th l) d (if l.val % 16 < bxWords m then
        BitVec.ofNat 32 (bxPack (bxK m) (half l) / 2 ^ (32 * (l.val % 16))) else 0) = .ok (out l)) →
      ∃ t, exec (.bxpk g d a m) s = .next t ∧ WordDone x [src1 a, dst1 d] out id t) ∧
    (∀ out : Lane → LaneOut, Unhindered x [src2 a, dst1 d] →
      (∀ l, inMask x.act l = true → x.put1 (past x l) d
        (bxValue (bxK m) ((past x l).reg a) ((past x l).reg (a + 1))) = .ok (out l)) →
      ∃ t, exec (.bxd g d a m) s = .next t ∧ WordDone x [src2 a, dst1 d] out id t)

/-- R147 to R149: STRB binds a port to the descriptor in the window, STRU unbinds it, STRP reads its position, STRS sets
it. -/
def Claim.StreamPorts : Prop :=
  ∀ (s : State) (j : BitVec 2) (x : Exec), Issuing s none x →
    x.interlocked [dst1 (124 + j.setWidth 7)] = false →
    (∀ (a : VReg) (st : Lane → Stream), Unhindered x [src1 a] →
      (∀ l, inMask x.act l = true → (x.w.thread l).bound a.toNat = false ∧ portOf (past x l) j = none ∧
        Describes x ((past x l).reg a).toNat (st l)) →
      ∃ t, exec (.strb j a) s = .next t ∧
        WordDone x [src1 a] (fun l => plainOut ((past x l).setPort j.toNat (some (st l)))) id t) ∧
    (Unhindered x [] → (∀ l, inMask x.act l = true → (portOf (past x l) j).isSome = true) →
      ∃ t, exec (.stru j) s = .next t ∧ WordDone x [] (fun l => plainOut ((past x l).setPort j.toNat none)) id t) ∧
    (∀ (d : VReg) (st : Lane → Stream), Unhindered x [dst1 d] →
      (∀ l, inMask x.act l = true → portOf (past x l) j = some (st l) ∧ (x.w.thread l).bound d.toNat = false) →
      ∃ t, exec (.strp d j) s = .next t ∧ WordDone x [dst1 d] (fun l => plainOut ((past x l).setReg d (st l).pos)) id t) ∧
    (∀ (a : VReg) (st : Lane → Stream), Unhindered x [src1 a] →
      (∀ l, inMask x.act l = true → (x.w.thread l).bound a.toNat = false ∧ portOf (past x l) j = some (st l) ∧
        ((past x l).reg a).toNat ≤ (st l).count.toNat) →
      ∃ t, exec (.strs j a) s = .next t ∧ WordDone x [src1 a] (fun l =>
        plainOut ((past x l).setPort j.toNat (some { st l with pos := (past x l).reg a }))) id t)

/-- R152, R155, R158: LD and LDA put one load of each active lane in flight, at its address, and raise LDC. -/
def Claim.Loads : Prop :=
  ∀ (s : State) (g : PReg) (d b : VReg) (z : Size) (o : BitVec 5) (x : Exec) (p : Lane → Xlat),
    let uses := [src2 b, ⟨sizeShape z, d, .dst⟩]
    Issuing s (some g) x → Unhindered x uses → Unwatched x → x.w.ldc < 15 →
    (∀ l, inMask x.act l = true → checkDst x (past x l) d = .ok () ∧
      checkGlobal x (addressOf x b o (sizeBytes z) l) (sizeBytes z) .read = .ok (p l)) →
    (∀ pol, ∃ t, exec (.ld g d b z pol o) s = .next t ∧
      AccessesIssued x uses (fun l => plainOut (past x l)) true true (loadsOf x (.load pol false false) d z (addressOf x b o (sizeBytes z)) p) t) ∧
    (∀ pol sc, acqScope x pol = some sc → ∃ t, exec (.lda g d b z pol o) s = .next t ∧
      AccessesIssued x uses (fun l => plainOut (past x l)) true true
        (loadsOf x (.load (scopeLevel sc) true (sc == .sys)) d z
          (addressOf x b o (sizeBytes z)) p) t)

/-- R74, R152, R155, R158: ST puts one store of each active lane in flight, with the data of its registers, and raises STC;
of several lanes that store one byte the highest supplies it.  STRL waits for the fence of its scope first. -/
def Claim.Stores : Prop :=
  (∀ (s : State) (g : PReg) (d b : VReg) (z : Size) (o : BitVec 5) (x : Exec) (p : Lane → Xlat) (v : Lane → Nat)
    (th : Lane → Thread),
    let uses := [src2 b, ⟨sizeShape z, d, .src⟩]
    Issuing s (some g) x → Unhindered x uses → Unwatched x → x.w.stc < 15 →
    (∀ l, inMask x.act l = true → readData x (past x l) z d = .ok (v l, th l) ∧
      checkGlobal x (addressOf x b o (sizeBytes z) l) (sizeBytes z) .write = .ok (p l)) →
    (∀ pol, ∃ t, exec (.st g d b z pol o) s = .next t ∧
      AccessesIssued x uses (fun l => plainOut (th l)) false true (storesOf x (.store pol) z (addressOf x b o (sizeBytes z)) p v) t) ∧
    (∀ pol sc, acqScope x pol = some sc → Released x sc →
      ∃ t u, exec (.strl g d b z pol o) s = .next t ∧ t = fenceEffect x sc .all u ∧
        AccessesIssued x uses (fun l => plainOut (th l)) false true (storesOf x (.store (scopeLevel sc)) z
          (addressOf x b o (sizeBytes z)) p v) u)) ∧
  (∀ (ds : List Draft) (i : Nat) (d d' : Draft) (c : Host.Cell), ds[i]? = some d →
    (dropOverwritten ds)[i]? = some d' →
    (c ∈ d'.cells ↔ c ∈ d.cells ∧ ∀ j e, i < j → ds[j]? = some e → e.kind = d.kind → ∀ c' ∈ e.cells, c'.1 ≠ c.1))

/-- R159, R366: PREF, its ranges being aligned and in no forbidden peer window, changes no register: it brings lines into
the copies, and where no host line is dirty memory stays as it is; of device memory only PREF.l1 brings lines in (log 21).
DISC puts a discard of each active lane's range in flight, and DISC.l1 only drops the core's own copies. -/
def Claim.Hinted : Prop :=
  ∀ (s : State) (g : PReg) (b : VReg) (e : BitVec 2) (o : BitVec 5) (x : Exec),
    Issuing s (some g) x → Unhindered x [src2 b] → Unwatched x →
    (∀ pol, pol ≠ .str → (∀ l, inMask x.act l = true → (addressOf x b o (extentBytes e) l).toNat % extentBytes e = 0 ∧
        x.peerPref (addressOf x b o (extentBytes e) l).toNat = .ok ()) →
      ∃ t u, exec (.pref g b e pol o) s = .next t ∧
        AccessesIssued x [src2 b] (fun l => plainOut (past x l)) true false [] u ∧
        t = prefFill x b e pol o u ∧
        (pol ≠ .l1 → (∀ l k q, inMask x.act l = true → k < extentBytes e / 64 → s.translate (some x.b.core) x.b.pn x.b.ctx
          ((addressOf x b o (extentBytes e) l).toNat + 64 * k) .read = .ok q → q.mt = 0) → t = u) ∧
        ((∀ c ∈ s.copies, ∀ d ∈ c.dirty, d = false) → t = { u with copies := t.copies, leases := t.leases, free := t.free })) ∧
    (∀ p : Lane → Xlat, x.w.stc < 15 → (∀ l, inMask x.act l = true →
        checkGlobal x (addressOf x b o (extentBytes e) l) (extentBytes e) .write = .ok (p l) ∧ (p l).mt ≠ 2) →
      ∀ pol, pol ≠ .l1 → ∃ t, exec (.disc g b e pol o) s = .next t ∧
        AccessesIssued x [src2 b] (fun l => plainOut (past x l)) false true
          ((lanesIn x.act).flatMap fun l =>
            (discParts x (addressOf x b o (extentBytes e) l).toNat (extentBytes e) (p l)).map fun q =>
              { lane := l, kind := .disc pol q.2, loc := q.1, mt := (p l).mt, cls := (p l).cls
                va := addressOf x b o (extentBytes e) l, size := q.2 }) t) ∧
    (∀ (n va : Nat) (q : Xlat), n ∈ [128, 1024, 4096, 65536] → ((discParts x va n q).map (·.2)).sum = n ∧
      (discParts x va n q).head? = some (q.loc, min n 4096)) ∧
    (∀ p : Lane → Xlat, (∀ l, inMask x.act l = true →
        checkGlobal x (addressOf x b o (extentBytes e) l) (extentBytes e) .drop = .ok (p l)) →
      ∃ t u, exec (.disc g b e .l1 o) s = .next t ∧
        AccessesIssued x [src2 b] (fun l => plainOut (past x l)) false false [] u ∧
        t = { u with copies := t.copies } ∧ (∀ c ∈ t.copies, c ∈ s.copies) ∧
        (∀ c ∈ s.copies, c.place ≠ s.l1Of x.b.core → c ∈ t.copies))

/-- R31, R151, R153, R156, R265: LDL loads at once from the block's own window, STL stores there at once, where no earlier
access of the thread comes first; accesses to another slot's window go in flight. -/
def Claim.LocalWords : Prop :=
  ∀ (s : State) (g : PReg) (d b : VReg) (z : Size) (o : BitVec 5) (x : Exec) (at' : Lane → Nat × Nat)
    (th : Lane → Thread),
    Issuing s (some g) x → Unwatched x → localHold x b o z true = false →
    (∀ l, inMask x.act l = true → localAt x (past x l) b o z = .ok (th l, at' l)) →
    let far := fun (l : Lane) => (at' l).1 != x.b.bid
    let other := (lanesIn x.act).any far
    (∀ out : Lane → LaneOut, Unhindered x [src1 b, ⟨sizeShape z, d, .dst⟩] → (other = true → x.w.ldc < 15) →
      (∀ l, inMask x.act l = true → far l = false → s.winBad (at' l).1 (at' l).2 (sizeBytes z) = false ∧
        putData x (th l) z d (s.winRead (at' l).1 (at' l).2 (sizeBytes z)) = .ok (out l)) →
      (∀ l, inMask x.act l = true → far l = true → checkDst x (th l) d = .ok () ∧ out l = plainOut (th l)) →
      ∃ t, exec (.ldl g d b z .plain o) s = .next t ∧
        AccessesIssued x [src1 b, ⟨sizeShape z, d, .dst⟩] out true other
          (((lanesIn x.act).filter far).map fun l =>
            { lane := l, kind := .winLoad (at' l).1, loc := (at' l).2, mt := 4, size := sizeBytes z
              dst := some (d.toNat, (sizeShape z).regs) }) t) ∧
    (∀ (v : Lane → Nat) (th' : Lane → Thread), Unhindered x [src1 b, ⟨sizeShape z, d, .src⟩] →
      (other = true → x.w.stc < 15) →
      (∀ l, inMask x.act l = true → readData x (th l) z d = .ok (v l, th' l)) →
      let out : Lane → LaneOut := fun l =>
        ⟨th' l, if far l then [] else [((at' l).1, cellsAt (at' l).2 (sizeBytes z) (v l))]⟩
      let ds := fun fs => ((lanesIn x.act).filter far).map fun l =>
        ({ lane := l, kind := .winStore (at' l).1 fs, loc := (at' l).2, mt := 4, size := sizeBytes z
           cells := cellsAt (at' l).2 (sizeBytes z) (v l) } : Draft)
      (∃ t, exec (.stl g d b z .plain o) s = .next t ∧
        AccessesIssued x [src1 b, ⟨sizeShape z, d, .src⟩] out false other (ds false) t) ∧
      (∃ t u, exec (.stl g d b z .fs o) s = .next t ∧ t = fillOwn x b o z u ∧
        AccessesIssued x [src1 b, ⟨sizeShape z, d, .src⟩] out false other (ds true) u))

/-- R160 to R163, R358: an atomic puts one access of each active lane in flight, with its operands, and raises STC. -/
def Claim.Atomics : Prop :=
  ∀ (s : State) (g : PReg) (d a b : VReg) (x : Exec) (p : Lane → Xlat),
    Issuing s (some g) x → Unwatched x → x.w.stc < 15 →
    let at' := fun l => (past x l).get2 a
    let ready := fun op (th : Lane → Thread) => ∀ l, inMask x.act l = true → checkDst x (th l) d = .ok () ∧
      checkGlobal x ((past x l).get2 a) op.bytes .readWrite = .ok (p l) ∧ pcieCause x op ((past x l).get2 a) (p l) = none
    (∀ (v : Lane → Word) (th : Lane → Thread), Unhindered x [src2 a, src1 b, dst1 d] →
      (∀ l, inMask x.act l = true → x.get1 (past x l) b = .ok (v l, th l)) →
      (∀ q ∈ atomWords, ready q.2.1 th → ∃ t, exec (q.1 g d a b) s = .next t ∧
        AccessesIssued x [src2 a, src1 b, dst1 d] (fun l => plainOut (th l)) false true
          (atomicsOf x q.2.1 q.2.2 d 1 at' p fun l => ((v l).setWidth 128, 0)) t) ∧
      (∀ q ∈ fatomWords, ready q.2 th → x.ordered = none → ∃ t, exec (q.1 g d a b) s = .next t ∧
        AccessesIssued x [src2 a, src1 b, dst1 d] (fun l => plainOut (th l)) false true
          (atomicsOf x q.2 false d 1 at' p fun l => ((v l).setWidth 128, 0)) t)) ∧
    (∀ q ∈ [(Instr.cas, true), (Instr.cash, false)], Unhindered x [src2 a, src2 b, dst1 d] → ready .cas32 (past x) →
      ∃ t, exec (q.1 g d a b) s = .next t ∧
        AccessesIssued x [src2 a, src2 b, dst1 d] (fun l => plainOut (past x l)) false true
          (atomicsOf x .cas32 q.2 d 1 at' p fun l =>
            (((past x l).reg b).setWidth 128, ((past x l).reg (b + 1)).setWidth 128)) t) ∧
    (Unhindered x [src2 a, src4 b, dst2 d] → ready .cas64 (past x) →
      ∃ t, exec (.cash64 g d a b) s = .next t ∧
        AccessesIssued x [src2 a, src4 b, dst2 d] (fun l => plainOut (past x l)) false true
          (atomicsOf x .cas64 false d 2 at' p fun l =>
            (((past x l).get2 b).setWidth 128, ((past x l).get2 (b + 2)).setWidth 128)) t) ∧
    (Unhindered x [src2 a, ⟨.oct, b, .src⟩, dst4 d] → ready .cas128 (past x) →
      ∃ t, exec (.cas128 g d a b) s = .next t ∧
        AccessesIssued x [src2 a, ⟨.oct, b, .src⟩, dst4 d] (fun l => plainOut (past x l)) false true
          (atomicsOf x .cas128 false d 4 at' p fun l => ((past x l).get4 b, (past x l).get4 (b + 4))) t)

/-- R161 to R163: what an atomic stores, from the old value and its operands. -/
def Claim.AtomicValues : Prop :=
  (∀ q ∈ atomValues, ∀ old lo hi : BitVec 128,
    atomNew q.1 old lo hi = (q.2 (old.setWidth 32) (lo.setWidth 32)).setWidth 128) ∧
  ∀ op ∈ [AtomOp.cas32, AtomOp.cas64, AtomOp.cas128], ∀ old lo hi : BitVec 128,
    (old = lo → atomNew op old lo hi = hi) ∧ (old ≠ lo → atomNew op old lo hi = old)

/-- R58, R164, R386: an ordered FP atomic, whose entries have room in the block's area and are writable there (log 73),
appends one entry for each active lane to the launch, changes neither memory nor d, and raises the WCT to GT, the
completion time the model gives it (log 65). -/
def Claim.OrderedAtomics : Prop :=
  ∀ q ∈ fatomWords, ∀ (s : State) (g : PReg) (d a b : VReg) (x : Exec) (p : Lane → Xlat) (v : Lane → Word)
    (th : Lane → Thread) (ln : Launch),
    Issuing s (some g) x → Unhindered x [src2 a, src1 b, ⟨.one, d, .named⟩] → Unwatched x → x.w.stc < 15 → x.ordered = some ln →
    ((ln.ords.filter fun e => e.blk == x.b.blk).length + (lanesIn x.act).length) * 16 ≤ ln.ordsz →
    (∀ k < (lanesIn x.act).length, ∃ r, s.translate (some x.b.core) x.b.pn x.b.ctx (ln.ordbase.toNat + ln.ordsz * x.b.blk +
      16 * ((ln.ords.filter fun e => e.blk == x.b.blk).length + k)) .write = .ok r) →
    (∀ l, inMask x.act l = true → x.get1 (past x l) b = .ok (v l, th l) ∧
      checkGlobal x ((past x l).get2 a) 4 .readWrite = .ok (p l) ∧ pcieCause x q.2 ((past x l).get2 a) (p l) = none) →
    ∃ t u, exec (q.1 g d a b) s = .next t ∧
      WordDone x [src2 a, src1 b, ⟨.one, d, .named⟩] (fun l => plainOut (th l))
        (fun w => { w with wct := if w.wct.toNat < s.gt then BitVec.ofNat 64 s.gt else w.wct }) u ∧
      t = u.modLaunch ln.lid fun k => { k with ords := k.ords ++ (lanesIn x.act).map fun l =>
        { blk := x.b.blk, w := x.i.w, op := q.2, loc := (p l).loc, mt := (p l).mt, y := v l, die := dieOfCore x.b.core } }

/-- R165: CASC, INCC and MINC put one continuation atomic of each active lane in flight, on device memory, through a CARD
capability with LAUNCH. -/
def Claim.ContinuationAtomics : Prop :=
  ∀ q ∈ contWords, ∀ (s : State) (g : PReg) (a b : VReg) (c : Cap) (x : Exec) (p : Lane → Xlat) (e : CapEntry),
    let uses := [src2 a, src2 b, dst1 (b + 1)]
    Issuing s (some g) x → Unhindered x uses → Unwatched x → x.w.stc < 15 →
    s.capEntry x.b.pn x.b.ctx c.toNat = some e → e.type = capCard → e.perms &&& permLaunch = permLaunch →
    (∀ l, inMask x.act l = true → checkGlobal x ((past x l).get2 a) 4 .readWrite = .ok (p l) ∧ (p l).mt = 0) →
    ∃ t, exec (q.1 g a b c) s = .next t ∧
      AccessesIssued x uses (fun l => plainOut (past x l)) false true ((lanesIn x.act).map fun l =>
        { lane := l
          kind := .cont q.2 ((past x l).reg b) ((past x l).reg (b + 1)) c.toNat (s.cardRef e) x.w.wct
          loc := (p l).loc, mt := (p l).mt, cls := (p l).cls, va := (past x l).get2 a, size := 4
          dst := some ((b + 1).toNat, 1) }) t

/-- R19, R168, R169, R264: FENCE goes on once the warp's stores and loads are done at its scope, WAITC once every counter is at
or below its threshold; until then each only waits. -/
def Claim.Fences : Prop :=
  ∀ (s : State) (x : Exec), Issuing s none x → Undisturbed x →
    (∀ sc k, let done := match k with | .all => Released x sc | .stores => StoresDone x sc | .loads => LoadsDone x
      (done → ∃ t u, exec (.fence sc k) s = .next t ∧ WarpDone x id u ∧ t = fenceEffect x sc k u ∧ (sc ≠ .sys → t = u)) ∧
      (¬ done → exec (.fence sc k) s = x.hold)) ∧
    (∀ l k c m : BitVec 4,
      let done := x.w.ldc ≤ l.toNat ∧ x.w.stc ≤ k.toNat ∧ x.w.cpc ≤ c.toNat ∧ x.w.mxc ≤ m.toNat
      (done → ∃ t, exec (.waitc l k c m) s = .next t ∧ WarpDone x id t) ∧
      (¬ done → exec (.waitc l k c m) s = x.hold))

/-- R19, R72, R153: a word that may not issue yet changes nothing: no register, no counter, no byte of memory; it is
issued again. -/
def Claim.Waiting : Prop :=
  (∀ (s : State) (g : Option PReg) (x : Exec) (m : Mask), Issued s g x → ∃ t, x.holdLanes m = .next t ∧ t.issue = none ∧
    (∀ bid i, (bid, i) ≠ (x.i.bid, x.i.w) → t.warp? bid i = s.warp? bid i) ∧
    (∃ w, t.warp? x.i.bid x.i.w = some w ∧ w = { x.w with threads := w.threads } ∧
      ∀ l, w.thread l = if inMask m l then { x.w.thread l with held := true } else x.w.thread l) ∧
    { t with issue := s.issue, blocks := s.blocks } = s) ∧
  (∀ x : Exec, x.hold = x.holdLanes x.i.lanes) ∧
  (∀ (x : Exec) (uses : List RegUse), ∃ m, x.holdOn uses = x.holdLanes m ∧
    ∀ l, inMask m l = (inMask x.act l && x.waits uses l)) ∧
  (∀ p ∈ unaryWords, ∀ (s : State) (g : PReg) (d a : VReg) (x : Exec), Issuing s (some g) x →
    x.interlocked [src1 a, dst1 d] = true → exec (p.1 g d a) s = x.holdOn [src1 a, dst1 d]) ∧
  (∀ (s : State) (g : PReg) (d b : VReg) (z : Size) (pol : Pol) (o : BitVec 5) (x : Exec), Issuing s (some g) x →
    (x.interlocked [src2 b, ⟨sizeShape z, d, .dst⟩] = false → x.w.ldc = 15 → exec (.ld g d b z pol o) s = x.hold) ∧
    (x.interlocked [src2 b, ⟨sizeShape z, d, .src⟩] = false → x.w.stc = 15 → exec (.st g d b z pol o) s = x.hold))

/-- R157: LDL.fe loads in the lanes whose granule is full; the others sleep until it is; LDL.fec also leaves it empty. -/
def Claim.FullEmptyLoads : Prop :=
  ∀ (s : State) (g : PReg) (d b : VReg) (z : Size) (o : BitVec 5) (x y : Exec) (at' : Lane → Nat × Nat)
    (th : Lane → Thread) (out : Lane → LaneOut),
    let uses := [src1 b, ⟨sizeShape z, d, .dst⟩]
    let full := fun (l : Lane) => granuleFull s (at' l).1 (at' l).2
    Issuing s (some g) x → Unhindered x uses → Unwatched x → localHold x b o z false = false →
    (∀ l, inMask x.act l = true → localAt x (past x l) b o z = .ok (th l, at' l) ∧
      ((at' l).1 ≠ x.b.bid → x.w.ldc < 15)) →
    Passed x (some g) (feeder x) false ((lanesIn x.act).all full) y →
    (∀ clear : Bool,
      (∀ l, inMask x.act l = true → full l = true → s.winBad (at' l).1 (at' l).2 (sizeBytes z) = false ∧
        putData x (th l) z d (s.winRead (at' l).1 (at' l).2 (sizeBytes z)) = .ok (out l)) →
      (∀ l, inMask x.act l = true → full l = false → checkDst x (th l) d = .ok () ∧ out l = plainOut (x.putToSleep l
        (x.sleepOn (th l) (.full (at' l).1 (at' l).2 (sizeBytes z) d clear) (some (feeder x)) 64 false))) →
      ∃ t u, exec (.ldl g d b z (if clear then .fec else .fe) o) s = .next t ∧
        Numbered y (WordDone y uses out id) u ∧
        t = if clear then ((lanesIn x.act).filter full).foldl (fun s l => s.setEmpty (at' l).1 ((at' l).2 / 16)) u else u)

/-- R166, R167: RLOCK and WLOCK take the lock where its condition holds, in one step; otherwise every active lane sleeps,
a writer counted in WQ while that has room. -/
def Claim.Locks : Prop :=
  ∀ write : Bool, ∀ (s : State) (g : PReg) (c : Cap) (x y : Exec) (e : CapEntry) (loc : Nat) (t : Target),
    let iss := if write then Instr.wlock g c else Instr.rlock g c
    let may := permAll permPromote e.perms && !x.i.noPromote
    Issuing s (some g) x → Unhindered x [] → Unwatched x →
    x.cap c [capLock] (x.lockWait c) (permAll (permWait ||| permRecv)) = .ok (e, loc, t) →
    x.mustHold loc 8 true = false → Passed x (some g) t may (lockFree write (s.load loc 8)) y →
    let v := y.s.load loc 8
    (lockFree write v = true → ∃ r u, exec iss s = .next r ∧ WordDone y [] (fun l => plainOut (past y l)) id u ∧
      r = u.storeHome y.b.core loc 8 (if write then v % 2 ^ 32 + 2 ^ 32 * (y.b.blk % 2 ^ 24) + 2 ^ 63 else v + 1)) ∧
    (lockFree write v = false →
      let counted := write && decide (lockWq v < 255) && y.w.stop == .none
      ∃ r u, exec iss s = .next r ∧ Numbered y (WordDone y [] (fun l =>
        plainOut (y.putToSleep l (y.sleepOn (y.w.thread l) (.lock loc write counted) (some t) c.toNat may))) id) u ∧
        r = if counted then u.storeHome y.b.core loc 8 (v + 2 ^ 24) else u)

/-- R166: the lock conditions: no reserved bit, no writer; for a reader no writer waiting and room for one more; for a
writer no reader. -/
def Claim.LockConditions : Prop :=
  ∀ v : Nat, v < 2 ^ 64 →
    (lockFree false v = true ↔ v / 2 ^ 56 = 0 ∧ v / 2 ^ 24 % 2 ^ 8 = 0 ∧ v % 2 ^ 24 < 2 ^ 24 - 1) ∧
    (lockFree true v = true ↔ v / 2 ^ 56 = 0 ∧ v % 2 ^ 24 = 0)

/-- R167: RUNLK lowers the reader count and WUNLK clears the writer and its owner, once the fence is over; RTRY and WTRY
give 1 and take the lock where its condition holds, else 0. -/
def Claim.Unlocks : Prop :=
  ∀ (s : State) (g : PReg) (c : Cap) (x : Exec) (e : CapEntry) (loc : Nat), Issuing s (some g) x →
    Unwatched x → x.mustHold loc 8 true = false →
    let v := s.load loc 8
    (Unhindered x [] → x.cap c [capLock] (x.lockObj c) (permAll permSend) = .ok (e, loc) → Released x .dev →
      (v % 2 ^ 24 ≠ 0 → ∃ t u, exec (.runlk g c) s = .next t ∧ WordDone x [] (fun l => plainOut (past x l)) id u ∧
        t = (u.storeHome x.b.core loc 8 (v - 1)).settleLocks) ∧
      (lockWh v = true → lockOwner v = x.b.blk % 2 ^ 24 →
        ∃ t u, exec (.wunlk g c) s = .next t ∧ WordDone x [] (fun l => plainOut (past x l)) id u ∧
          t = (u.storeHome x.b.core loc 8 (v % 2 ^ 32)).settleLocks) ∧
      (v % 2 ^ 24 = 0 → exec (.runlk g c) s = x.trapAll (capBad .capPerm c)) ∧
      (¬ (lockWh v = true ∧ lockOwner v = x.b.blk % 2 ^ 24) → exec (.wunlk g c) s = x.trapAll (capBad .capPerm c))) ∧
    (∀ (d : VReg) (write : Bool) (out : Lane → LaneOut), Unhindered x [dst1 d] →
      x.cap c [capLock] (x.lockObj c) (permAll permRecv) = .ok (e, loc) →
      (∀ l, inMask x.act l = true → x.put1 (past x l) d (if lockFree write v then 1 else 0) = .ok (out l)) →
      ∃ t u, exec (if write then .wtry g d c else .rtry g d c) s = .next t ∧ WordDone x [dst1 d] out id u ∧
        t = if lockFree write v then u.storeHome x.b.core loc 8 (lockTaken write false x.b.blk v)
          else u.readHome x.b.core loc 8)

/-- R171: WAITF lets a lane go on whose word meets the condition at its home, and puts every other active lane to sleep. -/
def Claim.FlagWaits : Prop :=
  ∀ (s : State) (g : PReg) (a b : VReg) (c : Cap) (np : Bool) (k : WaitCond) (x y : Exec) (e : CapEntry) (t : Target)
    (w : Lane → Watch),
    let may := permAll permPromote e.perms && !np
    Issuing s (some g) x → Unhindered x [src2 a, src1 b] → Unwatched x →
    x.cap c targetTypes (x.target c) (permAll permWait) = .ok (e, t) →
    (∀ l, inMask x.act l = true → watchLane x a b l = .ok (w l) ∧ x.mustHold (w l).p.loc 4 false = false) →
    Passed x (some g) t may ((lanesIn x.act).any fun l => meets s k (w l)) y →
    let z := y.inState (readAtHome y w y.s)
    Issued z.s (some g) z →
    ∃ r u, exec (.waitf g a b c np k) s = .next r ∧
      Numbered z (WordDone z [src2 a, src1 b] (fun l => plainOut (if meets z.s k (w l) then (w l).t
        else z.putToSleep l (z.sleepOn (w l).t (.waitf (w l).p.loc (w l).p.mt k (w l).y) (some t) c.toNat may))) id) u ∧
      r = acquireFor z.b.core z.b.pn z.b.ctx ((lanesIn x.act).any fun l => meets z.s k (w l) && (w l).p.mt != 0) u

/-- R171, R359: POLL reads the words once: each active lane gets its word in b + 1 and p0, and the backoff count falls to 0
or rises by 1 up to 7; of a word that cannot be reached both are free values. -/
def Claim.Polls : Prop :=
  (∀ (s : State) (g : PReg) (a b : VReg) (c : Cap) (np : Bool) (k : WaitCond) (x y : Exec) (e : CapEntry) (t : Target)
    (w : Lane → Watch),
    let uses := [src2 a, ⟨.pair, b, .dst⟩, src1 b]
    Issuing s (some g) x → Unhindered x uses → Unwatched x →
    x.cap c targetTypes (x.target c) (permAll permWait) = .ok (e, t) →
    (∀ l, inMask x.act l = true → watchLane x a b l = .ok (w l) ∧ x.mustHold (w l).p.loc 4 false = false) →
    Passed x (some g) t (permAll permPromote e.perms && !np)
      ((lanesIn x.act).any fun l => meets s k (w l)) y →
    let z := y.inState (readAtHome y w y.s)
    Issued z.s (some g) z → (∀ l, inMask x.act l = true → z.s.reachable (w l).p.loc = true) →
    let hit := (lanesIn x.act).any fun l => condHolds k (z.s.homeWord (w l).p.loc) (w l).y
    ∃ r u, exec (.poll g a b c np k) s = .next r ∧
      WordDone z uses (fun l =>
          plainOut (((w l).t.setReg (b + 1) (z.s.homeWord (w l).p.loc)).setPred 0
            (condHolds k (z.s.homeWord (w l).p.loc) (w l).y)))
        (fun w => { w with backoff := if hit then 0 else min (w.backoff + 1) 7 }) u ∧
      r = acquireFor z.b.core z.b.pn z.b.ctx
        ((lanesIn x.act).any fun l => condHolds k (z.s.homeWord (w l).p.loc) (w l).y && (w l).p.mt != 0) u) ∧
  (∀ (k : WaitCond) (b : VReg) (s : State) (w : Watch), s.reachable w.p.loc = false →
    let r := pollLane k b s w
    r.1 = { s with free := s.free + 1 }.failedAt w.p.loc ∧
    r.2.1 = (w.t.setReg (b + 1) ((Config.freeBits s.free).setWidth 32)).setPred 0 ((Config.freeBits s.free).getLsbD 127))

/-- R172, R173, R256: BARA and BARX arrive once for the warp and give every active lane the phase; BARST gives status and
phase; an arrival past X traps, and raises OVRC. -/
def Claim.BarrierArrivals : Prop :=
  ∀ (s : State) (g : PReg) (d a : VReg) (c : Cap) (x : Exec) (e : CapEntry) (t : Target) (h : Lane),
    Issuing s (some g) x → hiLane x.act = some h →
    let v := x.w.lane2 h a
    let r := barRefOf t (v.toNat % 16)
    (∀ many : Bool, UnhinderedOnce x [src2 a, dst1 d] →
      x.cap c [capGroup, capBlock] (x.target c) (permAll permSend) = .ok (e, t) → Released x (barScope t) →
      let n := if many then v.toNat / 2 ^ 32 else 1
      let iss := if many then Instr.barx g d a c else Instr.bara g d a c
      (∀ out : Lane → LaneOut, (s.barOf r).arrived + n ≤ (s.barOf r).x →
        (∀ l, inMask x.act l = true → x.put1 (past x l) d (s.barOf r).phase = .ok (out l)) →
        ∃ k u, exec iss s = .next k ∧ WordDone x [dst1 d] out id u ∧ u.arrive r n = some k) ∧
      ((s.barOf r).x < (s.barOf r).arrived + n →
        exec iss s = ({ x with s := s.overrun r } : Exec).trapAll { code := .barrierOverrun })) ∧
    (UnhinderedOnce x [src2 a, dst2 d] →
      x.cap c [capGroup, capBlock] (x.target c) (permAny (permSend ||| permWait)) = .ok (e, t) →
      ∃ k, exec (.barst g d a c) s = .next k ∧ WordDone x [dst2 d] (fun l =>
        plainOut ((past x l).put2 d ((s.barOf r).phase ++ BitVec.ofNat 32 (2 ^ 24 * (s.barOf r).ovrc + (s.barOf r).mxst)))) id k)

/-- R172: arrivals below X only count; the one that reaches X opens the next phase at zero arrivals. -/
def Claim.BarrierPhases : Prop :=
  ∀ (s t : State) (r : BarRef) (n : Nat), s.arrive r n = some t → 0 < n →
    let b := s.barOf r
    b.arrived + n ≤ b.x ∧
    (b.arrived + n < b.x → t.barOf r = { b with arrived := b.arrived + n }) ∧
    (b.arrived + n = b.x → t.barOf r = { b with arrived := 0, phase := b.phase + 1 }) ∧
    ∀ q, q ≠ r → t.barOf q = s.barOf q

/-- R173: BARW lets the warp go on where the phase it names has passed, else its lanes sleep; BARAW and BARXW arrive once,
then wait for the phase they arrived in to pass. -/
def Claim.BarrierWaits : Prop :=
  ∀ (s : State) (g : PReg) (d a : VReg) (c : Cap) (x y : Exec) (e : CapEntry) (t : Target) (h : Lane),
    let uses := [src2 a, dst1 d]
    Issuing s (some g) x → UnhinderedOnce x uses → Unwatched x → hiLane x.act = some h →
    let v := x.w.lane2 h a
    let r := barRefOf t (v.toNat % 16)
    let may := permAll permPromote e.perms
    (∀ out : Lane → LaneOut, x.cap c [capGroup, capBlock] (x.target c) (permAll permWait) = .ok (e, t) →
      let p := BitVec.ofNat 32 (v.toNat / 2 ^ 32)
      Passed x (some g) t may ((s.barOf r).phase != p) y →
      laneCauses (barLanes x d t c may r false fun _ => p) = [] →
      ((y.s.barOf r).phase ≠ p →
        (∀ l, inMask x.act l = true → y.put1 (past y l) d (y.s.barOf r).status = .ok (out l)) →
        ∃ k, exec (.barw g d a c) s = .next k ∧ Numbered y (WordDone y [dst1 d] out id) k) ∧
      ((y.s.barOf r).phase = p → ∃ k, exec (.barw g d a c) s = .next k ∧ Numbered y (WordDone y [dst1 d] (fun l =>
        plainOut { y.putToSleep l (y.sleepOn (y.w.thread l) (.bar r p d) (some t) c.toNat may) with kept := none }) id) k)) ∧
    (∀ many : Bool, x.cap c [capGroup, capBlock] (x.target c) (permAll (permSend ||| permWait)) = .ok (e, t) →
      (∀ l, inMask x.act l = true → (x.w.thread l).kept = none) → Released x (barScope t) →
      Passed x (some g) t may false y →
      let n := if many then v.toNat / 2 ^ 32 else 1
      ∀ s1, y.s.arrive r n = some s1 →
      let z := y.inState s1
      Issued s1 (some g) z →
      let iss := if many then Instr.barxw g d a c else Instr.baraw g d a c
      ((s1.barOf r).phase = (s.barOf r).phase → ∃ k, exec iss s = .next k ∧
        Numbered z (WordDone z [dst1 d] (fun l => plainOut { z.putToSleep l
          (z.sleepOn (z.w.thread l) (.bar r (s.barOf r).phase d) (some t) c.toNat may) with
            kept := some (r, (s.barOf r).phase) }) id) k) ∧
      (∀ out : Lane → LaneOut, (s1.barOf r).phase ≠ (s.barOf r).phase →
        (∀ l, inMask x.act l = true → z.put1 (past z l) d (s1.barOf r).status = .ok (out l)) →
        ∃ k, exec iss s = .next k ∧ Numbered z (WordDone z [dst1 d] out id) k))

/-- R174, R175: ENQ and ENQT append one element for each active lane while there is room, in lane order, with its ready
time, give 1 to the lanes served and 0 to the others, and spend send allowance. -/
def Claim.Enqueues : Prop :=
  ∀ timed : Bool, ∀ (s : State) (g : PReg) (d a : VReg) (c : Cap) (x : Exec) (e : CapEntry) (q : QueueHdr)
    (slots : List Nat) (out : Lane → LaneOut),
    let uses := [⟨if timed then .quad else .pair, a, .src⟩, dst1 d]
    let lanes := lanesIn x.act
    Issuing s (some g) x → Unhindered x uses → Unwatched x →
    x.cap c [capQueue] (x.queueObj c .readWrite (·.tail) fun q => min lanes.length (q.cap - q.len)) (permAll permSend) =
      .ok (e, q, slots) →
    (e.allow = 0xFFFFFFFF ∨ lanes.length ≤ e.allow.toNat) →
    x.mustHold q.loc 32 true = false → (∀ l ∈ slots, x.mustHold l 16 true = false) →
    (∀ l, inMask x.act l = true →
      x.put1 (past x l) d (if (lanes.take slots.length).contains l then 1 else 0) = .ok (out l)) →
    ∃ t u, exec (if timed then .enqt g d a c else .enq g d a c) s = .next t ∧ WordDone x uses out id u ∧
      t = ((enqStore x.b.core u ((lanes.zip slots).map fun p => (p.2, (x.w.thread p.1).get2 a,
            max x.w.wct.toNat (if timed then ((x.w.thread p.1).get2 (a + 2)).toNat else 0)))).storeHome
          x.b.core (q.loc + 24) 8 ((q.tail + slots.length) % 2 ^ 64)).spend x.b.pn x.b.ctx c.toNat slots.length

/-- R174, R175: DEQ and DEQT give the ready elements at the head to the active lanes in lane order; a lane left without
one returns where its deadline has passed, else sleeps; QLEN gives the length. -/
def Claim.Dequeues : Prop :=
  (∀ (s : State) (g : PReg) (d : VReg) (a : Option VReg) (c : Cap) (x y : Exec) (e : CapEntry) (q : QueueHdr)
    (slots : List Nat),
    let uses := ⟨if a.isSome then .quad else .pair, d, .dst⟩ :: (a.elim [] fun a => [src2 a])
    let lanes := lanesIn x.act
    let elems := readyElems s slots
    let may := permAll permPromote e.perms
    Issuing s (some g) x → Unhindered x uses → Unwatched x →
    x.cap c [capQueue] (x.queueObj c .readWrite (·.head) fun q => min lanes.length q.len)
      (permAll (permRecv ||| permWait)) = .ok (e, q, slots) →
    x.mustHold q.loc 32 true = false → (∀ l ∈ slots, x.mustHold l 16 false = false ∧ s.badAt l 16 = false) →
    Passed x (some g) (.queue e.pclass) may (decide (lanes.length ≤ elems.length)) y →
    let given := fun (l : Lane) => ((lanes.zip elems).find? fun p => p.1 == l).map (·.2)
    let deadline := fun (l : Lane) => a.map fun a => (x.w.thread l).get2 a
    let late := fun (l : Lane) => (deadline l).elim false fun t => decide (t.toNat ≤ s.gt)
    ∃ t u, exec (match a with | none => .deq g d c | some a => .deqt g d a c) s = .next t ∧
      Numbered y (WordDone y uses (fun l => plainOut (if (given l).isSome ∨ late l then deqPut a.isSome d (given l) (past y l)
        else y.putToSleep l (y.sleepOn (y.w.thread l) (.deq q.loc d (deadline l)) (some (.queue e.pclass)) c.toNat may))) id) u ∧
      t = ((slots.take elems.length).foldl (fun s l => s.readHome y.b.core l 16) u).storeHome y.b.core (q.loc + 16) 8 ((q.head + min elems.length lanes.length) % 2 ^ 64)) ∧
  (∀ (s : State) (g : PReg) (d : VReg) (c : Cap) (x : Exec) (e : CapEntry) (q : QueueHdr) (slots : List Nat)
    (out : Lane → LaneOut),
    Issuing s (some g) x → Unhindered x [dst1 d] → Unwatched x →
    x.cap c [capQueue] (x.queueObj c .read (·.head) fun _ => 0) (permAny (permSend ||| permRecv)) = .ok (e, q, slots) →
    x.mustHold q.loc 32 false = false →
    (∀ l, inMask x.act l = true → x.put1 (past x l) d (BitVec.ofNat 32 (min q.len (2 ^ 32 - 1))) = .ok (out l)) →
    ∃ t, exec (.qlen g d c) s = .next t ∧ WordDone x [dst1 d] out id t)

/-- R34, R170, R171, R248 to R250: a checked word whose class check fails traps with PROGRESS in every active lane, names its
capability and has no effect: no lane sleeps, no lock is taken, no arrival made. The check fails where the target has retired
and the condition does not hold (3), or is of a lower class and may not be promoted (1) or finds no room (2); a lane asleep
whose check, made again for a promoted block, fails traps likewise. -/
def Claim.FailedChecks : Prop :=
  (∀ (s : State) (g : PReg) (c : Cap) (x : Exec) (l : Lane) (sub : Byte), Issuing s (some g) x → lowLane x.act = some l →
    let fails := fun (t : Target) (may met : Bool) => s.waitCheck x.b t may met = .error sub
    let trap := fun (cap : Word) =>
      s.takeTrap x.i x.b x.w { code := .progress, sub := sub, detail := cap } l.val x.act
    let named := trap (c.setWidth 32)
    (∀ (write : Bool) (e : CapEntry) (loc : Nat) (t : Target), Unhindered x [] →
      x.cap c [capLock] (x.lockWait c) (permAll (permWait ||| permRecv)) = .ok (e, loc, t) → x.mustHold loc 8 true = false →
      fails t (permAll permPromote e.perms && !x.i.noPromote) (lockFree write (s.load loc 8)) →
      exec (if write then .wlock g c else .rlock g c) s = .next named) ∧
    (∀ (a b : VReg) (np poll : Bool) (k : WaitCond) (e : CapEntry) (t : Target) (w : Lane → Watch),
      Unhindered x (if poll then [src2 a, ⟨.pair, b, .dst⟩, src1 b] else [src2 a, src1 b]) →
      x.cap c targetTypes (x.target c) (permAll permWait) = .ok (e, t) →
      (∀ l, inMask x.act l = true → watchLane x a b l = .ok (w l) ∧ x.mustHold (w l).p.loc 4 false = false) →
      fails t (permAll permPromote e.perms && !np) ((lanesIn x.act).any fun l => meets s k (w l)) →
      exec (if poll then .poll g a b c np k else .waitf g a b c np k) s = .next named) ∧
    (∀ (d a : VReg) (e : CapEntry) (t : Target) (h : Lane), UnhinderedOnce x [src2 a, dst1 d] → hiLane x.act = some h →
      let v := x.w.lane2 h a
      let r := barRefOf t (v.toNat % 16)
      let p : Word := BitVec.ofNat 32 (v.toNat / 2 ^ 32)
      let may := permAll permPromote e.perms
      (x.cap c [capGroup, capBlock] (x.target c) (permAll permWait) = .ok (e, t) →
        laneCauses (barLanes x d t c may r false fun _ => p) = [] → fails t may ((s.barOf r).phase != p) →
        exec (.barw g d a c) s = .next named) ∧
      (x.cap c [capGroup, capBlock] (x.target c) (permAll (permSend ||| permWait)) = .ok (e, t) →
        (∀ l, inMask x.act l = true → (x.w.thread l).kept = none) → Released x (barScope t) → fails t may false →
        exec (.baraw g d a c) s = .next named ∧ exec (.barxw g d a c) s = .next named)) ∧
    (∀ (d : VReg) (a : Option VReg) (e : CapEntry) (q : QueueHdr) (slots : List Nat),
      Unhindered x (⟨if a.isSome then .quad else .pair, d, .dst⟩ :: (a.elim [] fun a => [src2 a])) →
      x.cap c [capQueue] (x.queueObj c .readWrite (·.head) fun q => min (lanesIn x.act).length q.len)
        (permAll (permRecv ||| permWait)) = .ok (e, q, slots) →
      x.mustHold q.loc 32 true = false → (∀ l ∈ slots, x.mustHold l 16 false = false ∧ s.badAt l 16 = false) →
      fails (.queue e.pclass) (permAll permPromote e.perms) (decide ((lanesIn x.act).length ≤ (readyElems s slots).length)) →
      exec (match a with | none => .deq g d c | some a => .deqt g d a c) s = .next named) ∧
    (∀ (d b : VReg) (z : Size) (o : BitVec 5) (clear : Bool) (at' : Lane → Nat × Nat) (th : Lane → Thread),
      let full := fun (l : Lane) => granuleFull s (at' l).1 (at' l).2
      Unhindered x [src1 b, ⟨sizeShape z, d, .dst⟩] → localHold x b o z false = false →
      (∀ l, inMask x.act l = true → localAt x (past x l) b o z = .ok (th l, at' l) ∧ ((at' l).1 ≠ x.b.bid → x.w.ldc < 15) ∧
        (full l = true → s.winBad (at' l).1 (at' l).2 (sizeBytes z) = false ∧
          ∃ out, putData x (th l) z d (s.winRead (at' l).1 (at' l).2 (sizeBytes z)) = .ok out) ∧
        (full l = false → checkDst x (th l) d = .ok ())) →
      fails (feeder x) false ((lanesIn x.act).all full) →
      exec (.ldl g d b z (if clear then .fec else .fe) o) s = .next (trap 0xFFFFFFFF))) ∧
  (∀ (s : State) (b : Block) (t : Target) (may met : Bool) (sub : Byte), s.waitCheck b t may met = .error sub ↔
    (s.retiredT t = true ∧ met = false ∧ sub = 3) ∨ (s.retiredT t = false ∧ s.checkClass t b.cls may = .error sub)) ∧
  (∀ (s : State) (t : Target) (wc : Nat) (may : Bool) (sub : Byte), s.checkClass t wc may = .error sub ↔
    s.classT t < wc ∧ (((may = false ∨ ∃ k, t = .queue k) ∧ sub = 1) ∨ (may = true ∧ (∀ k, t ≠ .queue k) ∧
      ∃ l ks, s.homeless t wc = some (l, ks) ∧ s.redecide.makeRoom l ks = none ∧ sub = 2))) ∧
  ∀ (s : State) (wc : Nat) (g : SleepGroup) (t : Target) (sub : Byte), g.z.target = some t →
    ((s.retiredT t = true ∧ s.condMet g = false ∧ sub = 3) ∨
      (s.retiredT t = false ∧ s.checkClass t wc g.z.canPromote = .error sub)) →
    s.recheckGroup wc g = (s.trapSleepers g .progress sub, [])

/-- R120, R375: BKPT and TRAP trap in every active lane, with their immediate as the detail; a BKPT raises the events of
the breakpoints on it first. -/
def Claim.SoftwareTraps : Prop :=
  ∀ (s : State) (g : PReg) (i : BitVec 12) (x : Exec) (l : Lane), Issuing s (some g) x → lowLane x.act = some l →
    x.hardCauses = [] →
    exec (.bkpt g i) s = .next ((s.dbgEvents x.b.pn x.b.ctx x.b.bid (x.bpHits.map (·.1))).takeTrap x.i x.b x.w
      { code := .bkpt, detail := BitVec.ofInt 32 (x.i.imm i false) } l.val x.act) ∧
    exec (.trap g i) s = .next (s.takeTrap x.i x.b x.w
      { code := .swtrap, detail := BitVec.ofInt 32 (x.i.imm i false) } l.val x.act)

/-- R68 to R71, R81: a word that is no instruction traps with ILLEGAL in its active lanes, and a misused hint in all
issued lanes; without an active lane the word is a no-op. -/
def Claim.IllegalWords : Prop :=
  ∀ (s : State) (w : Word) (x : Exec) (l : Lane),
    Issued s (if guardedMajor (majorOf w).toNat then some (guardField w) else none) x →
    (x.i.misuse = true → lowLane x.i.lanes = some l → exec (.illegalWord w) s = .next (s.takeTrap x.i x.b x.w
      { code := .illegal, sub := 2 } l.val x.i.lanes)) ∧
    (x.i.misuse = false → majorOf w ≠ 0x3F → lowLane x.act = some l → exec (.illegalWord w) s = .next (s.takeTrap x.i x.b x.w
      { code := .illegal, sub := illegalSub w } l.val x.act)) ∧
    (x.i.misuse = false → majorOf w ≠ 0x3F → x.act = 0 → x.hardCauses = [] →
      ∃ t, exec (.illegalWord w) s = .next t ∧ WarpDone x id t)

/-- R67, R69: a hint joins the word after it; a hint after a hint is a misuse. -/
def Claim.Hints : Prop :=
  ∀ h ∈ [fun p _ _ _ _ _ _ => Instr.himm p, fun _ n p _ _ _ _ => Instr.hgrd n p, fun _ n _ z r _ _ => Instr.hfmd n z r,
      fun _ n _ _ _ sc al => Instr.hpol n sc al, fun p _ _ _ _ _ _ => Instr.hsch p, fun _ n p _ _ _ _ => Instr.hprd n p],
    ∀ (p : BitVec 22) (n : Bool) (q : PReg) (z : Bool) (r : RMode) (sc : Option Scope) (al : Alloc) (s : State) (x : Exec)
      (l : Lane), Issued s none x → lowLane x.act = some l →
      (x.i.hint = none → exec (h p n q z r sc al) s = .next { s with issue := some { x.i with hint := some x.i.word } }) ∧
      (x.i.hint ≠ none → exec (h p n q z r sc al) s = .next (s.takeTrap x.i x.b x.w
        { code := .illegal, sub := 2 } l.val x.act))

/-- R34, R347 to R349: a trap of a task warp changes no register, parks the warp on its word with the record of R348, and
delivers the record: to its quad's handler where HANDLER.EN is set, else to the fault log. -/
def Claim.TrapEntry : Prop :=
  ∀ (s : State) (g : Option PReg) (x : Exec) (c : Cause) (lane : Nat) (lanes : Mask), Issued s g x → x.b.kind = .task →
    Untriggered s x.b.pn x.b.ctx →
    let r : TrapRecord :=
      { code := c.code.num, sub := c.sub, kind := 0, lane := BitVec.ofNat 8 lane, handle := handleOf x.b x.w, pc := x.i.pc
        addr := c.addr, detail := c.detail, lanes := lanes, gt := BitVec.ofNat 64 s.gt, word := x.i.word
        hint := x.i.hint.getD 0, blk := BitVec.ofNat 32 (x.b.blk % 2 ^ 24), kern := kernOf s x.b }
    let t := s.takeTrap x.i x.b x.w c lane lanes
    t.issue = none ∧
    (∃ w, t.warp? x.i.bid x.i.w = some w ∧ w.parked = some ⟨x.i.lanes, x.i.len, r⟩ ∧
      (∀ l, (w.thread l).pc = (x.w.thread l).pc ∧ (w.thread l).v = (x.w.thread l).v ∧ (w.thread l).p = (x.w.thread l).p) ∧
      w.w = x.w.w ∧ w.m = x.w.m) ∧
    (s.handlerOn x.b.pn = true → t.records = s.records ++ [(x.b.core, x.w.slot / 16, r)] ∧
      ∀ a, memRead t.mem a = memRead s.mem a) ∧
    (s.handlerOn x.b.pn = false → t.records = s.records)

/-- R34: of several conditions the trap reported is the first of the table of R34, in the lowest lane that meets it; the
record's lanes are those that meet it. -/
def Claim.TrapPriority : Prop :=
  (∀ (cs : List (Lane × Cause)) (l : Lane) (c : Cause), firstCause cs = some (l, c) →
    (l, c) ∈ cs ∧ (∀ e ∈ cs, c.code.rank ≤ e.2.code.rank) ∧
    ∀ (i j : Nat) (e : Lane × Cause), cs[i]? = some (l, c) → (∀ k, k < i → cs[k]? ≠ some (l, c)) →
      cs[j]? = some e → e.2.code.rank = c.code.rank → i ≤ j) ∧
  (∀ (x : Exec) (cs : List (Lane × Cause)) (ts : List Touch) (k : Result) (l : Lane) (c : Cause),
    firstCause (x.allCauses cs) = some (l, c) →
    let s := if c.code = .bkpt ∨ c.code = .watchpt then x.s.dbgEvents x.b.pn x.b.ctx x.b.bid (x.debugEvents ts) else x.s
    ∃ lanes, x.orTrap cs ts k = .next (s.takeTrap x.i x.b x.w c l.val lanes) ∧
      ∀ j, inMask lanes j = true ↔ ∃ e ∈ x.allCauses cs, e.1 = j ∧ e.2.code = c.code) ∧
  (∀ (x : Exec) (cs : List (Lane × Cause)) (e : Lane × Cause), e ∈ x.allCauses cs ↔ e ∈ cs ∨ e ∈ x.hardCauses) ∧
  ([TrapCode.illegal, .priv, .regRange, .maskRange, .capInvalid, .capPerm, .copyRights, .stream, .memAlign, .xlate, .memPerm,
    .copyRange, .seq, .ecc, .progress, .barrierOverrun, .bkpt, .watchpt].map TrapCode.rank).Pairwise (· < ·)

/-- R14, R34, R70: of a word on three register pairs, a misaligned pair traps with ILLEGAL, sub-code 3, and a first register
past the allocation with REG_RANGE; of a global load or store of 8 or 16 bytes, a misaligned pair or quad traps with ILLEGAL,
sub-code 3; no lane has an effect. -/
def Claim.RegisterTraps : Prop :=
  (∀ (s : State) (g : PReg) (d b : VReg) (z : Size) (pol : Pol) (o : BitVec 5) (x : Exec) (l : Lane),
    Issuing s (some g) x → lowLane x.act = some l →
    (z = .b64 ∧ d.toNat % 2 = 1 ∨ z = .b128 ∧ d.toNat % 4 ≠ 0 ∨ b.toNat % 2 = 1) →
    let r := s.takeTrap x.i x.b x.w { code := .illegal, sub := 3 } l.val x.act
    (x.interlocked [src2 b, ⟨sizeShape z, d, .dst⟩] = false → x.w.ldc < 15 → exec (.ld g d b z pol o) s = .next r) ∧
    (x.interlocked [src2 b, ⟨sizeShape z, d, .src⟩] = false → x.w.stc < 15 → exec (.st g d b z pol o) s = .next r)) ∧
  ∀ p ∈ pairWords, ∀ (s : State) (g : PReg) (d a b : VReg) (x : Exec) (l : Lane),
    Issuing s (some g) x → x.interlocked [src2 a, src2 b, dst2 d] = false → lowLane x.act = some l →
    ((d.toNat % 2 = 1 ∨ a.toNat % 2 = 1 ∨ b.toNat % 2 = 1) → exec (p.1 g d a b) s = .next (s.takeTrap x.i x.b x.w
      { code := .illegal, sub := 3 } l.val x.act)) ∧
    (d.toNat % 2 = 0 → a.toNat % 2 = 0 → b.toNat % 2 = 0 → x.w.alloc ≤ d.toNat →
      (∀ l, (x.w.thread l).bound d.toNat = false) → exec (p.1 g d a b) s = .next (s.takeTrap x.i x.b x.w
      { code := .regRange } l.val x.act))

/-- R29, R82, R111, R121, R195: a SYS word below its level, WRS of another register than sr.fpflags, and ERET at task
level trap with PRIV. -/
def Claim.PrivilegeTraps : Prop :=
  (∀ (s : State) (d a b : VReg) (x : Exec) (l : Lane), Issuing s none x → lowLane x.act = some l →
    let priv := Host.Outcome.next (s.takeTrap x.i x.b x.w { code := .priv } l.val x.act)
    (x.w.level = 0 →
      (x.interlocked [src1 a, src1 b, dst1 d] = false → exec (.rdwr d a b) s = priv) ∧
      (x.onceLocked [src1 a, src1 b, dst1 d] = false → exec (.step d a b) s = priv) ∧
      (x.interlocked [src1 a, src1 b, src1 d] = false → exec (.wrwr d a b) s = priv) ∧
      (x.onceLocked [src1 a] = false → exec (.haltw a) s = priv) ∧
      (x.onceLocked [src1 a, src1 b] = false → exec (.resw a b) s = priv ∧ exec (.capw a b) s = priv) ∧
      (a.toNat % 2 = 0 → x.onceLocked [src2 a, src1 b] = false → exec (.tlbinv a b) s = priv) ∧
      (a.toNat % 2 = 0 → x.onceLocked [src2 a, src1 b, dst1 d] = false → exec (.grpw d a b) s = priv) ∧
      (∀ i, csrRow i.toNat ≠ none → x.onceLocked [dst1 d] = false → exec (.csrr d i) s = priv) ∧
      (∀ i, csrRow i.toNat ≠ none → x.onceLocked [src1 d] = false → exec (.csrw d i) s = priv)) ∧
    (x.w.level < 2 → x.onceLocked [src1 a, dst1 d] = false → exec (.qsc d a) s = priv) ∧
    (∀ k : BitVec 7, k.toNat < 20 → k ≠ 13 → x.interlocked [src1 a] = false → exec (.wrs k a) s = priv)) ∧
  (∀ (s : State) (g : PReg) (x : Exec) (l : Lane), Issuing s (some g) x → lowLane x.act = some l → x.himmMisuse = false →
    x.w.level = 0 → exec (.eret g) s = .next (s.takeTrap x.i x.b x.w { code := .priv } l.val x.act))

/-- R6, R196: CSRR gives every issued lane the register, a write-only one as zero; CSRW writes the highest issued lane's
value to it, once. -/
def Claim.ControlWords : Prop :=
  ∀ (s : State) (d : VReg) (i : BitVec 14) (r : CsrRow) (x : Exec), Issuing s none x → csrRow i.toNat = some r →
    s.csrLevel r x.b.core ≤ x.w.level → (∀ l, inMask x.act l = true → (x.w.thread l).bound (i.toNat % 128) = false) →
    (∀ out : Lane → LaneOut, UnhinderedOnce x [dst1 d] →
      let v := if r.access = .wo then 0 else s.csrRead x.b.core x.w.level i.toNat r
      (∀ l, inMask x.act l = true → x.put1 (past x l) d v = .ok (out l)) →
      ∃ t, exec (.csrr d i) s = .next t ∧ WordDone x [dst1 d] out id t) ∧
    (∀ (v : Word) (th : Lane → Thread), UnhinderedOnce x [src1 d] → x.hiReg d = .ok v.toNat →
      (∀ l, inMask x.act l = true → x.popHi [d] l (past x l) = .ok (th l)) →
      ∃ t u, exec (.csrw d i) s = .next t ∧ WordDone x [] (fun l => plainOut (th l)) id u ∧
        t = (u.csrWrite x.b.core i.toNat r v).unhold)

/-- R196, R413: a register without further effects holds what was written, its reserved bits and clamped fields as its table
says; every other register stays; of a die whose image has been refused no partition-level register changes. -/
def Claim.ControlRegisters : Prop :=
  ∀ (s : State) (core i : Nat) (r : CsrRow) (v : Word), plainRegister i → csrRow i = some r →
    (r.level < 2 → dieOfCore core ∉ s.refused) →
    let sc := s.csrScope r.copy core
    let t := s.csrWrite core i r v
    t.csr sc i = csrStored (s.pnOfDie (dieOfCore core)) i (s.csr sc i) v ∧
    (∀ sc' j, (sc', j) ≠ (sc, i) → t.csr sc' j = s.csr sc' j) ∧ (i ≠ 0x0400 → t.sliced = s.sliced) ∧
    (i ≠ 0x0220 → t.ticked = s.ticked) ∧ { t with csrs := s.csrs, sliced := s.sliced, ticked := s.ticked } = s

/-- R197: RDWR gives each lane a register of a parked or halted warp; WRWR writes one, lane by lane. -/
def Claim.WarpFiles : Prop :=
  ∀ (s : State) (d a b : VReg) (x : Exec) (val : Lane → Word × Word) (th : Lane → Thread) (tgt : Lane → Block × Nat × Warp),
    Issuing s none x → 1 ≤ x.w.level →
    (∀ l h t e, inMask x.act l = true → x.get1 (x.w.thread l) a = .ok (h, t) → s.namedWarp x.pn h = some e →
      s.moveOf e.1.core = false) →
    (∀ l, inMask x.act l = true → readTwo x a b l = .ok (val l, th l) ∧ s.heldWarp x.pn (val l).1 = some (tgt l) ∧
      (selectorOf (val l).2).bad = false) →
    (∀ (v : Lane → Word) (out : Lane → LaneOut), Unhindered x [src1 a, src1 b, dst1 d] →
      (∀ l, inMask x.act l = true → readFile (tgt l).1 (tgt l).2.2 (selectorOf (val l).2) = some (v l) ∧
        (tgt l).2.2.filePoison (selectorOf (val l).2) = none ∧ x.put1 (th l) d (v l) = .ok (out l)) →
      ∃ t, exec (.rdwr d a b) s = .next t ∧ WordDone x [src1 a, src1 b, dst1 d] out id t) ∧
    (∀ (v : Lane → Word) (th' : Lane → Thread) (f : Lane → FileWrite), Unhindered x [src1 a, src1 b, src1 d] →
      (∀ l, inMask x.act l = true → x.get1 (th l) d = .ok (v l, th' l) ∧
        writeFile (tgt l).1 (tgt l).2.2 (selectorOf (val l).2) (v l) = .ok (f l)) →
      ∃ t u, exec (.wrwr d a b) s = .next t ∧ WordDone x [] (fun l => plainOut (th' l)) id u ∧
        t = ((lanesIn x.act).foldl (fun s l => (s.applyFile (tgt l).1.bid (tgt l).2.1 (selectorOf (val l).2).lane (f l)).cleanFile
          (tgt l).1.bid (tgt l).2.1 (selectorOf (val l).2)) u).unhold)

/-- R198, R199, R328: HALTW halts the block of the warp it names, and completes once every warp of it has stopped; RESW
lets a parked warp run again, pass its word or end, or releases the halt. -/
def Claim.HaltAndResume : Prop :=
  ∀ (s : State) (a b : VReg) (h : Word) (x : Exec) (tb : Block) (i : Nat), Issuing s none x → 1 ≤ x.w.level →
    x.hiReg a = .ok h.toNat → s.namedWarp x.pn h = some (tb, i) →
    (∀ th : Lane → Thread, UnhinderedOnce x [src1 a] → tb.resident = true →
      let y := x.inState (s.haltBlock tb.bid)
      Issued y.s none y → Undisturbed y →
      let stopped := (y.s.block? tb.bid).elim true fun b => b.warps.all Warp.hasStopped
      (stopped = true → y.s.moveOf tb.core = false →
        (∀ l, inMask x.act l = true → y.popHi [a] l (past y l) = .ok (th l)) →
        ∃ t u, exec (.haltw a) s = .next t ∧ WordDone y [] (fun l => plainOut (th l)) id u ∧ t = u.unhold) ∧
      (stopped = false ∨ y.s.moveOf tb.core = true → exec (.haltw a) s = y.hold)) ∧
    (∀ (m : Word) (w : Warp) (th : Lane → Thread), UnhinderedOnce x [src1 a, src1 b] → x.hiAfter [a] b = .ok m.toNat → m.toNat < 4 →
      s.moveOf tb.core = false → tb.warp? i = some w → (m.toNat = 2 → s.portPending tb.bid i w (~~~0) = false) →
      (∀ l, inMask x.act l = true → x.popHi [a, b] l (past x l) = .ok (th l)) →
      ((m.toNat < 2 ∧ w.parked ≠ none) ∨ (m.toNat = 2 ∧ (w.parked ≠ none ∨ tb.halted = true)) ∨
        (m.toNat = 3 ∧ tb.halted = true)) →
      ∃ t u v, exec (.resw a b) s = .next t ∧ WordDone x [] (fun l => plainOut (th l)) id u ∧
        u.resume tb i w m.toNat = some v ∧ t = v.settleLocks.unhold)

/-- R199, R375: what each mode of RESW does to the parked warp: mode 0 keeps the PC and exempts the lanes from breakpoints,
mode 1 moves them past the word or pair, mode 2 ends every thread. -/
def Claim.ResumeModes : Prop :=
  ∀ (p : Parked) (w : Warp) (l : Lane),
    (inMask p.lanes l = true → ((w.again p).thread l).pc = (w.thread l).pc ∧ ((w.again p).thread l).exempt = true ∧
      ((w.past p).thread l).pc = (w.thread l).pc + BitVec.ofNat 64 p.len) ∧
    (inMask p.lanes l = false → (w.again p).thread l = w.thread l ∧ (w.past p).thread l = w.thread l) ∧
    ((w.retire).thread l).life = .ended ∧ w.retire.parked = none

/-- R200: STEP of a thread that has ended gives 3, of one asleep 1; else the thread steps and the warp waits for it. -/
def Claim.Steps : Prop :=
  ∀ (s : State) (d a b : VReg) (h v : Word) (x : Exec) (tb : Block) (i : Nat) (w : Warp), Issuing s none x →
    UnhinderedOnce x [src1 a, src1 b, dst1 d] → 1 ≤ x.w.level → x.hiReg a = .ok h.toNat → x.hiAfter [a] b = .ok v.toNat →
    v.toNat < 32 → s.namedWarp x.pn h = some (tb, i) → s.moveOf tb.core = false → tb.warp? i = some w →
    tb.halted = true → tb.resident = true → w.parked = none → w.hasStopped = true → s.stepReq = none →
    ∀ l : Lane, l.val = v.toNat →
    (∀ (th : Lane → Thread) (out : Lane → LaneOut), (w.thread l).running = false →
      (∀ k, inMask x.act k = true → x.popHi [a, b] k (past x k) = .ok (th k) ∧
        x.put1 (th k) d (if (w.thread l).ended then 3 else 1) = .ok (out k)) →
      ∃ t, exec (.step d a b) s = .next t ∧ WordDone x [dst1 d] out id t) ∧
    (∀ th : Lane → Thread, (w.thread l).running = true →
      (∀ k, inMask x.act k = true → x.popHi [a, b] k (x.w.thread k) = .ok (th k) ∧ checkDst x (th k) d = .ok ()) →
      exec (.step d a b) s = .next { (s.modWarp x.i.bid x.i.w fun w => w.modThreads fun k t =>
          if inMask x.act k then th k else t) with
        issue := none
        stepReq := some { bid := x.i.bid, w := x.i.w, lanes := x.i.lanes, d := d, tbid := tb.bid, tw := i, lane := l.val
                          len := x.i.len, started := false } })

/-- R201, R345, R396: TLBINV completes at partition level in modes 0 to 2, and at steward level in mode 3 too, its reserved
bits being zero: exactly the translations its mode names are gone, and mode 3 ends the need for a shoot-down of its dies. -/
def Claim.TranslationWords : Prop :=
  ∀ (s : State) (a b : VReg) (v : Word) (x : Exec) (th : Lane → Thread), Issuing s none x → UnhinderedOnce x [src2 a, src1 b] →
    x.hiReg b = .ok v.toNat → (∀ l, inMask x.act l = true → x.popHi [b] l (past x l) = .ok (th l)) →
    let mode := v.toNat % 4
    let dies := diesOfMask (v.toNat / 2 ^ 8 % 2 ^ 4)
    v.toNat / 2 ^ 2 % 4 = 0 → v.toNat / 2 ^ 12 = 0 → (mode ≠ 3 → 1 ≤ x.w.level ∧ v.toNat / 2 ^ 8 = 0) → (mode = 3 → 2 ≤ x.w.level) →
    ∃ t u, exec (.tlbinv a b) s = .next t ∧ WordDone x [] (fun l => plainOut (th l)) id u ∧
      t = ({ u with tlb := t.tlb, changed := t.changed } : State).unhold ∧
      (∀ e, e ∈ t.tlb ↔ e ∈ s.tlb ∧ ¬ shotDown x.pn mode (v.toNat / 2 ^ 4 % 2 ^ 4) (x.hiPair a).toNat dies e) ∧
      (∀ d, d ∈ t.changed ↔ d ∈ s.changed ∧ ¬ (mode = 3 ∧ d ∈ dies))

/-- R202, R395: QSC completes at steward level, its reserved bits being zero: every issued lane gets the answer of the
quiesce, cancel or query, and the state is as that leaves it. -/
def Claim.QuiesceWords : Prop :=
  ∀ (s : State) (d a : VReg) (v : Word) (x : Exec) (out : Lane → LaneOut) (th : Lane → Thread), Issuing s none x →
    UnhinderedOnce x [src1 a, dst1 d] → 2 ≤ x.w.level → x.hiReg a = .ok v.toNat → v.toNat / 2 ^ 4 % 2 ^ 4 = 0 → v.toNat / 2 ^ 9 = 0 →
    let q := fun (s : State) => s.qsc (v.toNat % 2 ^ 4) (v.toNat / 2 ^ 8 == 1)
    (∀ l, inMask x.act l = true → x.popHi [a] l (past x l) = .ok (th l) ∧ x.put1 (th l) d (q s).1 = .ok (out l)) →
    ∃ t u, exec (.qsc d a) s = .next t ∧ WordDone x [dst1 d] out id u ∧ t = (q u).2.unhold

/-- R203, R339: CAPW completes at partition level, its reserved bits being zero, its image in the window and well formed:
the entry it names is written, once; an image that is not well formed traps with ILLEGAL, sub-code 1. -/
def Claim.CapabilityWrites : Prop :=
  ∀ (s : State) (a b : VReg) (v off : Word) (x : Exec) (at' : Nat × Nat), Issuing s none x →
    UnhinderedOnce x [src1 a, src1 b] → 1 ≤ x.w.level → x.hiReg a = .ok v.toNat → x.hiAfter [a] b = .ok off.toNat →
    v.toNat / 2 ^ 6 % 4 = 0 → v.toNat / 2 ^ 12 = 0 → x.imageAt off.toNat 32 = .ok at' →
    let im := natToBytes 32 (s.winRead at'.1 at'.2 32)
    let write := fun (s : State) => s.capw x.pn (v.toNat / 2 ^ 8) (v.toNat % 2 ^ 6) im
    (∀ th : Lane → Thread, (write s).isSome = true → s.winBad at'.1 at'.2 32 = false →
      (∀ l, inMask x.act l = true → x.popHi [a, b] l (past x l) = .ok (th l)) →
      ∃ t u, exec (.capw a b) s = .next t ∧ WordDone x [] (fun l => plainOut (th l)) id u ∧
        t = ((write u).getD u).settleLocks.unhold) ∧
    (write s = none → exec (.capw a b) s = x.trapAll { code := .illegal, sub := 1 })

/-- R204, R365: GRPW completes at partition level, its reserved bits being zero, its image in the window and well formed:
the group-table entry of a launch none of whose blocks has been placed is written, and the lanes get 1; else they get 0. -/
def Claim.GroupWrites : Prop :=
  ∀ (s : State) (d a b : VReg) (off : Word) (x : Exec) (at' : Nat × Nat) (out : Lane → LaneOut) (th : Lane → Thread),
    Issuing s none x → UnhinderedOnce x [src2 a, src1 b, dst1 d] → 1 ≤ x.w.level → x.hiReg b = .ok off.toNat →
    (x.hiPair a).toNat / 2 ^ 40 = 0 → x.imageAt off.toNat 16 = .ok at' →
    let im := natToBytes 16 (s.winRead at'.1 at'.2 16)
    groupEntryOk im = true → s.winBad at'.1 at'.2 16 = false →
    let g := (x.hiPair a).toNat / 2 ^ 32
    let target := s.grpwTarget x.pn x.b.ctx ((x.hiPair a).setWidth 32) g (groupEntry im)
    (∀ l, inMask x.act l = true → x.popHi [b] l (past x l) = .ok (th l) ∧
      x.put1 (th l) d (if target.isSome then 1 else 0) = .ok (out l)) →
    ∃ t u, exec (.grpw d a b) s = .next t ∧ WordDone x [dst1 d] out id u ∧ (target = none → t = u) ∧
      (∀ ln, target = some ln → t = (u.modLaunch ln.lid fun l =>
        { l with groups := l.groups.set g (groupEntry im) }).unhold)

/-- R179, R288, R299: a copy word gives every active lane the next token of the ring, takes it, raises CPC and puts the
command in its engine's queue. -/
def Claim.CopyWords : Prop :=
  ∀ q ∈ copyWords, ∀ (s : State) (g : PReg) (d a : VReg) (c : Cap) (x : Exec) (e : CapEntry) (r : RingHdr) (rc : Nat)
    (off : Word) (cmd : Copy) (th : Lane → Thread) (out : Lane → LaneOut),
    Issuing s (some g) x → UnhinderedOnce x [src1 a, dst1 d] →
    x.cap c [capRing] (x.ringObj c .readWrite fun r => s.recordLoc (some x.b.core) x.b.pn x.b.ctx r r.next)
      (permAll permSend) = .ok (e, r, rc) →
    x.producer = true →
    x.hiReg a = .ok off.toNat → x.readCopy q.2 off.toNat r rc = .ok cmd →
    x.w.cpc < 15 → s.queued x.b.core < 16 → s.ringOpen r.loc < r.cap → x.mustHold r.loc 32 true = false →
    (∀ l, inMask x.act l = true → x.popHi [a] l (past x l) = .ok (th l) ∧ x.put1 (th l) d cmd.token = .ok (out l)) →
    cmd.token = BitVec.ofNat 32 r.next ∧ cmd.kind = q.2 ∧ cmd.stage = .queued ∧
    ∃ t u, exec (q.1 g d a c) s = .next t ∧ WordDone x [dst1 d] out id u ∧
      t = { (((u.storeHome x.b.core (r.loc + 16) 4 ((r.next + 1) % 2 ^ 32)).bump).modWarp x.i.bid x.i.w fun w =>
        { w with cpc := w.cpc + 1 }) with cmds := u.cmds ++ [cmd] }

/-- R181: CTOK gives each lane its token's status: 0 done, 3 pending, 1 or 2 failed or cancelled, 4 overwritten; CSLEEP
sleeps on a pending token until its deadline. -/
def Claim.TokenWords : Prop :=
  ∀ (s : State) (g : PReg) (d a : VReg) (c : Cap) (x : Exec) (e : CapEntry) (r : RingHdr) (sl : List (Lane × Word × Nat))
    (tok : Lane → Word) (slot : Lane → Nat),
    Issuing s (some g) x → sl = (lanesIn x.act).map (fun l => (l, tok l, slot l)) →
    (∀ l, inMask x.act l = true → s.badAt (slot l) 32 = false) →
    let host := (lanesIn x.act).any fun l => s.tokenHost (slot l) (tok l)
    (∀ (th : Lane → Thread) (out : Lane → LaneOut), Unhindered x [src1 a, dst1 d] →
      x.cap c [capRing] (x.ringObj c .read (x.slotsOf (x.tokens a false))) (permAll permRecv) = .ok (e, r, sl) →
      (∀ l, inMask x.act l = true → (∃ v, x.get1 (past x l) a = .ok (v, th l)) ∧
        x.put1 (th l) d (BitVec.ofNat 32 (s.tokenStatus (slot l) (tok l))) = .ok (out l)) →
      ∃ t u, exec (.ctok g d a c) s = .next t ∧ WordDone x [src1 a, dst1 d] out id u ∧
        t = acquireFor x.b.core x.b.pn x.b.ctx host u) ∧
    (∀ out : Lane → LaneOut, Unhindered x [src4 a, dst1 d] →
      x.cap c [capRing] (x.ringObj c .read (x.slotsOf (x.tokens a true))) (permAll permRecv) = .ok (e, r, sl) →
      (∀ l, inMask x.act l = true →
        let st := s.tokenStatus (slot l) (tok l)
        let dl := (past x l).get2 (a + 2)
        let late := dl.toNat ≠ 0 ∧ dl.toNat ≤ s.gt
        ((st ≠ 3 ∨ late) → x.put1 (past x l) d (BitVec.ofNat 32 st) = .ok (out l)) ∧
        (¬ (st ≠ 3 ∨ late) → checkDst x (past x l) d = .ok () ∧ out l = plainOut (x.putToSleep l
          (x.sleepOn (past x l) (.csleep (slot l) (tok l) dl d) none 64 false)))) →
      ∃ t u, exec (.csleep g d a c) s = .next t ∧ WordDone x [src4 a, dst1 d] out id u ∧
        t = (acquireFor x.b.core x.b.pn x.b.ctx host u).bump)

/-- R183 to R185, R239, R278, R279: CARD installs a batch on an idle batch card; DEAL takes the next chunk of a card; REORD
deposits each active lane's key and payload, and ends it. -/
def Claim.CardWords : Prop :=
  ∀ (s : State) (g : PReg) (c : Cap) (x : Exec) (e : CapEntry), Issuing s (some g) x →
    s.capEntry x.b.pn x.b.ctx c.toNat = some e → e.type = capCard →
    (∀ (d a : VReg) (off : Nat) (b : Batch) (th : Lane → Thread) (out : Lane → LaneOut), UnhinderedOnce x [src1 a, dst1 d] →
      e.perms &&& permLaunch = permLaunch → x.hiReg a = .ok off → x.readBatch off = .ok b →
      let ok := (s.card? e.card).elim false fun k => !k.ring && !s.batchOn k
      (∀ l, inMask x.act l = true → x.popHi [a] l (past x l) = .ok (th l) ∧
        x.put1 (th l) d (if ok then 1 else 0) = .ok (out l)) →
      ∃ t u, exec (.card g d a c) s = .next t ∧ WordDone x [dst1 d] out id u ∧
        (ok = false → t = u) ∧ (∀ k, s.card? e.card = some k → ok = true → t = u.installBatch k b)) ∧
    (∀ (d : VReg) (k : Card), UnhinderedOnce x [dst2 d] → e.perms &&& permRecv = permRecv → s.card? e.card = some k →
      let left := s.remaining k
      let n := min (max k.minChunk (left / k.divisor)) left
      ∃ t u, exec (.deal g d c) s = .next t ∧
        WordDone x [dst2 d] (fun l => plainOut ((past x l).put2 d (BitVec.ofNat 32 n ++ BitVec.ofNat 32 k.dealt))) id u ∧
        t = (u.modCard k.gen fun k => k.deal x.b.bid n (x.b.taskOf k)).unhold) ∧
    (∀ (a : VReg) (k : Card), Unhindered x [src4 a] → x.portPending = false → e.perms &&& permLaunch = permLaunch → s.card? e.card = some k →
      s.deposits (clusterOfCore x.b.core) + (lanesIn x.act).length ≤ 4096 →
      ∃ t u, exec (.reord g a c) s = .next t ∧ WarpDone x (Warp.endLanes x.act) u ∧
        t = (lanesIn x.act).foldl (fun s l => s.deposit (clusterOfCore x.b.core) k x.b.launch
          ((x.w.thread l).reg a &&& 0xFFF) ((x.w.thread l).get2 (a + 2)) x.w.wct.toNat) u)

/-- R186 to R188: SQRUN starts an idle sequencer and gives 1, else 0; SQST gives its offset and state; SQSTOP stops it and
completes once its granted operations have. -/
def Claim.SequencerControl : Prop :=
  ∀ (s : State) (g : PReg) (d : VReg) (x : Exec), Issuing s (some g) x →
    (∀ (a : VReg) (off : Nat) (start : DWord) (prio : Nat) (th : Lane → Thread) (out : Lane → LaneOut),
      UnhinderedOnce x [src1 a, dst1 d] → x.hiReg a = .ok off → x.startDesc off = .ok (start, prio) →
      (x.b.seq.st ≠ 1 → x.w.mxc < 15) →
      (∀ l, inMask x.act l = true → x.popHi [a] l (past x l) = .ok (th l) ∧
        x.put1 (th l) d (if x.b.seq.st = 1 then 0 else 1) = .ok (out l)) →
      ∃ t u, exec (.sqrun g d a) s = .next t ∧ WordDone x [dst1 d] out id u ∧
        t = if x.b.seq.st = 1 then u else u.startSeq x.b.bid x.i.w start prio) ∧
    (UnhinderedOnce x [dst2 d] → ∃ t, exec (.sqst g d) s = .next t ∧
      WordDone x [dst2 d] (fun l => plainOut ((past x l).put2 d
        ((x.b.seq.pc - x.b.seq.start).setWidth 32 ++ BitVec.ofNat 32 (2 ^ 30 * x.b.seq.st)))) id t) ∧
    (UnhinderedOnce x [dst2 d] →
      let y := if x.seqStop? = none ∧ x.b.seq.st = 1 then x.inState (s.stopSeq x.b ⟨x.i.w, x.i.pc, 0⟩) else x
      Issued y.s (some g) y → Undisturbed y →
      ((∀ z, y.seqStop? = some z → ∀ m ∈ y.s.entriesOf y.b, z.bound ≤ m.id) →
        ∃ t u, exec (.sqstop g d) s = .next t ∧
          WordDone y [dst2 d] (fun l => plainOut ((past y l).put2 d y.b.seq.report)) id u ∧
          t = u.modSeq y.b.bid fun q =>
            { q with stopping := q.stopping.filter fun z => !(z.w == x.i.w && z.pc == x.i.pc) }) ∧
      ((∃ z, y.seqStop? = some z ∧ ∃ m ∈ y.s.entriesOf y.b, m.id < z.bound) → exec (.sqstop g d) s = y.hold))

/-- R190, R306, R308: a posting word adds one entry to the engine's reservation table and passes; a block's four entries, a
full table, or a block that came first makes it wait; in the last two cases it takes its place among those that wait. -/
def Claim.MatrixPosts : Prop :=
  ∀ (s : State) (b : Block), Sequencing s b →
    let e := s.engine b.cluster
    let posted := fun (op bar : Nat) (word : Word) (raw : List Byte) =>
      (((seqTaken s).setEngine { e with
        entries := e.entries ++ [{ id := s.nextId, bid := b.bid, op := op, bar := bar, pc := b.seq.pc, word := word, raw := raw
                                   gt := s.gt, skip := 0, cost := 0, stage := .posted }]
        waiting := e.waiting.filter (· != b.bid) }).modSeq b.bid Sequencer.pass).bump.unhold
    ((e.ofBlock b.bid).length < 4 → e.entries.length < 16 → (∀ h, s.firstWaiting e = some h → h = b.bid) →
      (∀ p ∈ postWords, ∀ (q : QReg) (n : BarNo) (raw : List Byte),
        b.descriptor p.2 (b.seq.q[q.toNat]).toNat = some raw →
        exec (p.1 q n) s = .next (posted p.2 n.toNat
          (BitVec.ofNat 32 (2 ^ 27 * p.2 + 2 ^ 22 * q.toNat + 2 ^ 18 * n.toNat)) raw)) ∧
      (∀ p ∈ postWords, ∀ (q : QReg) (n : BarNo), b.descriptor p.2 (b.seq.q[q.toNat]).toNat = none →
        exec (p.1 q n) s = .next ((seqTaken s).seqStop b b.seq.pc
          (BitVec.ofNat 32 (2 ^ 27 * p.2 + 2 ^ 22 * q.toNat + 2 ^ 18 * n.toNat)))) ∧
      exec .mxswp s = .next (posted 1 0 0x08000000 []) ∧ exec .mxz s = .next (posted 5 0 0x28000000 [])) ∧
    (let posting := [Instr.mxswp, .mxz] ++ postWords.flatMap fun p => (List.range 512).map fun k =>
        p.1 (BitVec.ofNat 5 (k / 16)) (BitVec.ofNat 4 (k % 16))
     (4 ≤ (e.ofBlock b.bid).length → ∀ i ∈ posting,
       exec i s = .next ((seqTaken s).modSeq b.bid fun q => { q with held := true })) ∧
     ((e.ofBlock b.bid).length < 4 → 16 ≤ e.entries.length ∨ (∃ h, s.firstWaiting e = some h ∧ h ≠ b.bid) → ∀ i ∈ posting,
       exec i s = .next (((seqTaken s).setEngine (e.join b.bid)).modSeq b.bid fun q => { q with held := true })))

/-- R187, R190, R194: the sequencer words: QMOVI and QADD write a sequencer register, QLOOP counts down and branches while
the count is not 0, MXCK, QBAR, QWAIT and QEND wait for the posted operations. -/
def Claim.SequencerWords : Prop :=
  ∀ (s : State) (b : Block), Sequencing s b →
    (∀ (d : QReg) (i : BitVec 22), exec (.qmovi d i) s = .next ((seqOver s b).modSeq b.bid fun q =>
      { q with pc := q.pc + 4, wait := none, held := false, q := q.q.set d.toNat (i.signExtend 32) })) ∧
    (∀ (d a : QReg) (i : BitVec 17), exec (.qadd d a i) s = .next ((seqOver s b).modSeq b.bid fun q =>
      { q with pc := q.pc + 4, wait := none, held := false, q := q.q.set d.toNat (q.q[a.toNat] + i.signExtend 32) })) ∧
    (∀ (c : QReg) (o : BitVec 22), exec (.qloop c o) s = .next ((seqOver s b).modSeq b.bid fun q => { q with
      pc := if q.q[c.toNat] - 1 = 0 then q.pc + 4 else q.pc + BitVec.ofInt 64 (4 * o.toInt)
      wait := none, held := false, q := q.q.set c.toNat (q.q[c.toNat] - 1) })) ∧
    (s.entriesOf b = [] →
      (∀ (n : BarNo) (d : QReg), exec (.mxck n d) s = .next ((seqOver s b).modSeq b.bid fun q =>
        { q with pc := q.pc + 4, wait := none, held := false
                 q := q.q.set d.toNat (s.barOf (.block b.launch b.blk n.toNat)).status })) ∧
      (∀ (n : BarNo) (t : State), (seqOver s b).arrive (.block b.launch b.blk n.toNat) 1 = some t →
        exec (.qbar n) s = .next (t.modSeq b.bid Sequencer.pass) ∧
        (b.seq.wait = none → exec (.qwait n) s = .next
          (if (t.barOf (.block b.launch b.blk n.toNat)).phase = (s.barOf (.block b.launch b.blk n.toNat)).phase then
            t.modSeq b.bid fun q =>
              { q with wait := some (n.toNat, (s.barOf (.block b.launch b.blk n.toNat)).phase), held := true }
          else t.modSeq b.bid Sequencer.pass))) ∧
      (∀ (n : BarNo) (k : Nat) (p : Word), b.seq.wait = some (k, p) → exec (.qwait n) s = .next
        (if (s.barOf (.block b.launch b.blk n.toNat)).phase = p then (seqOver s b).modSeq b.bid fun q => { q with held := true }
          else (seqOver s b).modSeq b.bid Sequencer.pass)) ∧
      exec .qend s = .next (((seqOver s b).modSeq b.bid fun q =>
        { q.close s.nextId with st := 0, wait := none }).settleCharges b.bid).unhold) ∧
    (s.entriesOf b ≠ [] → ∀ (n : BarNo) (d : QReg), ∀ i ∈ [Instr.mxck n d, .qbar n, .qwait n, .qend],
      exec i s = .next ((seqOver s b).modSeq b.bid fun q => { q with held := true })) ∧
    { seqOver s b with seqNow := s.seqNow, engines := s.engines } = s ∧
    (∀ c, (seqOver s b).engine c = if c = b.cluster then
      { s.engine c with waiting := (s.engine c).waiting.filter (· != b.bid) } else s.engine c)

/-- R90, R187, R349: a word that is no sequencer instruction stops the sequencer with STATE 3, its PC on the word, and its
record of kind 2 goes to the handler of quad 0. -/
def Claim.SequencerStops : Prop :=
  ∀ (s : State) (b : Block) (w : Word), Sequencing s b → Untriggered s b.pn b.ctx →
    ∃ t, exec (.seqWordUnallocated w) s = .next t ∧
      (∃ b', t.block? b.bid = some b' ∧ b'.seq.st = 3 ∧ b'.seq.pc = b.seq.pc) ∧
      (b.kind = .task → s.handlerOn b.pn = true → t.records = s.records ++ [(b.core, 0, seqRecord (seqTaken s) b b.seq.pc w)])


/-! ### Accesses in flight -/

/-- R74, R152, R153, R263, R357 to R359, R364: a load returns to each lane that names the same bytes what their place holds
when it is performed: the window, the home, or for .l1 a valid L1 copy, which a miss fills; the host or a peer answers for its
own memory. A load that fails, or that reads a soft error, poisons its destinations; of a window that is gone it returns an
open value (log 74). -/
def Claim.LoadReturns : Prop :=
  ∀ (s : State) (op : Nat) (a : Access) (b : Block), Performable s op a b →
    let lanes := s.peers a
    (∀ wb, a.kind = .winLoad wb →
      (s.windowGone wb = true → exec (.loadReturn op) s = .next (returned { s with free := s.free + 1 } lanes
        ((Config.freeBits s.free).toNat % 2 ^ (8 * a.size)))) ∧
      (s.windowGone wb = false → s.winBad wb a.loc a.size = false →
        exec (.loadReturn op) s = .next (returned s lanes (s.winRead wb a.loc a.size))) ∧
      (s.windowGone wb = false → s.winBad wb a.loc a.size = true → exec (.loadReturn op) s = .next (poisonedBy s lanes))) ∧
    (∀ lvl acq sys, a.kind = .load lvl acq sys →
      let s' := if sys then s.sysAcquire b.core b.pn b.ctx else s
      let line := lineOf a.loc
      let pnctx := 16 * b.pn + b.ctx
      (a.mt = 0 →
        (s'.loadBad b a lvl = true → exec (.loadReturn op) s = .next (poisonedBy s' lanes)) ∧
        (lvl ≠ .l1 → s'.badAt a.loc a.size = false →
          exec (.loadReturn op) s = .next (returned (s'.readHome b.core a.loc a.size) lanes (s'.load a.loc a.size))) ∧
        (∀ c, lvl = .l1 → s'.copy? (s'.l1Of b.core) line = some c →
          exec (.loadReturn op) s =
            .next (returned (notedBy s' b lvl lanes) lanes (sliceNat c.bytes (a.loc % 64) a.size))) ∧
        (lvl = .l1 → s'.copy? (s'.l1Of b.core) line = none → s'.loadBad b a lvl = false →
          let u := s'.fillL1 b.core b.pn a.cls line
          (s'.badAt (64 * line) 64 = false → (u.copy? (u.l1Of b.core) line).isSome = true) ∧
          exec (.loadReturn op) s = .next (returned (notedBy u b lvl lanes) lanes
            ((u.copy? (u.l1Of b.core) line).elim (s'.load a.loc a.size) fun c => sliceNat c.bytes (a.loc % 64) a.size)))) ∧
      (∀ c, a.mt = 1 → s.hostHit b.core pnctx lvl line = some c → sys = false → s.reachable a.loc = true →
        s.badAt a.loc a.size = false →
        ∃ u, exec (.loadReturn op) s = .next (returned u lanes (sliceNat c.bytes (a.loc % 64) a.size)) ∧
          (lvl = .l2 → u = s.putCopy c)) ∧
      (s.outward b a = true → ∀ ok : Bool, ∃ t : State,
        (a.mt = 1 ∨ a.mt = 2 → exec (.hostCompletion op ok) s = .next t) ∧
        (a.mt = 3 → exec (.peerResponse op ok) s = .next t) ∧
        (ok = false ∨ s.reachable a.loc = false → t = poisonedBy (s.failedAt a.loc) lanes) ∧
        (ok = true → s.reachable a.loc = true → s'.badAt a.loc a.size = false → (a.mt = 1 → lvl ≠ .l1 ∧ lvl ≠ .l2) →
          t = returned (notedBy s' b lvl lanes) lanes (s'.load a.loc a.size)) ∧
        (ok = true → s.reachable a.loc = true → s'.badAt a.loc a.size = false → a.mt = 1 → lvl = .l1 ∨ lvl = .l2 →
          s'.hostHit b.core pnctx lvl line = none →
          t = returned (notedBy (s'.fillHost b.core pnctx b.pn a.cls (lvl == .l1) line) b lvl lanes) lanes
            (sliceNat (s'.withOwn b.core line (s'.hostLine (dieOfCore b.core) pnctx b.pn a.cls line).bytes)
              (a.loc % 64) a.size))) ∧
      (s.outward b a = true → s.reachable a.loc = false →
        exec (.loadReturn op) s = .next (poisonedBy (s.failedAt a.loc) lanes))) ∧
    (∀ (u : State) (l : Lane) r n y, a.dst = some (r, n) → (u.poisonDst a l).warp? a.bid a.w = some y →
      ∀ i, i < n → ⟨l.val, r + i, a.va, 0⟩ ∈ y.poison)

/-- R74, R260, R359, R364: a store-class access is performed at its home with the lanes of its word that name the same bytes,
one after another; one that leaves the module is performed or fails as the host or the peer answers. What each kind does:
R157: STL stores into the window and may set its full-empty bit. R152, R259, R260: a store or an atomic changes memory and the
issuer's copies, its completion time is the later of GT and the line's last read lease, and an atomic delivers the old value.
R159, R267: a discard leaves each granule as it was or zero. R165, R281: a continuation atomic's lane gets 0 where its test
fails and 2 where the slice has no room (log 55).  An atomic on a soft error changes nothing (log 26). -/
def Claim.StoresPerformed : Prop :=
  (∀ (s : State) (op : Nat) (a : Access) (b : Block), Performable s op a b → a.isLoad = false →
    (s.outward b a = false → exec (.storePerformedAtHome op) s = .next (performedBy s b (s.peers a))) ∧
    (s.outward b a = true → ∀ ok : Bool, ∃ t : State,
      (a.mt = 1 ∨ a.mt = 2 → exec (.hostCompletion op ok) s = .next t) ∧
      (a.mt = 3 → exec (.peerResponse op ok) s = .next t) ∧
      t = if ok && s.reachable a.loc then performedBy s b (s.peers a) else (s.failAll a (s.peers a)).unhold) ∧
    (s.outward b a = true → s.reachable a.loc = false →
      exec (.storePerformedAtHome op) s = .next (s.failAll a (s.peers a)).unhold)) ∧
  (∀ lanes : List Access, (filledBy lanes).Nodup ∧
    ∀ wb k, (wb, k) ∈ filledBy lanes ↔ ∃ e ∈ lanes, e.kind = .winStore wb true ∧ e.loc / 16 = k) ∧
  ∀ (u : State) (b : Block) (e : Access),
    (∀ wb fs, e.kind = .winStore wb fs → u.performAcc b e = (u.winWrite wb e.cells).setDone e u.gt) ∧
    (∀ lvl, e.kind = .store lvl → e.mt = 0 →
      let v := u.performAcc b e
      v.mem = memWriteAll u.mem e.cells ∧ { v with mem := u.mem, badMem := u.badMem, copies := u.copies, accs := u.accs } = u ∧
      v.acc? e.id = (u.acc? e.id).map (fun k => { k with done := some (max u.gt (u.leaseOf (lineOf e.loc))), dst := none }) ∧
      ∀ c ∈ v.copies, c.place = u.l1Of b.core → c.line = lineOf e.loc → lvl = .l1) ∧
    (∀ lvl, e.kind = .store lvl → e.mt = 3 → u.performAcc b e = (u.storeCells e.cells).setDone e u.gt) ∧
    (∀ k near lo hi, e.kind = .atomic k near lo hi → u.badAt e.loc e.size = true →
      u.performAcc b e = (u.poisonDst e (laneOfNat e.lane)).setDone e u.gt) ∧
    (∀ k near lo hi, e.kind = .atomic k near lo hi → e.mt = 0 → u.badAt e.loc e.size = false → ∃ v : State,
      u.performAcc b e = (v.deliverDst e (u.load e.loc e.size)).setDone e (v.homeTime (lineOf e.loc)) ∧
      v.mem = memStore u.mem e.loc e.size (atomNew k (BitVec.ofNat 128 (u.load e.loc e.size)) lo hi).toNat ∧
      { v with mem := u.mem, badMem := u.badMem, copies := u.copies, leases := u.leases, xleases := u.xleases } = u ∧
      (near = false → v.leases = u.leases ∧ v.xleases = u.xleases)) ∧
    (∀ lvl va, e.kind = .disc lvl va → e.mt = 0 → memWf u.mem = true →
      let v := u.performAcc b e
      (∀ x, x < e.loc ∨ e.loc + e.size ≤ x → memRead v.mem x = memRead u.mem x) ∧
      ∀ g, (∀ i, i < 16 → memRead v.mem (e.loc + 16 * g + i) = memRead u.mem (e.loc + 16 * g + i)) ∨
        ∀ i, i < 16 → e.loc + 16 * g + i < e.loc + e.size → memRead v.mem (e.loc + 16 * g + i) = 0) ∧
    (∀ k cmp nv cap card wct, e.kind = .cont k cmp nv cap card wct → u.badAt e.loc 4 = false →
      (contTest k (u.homeWord e.loc) cmp = false → u.performAcc b e = (u.deliverDst e 0).setDone e u.gt) ∧
      (contTest k (u.homeWord e.loc) cmp = true → (u.cards.any fun c => c.pn == b.pn && c.loc == card.loc) = false →
        u.sliceRoom (homeSlice e.loc) b.pn card = false → u.performAcc b e = (u.deliverDst e 2).setDone e u.gt)) ∧
    (∀ loc n, (∀ c ∈ u.blocks, u.inSlot c loc n = false) → u.touchSlots loc n = u)

/-- R153, R260, R261: a store leaves its counter once every lane's completion time is known, and sr.wct takes the largest. -/
def Claim.StoresAcknowledged : Prop :=
  ∀ (s : State) (op : Nat) (o : MemOp), s.ops.find? (fun e => e.id == op) = some o → o.isLoad = false →
    (∀ a ∈ s.accs, a.op = op → a.done.isSome = true) →
    let m := ((s.accs.filter fun a => a.op == op).map fun a => a.done.getD 0).foldl max 0
    ∃ t : State, exec (.storeAck op) s = .next t ∧ t.accs = s.accs.filter (fun a => a.op != op) ∧
      t.ops.find? (fun e => e.id == op) = none ∧ t.mem = s.mem ∧
      ∀ b w, s.block? o.bid = some b → b.life ≠ .retired → b.warp? o.w = some w → ∃ y, t.warp? o.bid o.w = some y ∧
        y = { w with threads := y.threads, stc := if o.counted then w.stc - 1 else w.stc
                     wct := if w.wct.toNat < max o.tmax m then BitVec.ofNat 64 (max o.tmax m) else w.wct }

/-- R259: a copy is dropped no later than 8 ns before its lease ends, and no other is; an exclusive lease may end early. -/
def Claim.LeasesEnd : Prop :=
  ∀ (s : State) (place line : Nat),
    (∃ t : State, exec (.leaseExpire place line) s = .next t ∧ { t with copies := s.copies } = s ∧
      ∀ c, c ∈ t.copies ↔ c ∈ s.copies ∧ ¬ (c.place.num = place ∧ c.line = line ∧ c.expiry ≤ s.gt + 8)) ∧
    (∃ t : State, exec (.exclusiveLeaseEnd line) s = .next (State.unhold t) ∧ { t with xleases := s.xleases } = s ∧
      ∀ x, x ∈ t.xleases ↔ x ∈ s.xleases ∧ x.line ≠ line)

/-! ### Lanes that wake -/

/-- R112, R175, R181: a lane wakes once GT has reached its target or deadline, or its record has come: RDGT.w reads GT,
DEQT's flag is 0, CSLEEP gives the status of its token. -/
def Claim.TimedWakes : Prop :=
  ∀ (s : State) (bid w : Nat) (l : Lane) (b : Block) (x : Warp) (z : Sleep), Sleeping s bid w l b x z →
    (∀ t d, z.kind = .time t d → t.toNat ≤ s.gt → ∃ u : State, exec (.rdgtWake bid w l) s = .next u ∧
      ThreadSet s bid w l (fun th => (wokenBy z th).put2 d (BitVec.ofNat 64 s.gt)) u) ∧
    (∀ hdr d t, z.kind = .deq hdr d (some t) → t.toNat ≤ s.gt → ∃ u : State, exec (.deqtDeadline bid w l) s = .next u ∧
      ThreadSet s bid w l (fun th => (((wokenBy z th).put2 d 0).setReg (d + 2) 0).setReg (d + 3) 0) u) ∧
    (∀ slot token dl d, z.kind = .csleep slot token dl d →
      (s.tokenStatus slot token ≠ 3 ∨ (dl.toNat ≠ 0 ∧ dl.toNat ≤ s.gt)) → s.tokenHost slot token = false →
      (wokenBy z (x.thread l)).boundPort d.toNat = none → ∃ (u : State) (y : Warp), exec (.csleepWake bid w l) s = .next u ∧
        u.warp? bid w = some y ∧ y.thread l = (wokenBy z (x.thread l)).setReg d (BitVec.ofNat 32 (s.tokenStatus slot token)) ∧
        (∀ k, k ≠ l → y.thread k = { x.thread k with held := false }) ∧ u.mem = s.mem)

/-- R171, R174, R175: WAITF's lane wakes when the word at its place meets its condition; the lowest lane asleep in a
dequeue takes the head element once it is present and ready, and HEAD rises by 1. -/
def Claim.MemoryWakes : Prop :=
  ∀ (s : State) (bid w : Nat) (l : Lane) (b : Block) (x : Warp) (z : Sleep), Sleeping s bid w l b x z →
    (∀ loc mt k y, z.kind = .waitf loc mt k y → s.xleased b.core loc 4 = false → s.reachable loc = true →
      s.badAt loc 4 = false → s.readEarly (bid, w, l.val) loc 4 = false →
      let s' := s.readHome b.core loc 4
      condHolds k (s.homeWord loc) y = true →
      (mt = 0 → ∃ u : State, exec (.waitfWake bid w l) s = .next u ∧ ThreadSet s' bid w l (wokenBy z) u) ∧
      (mt ≠ 0 → exec (.waitfWake bid w l) s =
        .next ((s'.modThread bid w l Thread.wake).sysAcquire b.core b.pn b.ctx).unhold)) ∧
    (∀ hdr d dl q loc, z.kind = .deq hdr d dl → s.queueHdr hdr = some q → s.headElem b q = some loc →
      (∀ k y, k < l → (x.thread k).life = .asleep y → y.order ≠ z.order) →
      s.snooped hdr 32 = false → s.xleased b.core hdr 32 = false → s.badAt hdr 32 = false → s.badAt loc 16 = false →
      let v := BitVec.ofNat 64 (s.load loc 8)
      let s' := (s.readHome b.core loc 16).storeHome b.core (hdr + 16) 8 ((q.head + 1) % 2 ^ 64)
      ∃ u : State, exec (.queueElementReady bid w l) s = .next u ∧
        ThreadSet s' bid w l (fun th =>
          if dl.isSome then (((wokenBy z th).put2 d v).setReg (d + 2) 1).setReg (d + 3) 0 else (wokenBy z th).put2 d v) u)

/-- R250, R255, R352: a checked wait or WAITM that lasts HANG_LIMIT µs traps with WATCHDOG on its word: every lane that sleeps
in the same issue of the word and has reached the limit, with one record. -/
def Claim.HangTraps : Prop :=
  ∀ (s : State) (bid w : Nat) (l : Lane) (b : Block) (x : Warp) (z : Sleep), Sleeping s bid w l b x z →
    (z.target ≠ none ∨ ∃ k, z.kind = .mask k) → s.csr (.part b.pn) 0x03D0 ≠ 0 →
    1000 * (s.csr (.part b.pn) 0x03D0).toNat ≤ z.hang → x.parked = none →
    let hung := maskOf fun k => (x.thread k).asleep.elim false fun y =>
      y.order == z.order && decide (1000 * (s.csr (.part b.pn) 0x03D0).toNat ≤ y.hang)
    ∃ (t : State) (y : Warp) (p : Parked), exec (.hangWatchdogExpire bid w l) s = .next t ∧ t.warp? bid w = some y ∧
      y.parked = some p ∧ p.lanes = hung ∧ p.record.code = 0x10 ∧ p.record.lanes = hung ∧
      (∃ k q, (x.thread k).life = .asleep q ∧ q.order = z.order ∧ p.record.word = q.word) ∧
      (∃ k, lowLane hung = some k ∧ p.record.pc = (x.thread k).pc ∧ p.record.lane = BitVec.ofNat 8 k.val) ∧
      ∀ k, inMask hung k = true → (y.thread k).life = .run ∧ (y.thread k).pc = (x.thread k).pc


/-! ### Launches -/

/-- R331 to R333, R393: a doorbell of a queue in order reads its packets, one launch each in order, and moves HEAD to TAIL; one
that breaks R331 is refused with reason 9; HEAD and TAIL as last read are kept; a held die only records it. -/
def Claim.Doorbells : Prop :=
  ∀ (s : State) (die n : Nat),
    let q := s.queueDesc die n
    (s.dieHeld die = true → ∃ t : State, exec (.lqBell die n) s = .next t ∧ (die, n) ∈ t.bells ∧ { t with bells := s.bells } = s) ∧
    (s.dieHeld die = false → (q.flags % 2 = 0 ∨ 2 ^ q.l < q.count ∨ q.ok = false) → exec (.lqBell die n) s =
      .next ((s.flog (s.pnOfDie die) q.ctx { code := 0, sub := 9, source := 4, obj := 0, detail := 0 }).noteQueue
        die n q.head q.tail).unhold) ∧
    (s.dieHeld die = false → q.flags % 2 = 1 → q.count ≤ 2 ^ q.l → q.ok = true → memWf s.mem = true →
      ∃ t : State, exec (.lqBell die n) s = .next t ∧
        t.launches.length = s.launches.length + q.count ∧ t.launches.take s.launches.length = s.launches ∧
        (∀ l ∈ t.launches.drop s.launches.length, l.die = die ∧ l.queue = n ∧ l.pn = s.pnOfDie die ∧ l.ctx = q.ctx ∧
          l.state = .known) ∧
        (0 < q.count → s.reachable (q.loc + 16) = true → t.load (q.loc + 16) 8 = q.tail) ∧
        (∀ bid b, s.block? bid = some b → ∃ b', t.block? bid = some b' ∧
          b' = { b with eng := b'.eng, warps := b.warps.map Warp.unhold, seq := { b.seq with held := false } }) ∧
        t.queues.head? = some { die := die, num := n, head := q.tail, tail := q.tail })

/-- R218, R335, R336: a launch whose time has come is ready unless a reason of R336 holds, its blocks in launch order, and
the launches behind it come no earlier; SER drops its context's code and, as the model has it, every L1 line of the
partition's cores (log 8); a refused launch writes a done record of status 2 with its reason, and a fault-log entry. -/
def Claim.LaunchesReady : Prop :=
  ∀ (s : State) (l : Launch), s.launch? l.lid = some l → s.readyNow l = true →
    (s.refusal l = none →
      let u := (s.modLaunch l.lid fun k => { k with
        state := .ready, order := s.nextId, readyGt := s.gt
        late := k.late.map fun e => { e with order := s.nextId } }).headPassed l
      ∃ t : State, exec (.launchReady l.lid) s = .next t ∧ t.launches = u.launches ∧ t.nextId = s.nextId + 1 ∧ t.mem = s.mem ∧
        (l.flags.getLsbD 4 = false → t.code = s.code ∧ t.copies = s.copies) ∧
        (l.flags.getLsbD 4 = true → (∀ e ∈ t.code, ¬ (e.pn = l.pn ∧ e.ctx = l.ctx)) ∧
          ∀ c ∈ t.copies, ∀ core ∈ s.coresOf l.pn, c.place ≠ s.l1Of core)) ∧
    (∀ r, s.refusal l = some r →
      let u := (s.modLaunch l.lid fun k => { k with state := .refused, fault := some r, endGt := s.gt }).headPassed l
      exec (.launchReady l.lid) s = .next ((u.writeDone l 2 r).flog l.pn l.ctx
        { code := 0, sub := BitVec.ofNat 8 r, source := 4, obj := BitVec.ofNat 64 l.packetAddr
          detail := l.kern.setWidth 64 }).settleLocks.unhold)

/-- R222, R336: the order in which a launch is refused. -/
def Claim.Refusals : Prop :=
  ∀ (s : State) (l : Launch),
    let n := (s.coresOf l.pn).length
    (l.fault = some 1 → s.refusal l = some 1) ∧
    (l.fault ≠ some 1 → (l.cls = 0 ∨ 3 < l.cls) → s.refusal l = some 2) ∧
    (l.fault ≠ some 1 → 1 ≤ l.cls → l.cls ≤ 3 → (∀ c, s.ctx? l.pn l.ctx = some c → c.valid = false) → s.refusal l = some 3) ∧
    (l.fault ≠ some 1 → 1 ≤ l.cls → l.cls ≤ 3 → (∃ c, s.ctx? l.pn l.ctx = some c ∧ c.valid = true) →
      let taken := ∃ k ∈ s.launches, k.pn = l.pn ∧ k.ctx = l.ctx ∧ k.kern = l.kern ∧ k.lid ≠ l.lid ∧ k.live = true
      let badGroups := l.fault = some 5 ∨ ∃ k, k < l.nblk ∧ 4 < (l.groups.filter fun g => g.has k).length
      let noCores := n = 0 ∨ (l.ncore ≠ 0 ∧ n < l.core0 + l.ncore)
      (taken → s.refusal l = some 4) ∧ (¬ taken → badGroups → s.refusal l = some 5) ∧
      (¬ taken → ¬ badGroups → noCores → s.refusal l = some 6) ∧
      (¬ taken → ¬ badGroups → ¬ noCores →
        s.refusal l = if fitsEmpty (s.heldFor l.pn l.cls) l.room then l.fault else some 7))

/-- R13, R18, R334: each warp of a fresh block starts at ENTRY with ARG0 to ARG3 in v0 to v3 of every thread, UNIF in w1 to
w15, every lane in m0, and everything else 0. -/
def Claim.FreshWarps : Prop :=
  ∀ (l : Launch) (k : Nat), l.binOf k = none → (l.freshWarps k).length = l.warps ∧ ∀ w ∈ l.freshWarps k,
    (∀ j : Lane, (w.thread j).pc = l.entry ∧ (w.thread j).p = 0 ∧ (w.thread j).fpflags = 0 ∧ (w.thread j).life = .run ∧
      ∀ r : VReg, (w.thread j).reg r = (l.args[r.toNat]?).getD 0) ∧
    (∀ r : WReg, w.uni r = if 1 ≤ r.toNat ∧ r.toNat ≤ 15 then (l.unif[r.toNat - 1]?).getD 0 else 0) ∧
    (∀ i : Fin 12, w.mask i = (if i = 0 then 0xFFFFFFFF else 0) ∧ w.arr i = 0) ∧
    w.ldc = 0 ∧ w.stc = 0 ∧ w.cpc = 0 ∧ w.mxc = 0 ∧ w.wct = 0 ∧ w.backoff = 0 ∧ w.level = 0 ∧ w.alloc = 8 * l.regs8

/-- R11, R26, R221, R223, R229, R252, R328, R346: DISPATCH decides broken reservations again, makes room for a guarded launch,
else places the next block of the order of R221, or its four, on the core chosen for it, or binds it to a core that moves: a
block never placed before is there from then on, as its launch says. -/
def Claim.Placements : Prop :=
  ∀ (s : State) (pn : Nat),
    (s.anyBroken pn = true → exec (.dispatch pn) s = .next s.redecide.unhold) ∧
    (∀ l ks, s.anyBroken pn = false → s.guardWaits pn = some (l, ks) →
      exec (.dispatch pn) s = .next (s.guardRoom l ks).unhold) ∧
    (s.anyBroken pn = false → s.guardWaits pn = none → ∀ (p : Pend) (ps : List (Nat × Nat)), s.nextPlace pn = some (p, ps) →
      ((∃ e ∈ ps, s.moveOf e.2 = true) → ∃ t : State, exec (.dispatch pn) s = .next t ∧ t.blocks = s.unhold.blocks ∧
        t.resvs = s.resvs ++ ps.map fun e => { launch := p.l.lid, blk := e.1, core := e.2, cls := p.cls, relies := [] }) ∧
      (∀ k core, ps = [(k, core)] → s.moveOf core = false → s.blockOf p.l.lid k = none →
        ∃ (t : State) (b : Block), exec (.dispatch pn) s = .next t ∧
          b ∈ t.blocks ∧ b.bid = s.nextId ∧ b.kind = .task ∧ b.launch = p.l.lid ∧ b.blk = k ∧ b.core = core ∧
          b.lcore = core ∧ b.pn = p.l.pn ∧ b.ctx = p.l.ctx ∧ b.resid = s.gt ∧ b.lm = 1024 * p.l.localKb ∧
          b.warps.map (fun w => w.alloc) = (p.l.freshWarps k).map (fun w => w.alloc) ∧
          (numLookup t.coreCtx core = some p.l.ctx) ∧ t.mem = s.mem) ∧
      ((∀ e ∈ ps, s.moveOf e.2 = false ∧ s.blockOf p.l.lid e.1 = none) → (ps.map (·.1)).Nodup →
        ∃ t : State, exec (.dispatch pn) s = .next t ∧ t.mem = s.mem ∧ ∀ k core, (k, core) ∈ ps → ∃ b ∈ t.blocks,
          b.kind = .task ∧ b.launch = p.l.lid ∧ b.blk = k ∧ b.core = core ∧ b.lcore = core ∧ b.pn = p.l.pn ∧ b.ctx = p.l.ctx ∧
          b.resid = s.gt ∧ b.lm = 1024 * p.l.localKb ∧
          b.warps.map (fun w => w.alloc) = (p.l.freshWarps k).map (fun w => w.alloc) ∧ numLookup t.coreCtx core = some p.l.ctx))

/-- R58, R164, R259, R357, R359, R361: once every block of its launch has retired, the ordered atomics are applied one after
another, by block and warp, each rounded once, and once no copy of the host and no exclusive lease comes first; the issuing
die's copy of the line goes first, a host line's dirty bytes written back; one that reaches no one is dropped and counted,
and one on a soft error changes nothing (log 26). -/
def Claim.OrderedApplied : Prop :=
  ∀ (s : State) (l : Launch), s.launch? l.lid = some l → l.state = .ready → (∀ k, k < l.nblk → s.blkRetired l k = true) →
    l.ords ≠ [] → ∃ es : List OrdEntry, es.Perm l.ords ∧
      es.Pairwise (fun a b => a.blk < b.blk ∨ (a.blk = b.blk ∧ a.w ≤ b.w)) ∧
      (∀ k w, es.filter (fun e => e.blk == k && e.w == w) = l.ords.filter fun e => e.blk == k && e.w == w) ∧
      let apply (u : State) (e : OrdEntry) : State :=
        if !u.reachable e.loc then u.failedAt e.loc
        else if u.badAt e.loc 4 then u
        else
          let v := if e.mt = 0 then u.dropCopy (.rdc e.die) (lineOf e.loc) else u.flushLine e.die (lineOf e.loc)
          (v.store e.loc 4 ((atomNew e.op (BitVec.ofNat 128 (v.load e.loc 4)) (e.y.setWidth 128) 0).toNat % 2 ^ 32)).touchSlots
            e.loc 4
      ∃ e rest, es = e :: rest ∧
        let free := s.snooped e.loc 4 = false ∧ ∀ x ∈ s.xleases, x.line = lineOf e.loc → x.expiry ≤ s.gt
        (free → exec (.orderedAtomicApply l.lid) s = .next ((apply s e).modLaunch l.lid fun k => { k with
          ords := rest, wct := max k.wct (max s.gt (s.leaseOf (lineOf e.loc))) }).settleLocks.unhold) ∧
        (¬ free → exec (.orderedAtomicApply l.lid) s = .next s)

/-- R262, R335, R336: a launch ends once its blocks have retired, its ordered atomics are applied and GT has reached the
completion times of its stores: on every die of its partition its host lines are written back, its done record has status 1,
the GT and no reason, and its interrupt is raised. -/
def Claim.LaunchesEnd : Prop :=
  ∀ (s : State) (l : Launch), s.launch? l.lid = some l → s.mayEnd l = true →
    let u := (s.modLaunch l.lid fun k => { k with state := .ended, endGt := s.gt }).headPassed l
    let v := (u.diesOf l.pn).foldl (fun s d => s.sysRelease d l.pn l.ctx) u
    let i (t : State) : State := if l.flags.getLsbD 5 then t.raise ((u.csr (.part l.pn) 0x03C8).toNat % 2048 + 1) else t
    let e (t : State) : State := { t with lineBufs := t.lineBufs.filter fun e => e.pn != l.pn }.settleLocks.unhold
    (l.done = 0 → exec (.launchEnd l.lid) s = .next (e (i v))) ∧
    (∀ p, l.done ≠ 0 → v.translate none l.pn l.ctx l.done.toNat .write = .ok p → v.reachable p.loc = true →
      exec (.launchEnd l.lid) s = .next (e (i (((v.openHome p.loc 16).storeCells
        (cellsAt p.loc 8 s.gt ++ cellsAt (p.loc + 8) 8 1)).touchSlots p.loc 16)))) ∧
    (∀ k ∈ s.launches, k.lid ≠ l.lid → k.flags.getLsbD 4 = true → k.state = .known → k.die = l.die → k.queue = l.queue →
      { k with readyGt := s.gt } ∈ u.launches)

/-! ### Blocks that stop, are saved and retire -/

/-- R210, R237: at the stop deadline every warp that has not stopped is stopped where it is. -/
def Claim.Deadlines : Prop :=
  ∀ (s : State) (b : Block), s.block? b.bid = some b → b.stopFor ≠ none → b.deadline ≤ s.gt →
    b.warps.all Warp.hasStopped = false → ∃ (t : State) (c : Block), exec (.stopDeadline b.bid) s = .next t ∧
      t.block? b.bid = some c ∧ c.warps.length = b.warps.length ∧ c.warps.all Warp.hasStopped = true ∧ c.life = b.life ∧
      ∀ i w, b.warp? i = some w → ∃ y, c.warp? i = some y ∧ y.stop = (if w.hasStopped then w.stop else .forced) ∧
        y.stopped = (if w.hasStopped then w.stopped else ~~~w.endedMask)

/-- R36, R209, R246, R349: a block stopped for eviction is saved once its warps have stopped and drained: it is Evicted, the
registers its live masks do not name are not kept, and its records wait for it. -/
def Claim.Evictions : Prop :=
  ∀ (s : State) (b : Block), s.block? b.bid = some b → b.life = .stopped → b.stopFor = some .eviction → s.stopDone b = true →
    b.kind = .task → (∀ k ∈ s.blocks, k.bid = b.bid → k = b) → ∃ (t : State) (c : Block), exec (.evictionSaveComplete b.bid) s = .next t ∧ t.block? b.bid = some c ∧
      c.life = .evicted ∧ c.marked = false ∧ c.stopFor = none ∧ c.win = b.win ∧ t.mem = s.mem ∧
      (∀ q r i, (b.core, q, r) ∈ s.records → b.warpOfHandle r.handle = some i → (i, r) ∈ c.stash) ∧
      (∀ e ∈ t.records, e ∈ s.records ∧ ¬ (e.1 = b.core ∧ (b.warpOfHandle e.2.2.handle).isSome = true)) ∧
      c.warps.length = b.warps.length ∧
      ∀ i w, b.warp? i = some w → ∃ y, c.warp? i = some y ∧ ∀ l : Lane,
        (y.thread l).pc = (w.thread l).pc ∧ (y.thread l).life = (w.thread l).life ∧
        ∀ r : VReg, (r.toNat < w.alloc → s.liveMask b (s.stopIndex b w l) / 2 ^ r.toNat % 2 = 1) →
          (y.thread l).reg r = (w.thread l).reg r

/-- R118: a warp whose threads have ended, with every counter at 0, releases its slot; with its last slot the block
retires. -/
def Claim.Releases : Prop :=
  ∀ (s : State) (b : Block) (i : Nat) (w : Warp), s.block? b.bid = some b → b.warp? i = some w → b.resident = true →
    w.released = false → (∀ l, (w.thread l).life = .ended) → w.ldc = 0 → w.stc = 0 → w.cpc = 0 → w.mxc = 0 →
    let rest := (b.modWarp i fun w => { w with released := true, note := none })
    (rest.warps.all (·.released) = false → exec (.warpSlotRelease b.bid i) s = .next (s.modBlock b.bid fun _ => rest).unhold) ∧
    (rest.warps.all (·.released) = true → ∃ t : State, exec (.warpSlotRelease b.bid i) s = .next t ∧
      t.block? b.bid = none ∧ t.mem = s.mem ∧
      (∀ l, s.launch? b.launch = some l → ∃ k, t.launch? b.launch = some k ∧ k.retiredBlks = l.retiredBlks ++ [b.blk]))


/-! ### Churn -/

/-- R318 to R320, R322, R411: a tick samples the temperatures of the island's five physical clusters (free values, log 4);
where the hottest cluster is then 6 °C or more above the dark one, an island that may move begins to move it: MOVING sets, and
the blocks of the cluster are asked to stop, one that is Placed staying so; any other tick changes nothing more. -/
def Claim.ChurnTicks : Prop :=
  (∀ (s : State) (island : Nat), s.churnDue island = true →
    let u : State := State.sampleTemps { s with ticked := numSet s.ticked island s.gt } island
    (numLookup u.ticked island = some s.gt ∧ { u with ticked := s.ticked, tele := s.tele, free := s.free } = s ∧
      ∀ p c, (c ≠ 7 ∨ p < 5 * island ∨ 5 * island + 5 ≤ p) → u.teleOf p c = s.teleOf p c) ∧
    exec (.churnTick island) s = .next
      (if s.mayMove island && u.hotEnough island then (u.startMove island (u.hottest island)).unhold else u)) ∧
  (∀ (u : State) (island : Nat),
    let temp := fun p => u.clusterTemp island p
    let m := u.locmap island
    u.hottest island < 4 ∧ (∀ k, k < 4 → temp (locPhys m k) ≤ temp (locPhys m (u.hottest island))) ∧
      (u.hotEnough island = true ↔ 24 ≤ temp (locPhys m (u.hottest island)) - temp (locDark m))) ∧
  ∀ (u : State) (island j : Nat), u.locmap island < 2 ^ 32 →
    let m := u.locmap island
    let t := (u.startMove island j).unhold
    t.ticked = u.ticked ∧ t.mem = u.mem ∧
      t.moves = u.moves ++ [{ island := island, pos := j, src := locPhys m j, dst := locDark m, sent := false }] ∧
      t.locmap island = locMoving m true ∧
      ∀ b ∈ t.blocks, clusterOfCore b.core = 4 * island + j → b.isSteward = false → b.stopFor = none →
        b.life ≠ .running ∧ b.life ≠ .placed

/-- R321: the map after a move: the two clusters change places, MOVES rises modulo 4,096, MOVING is clear, the other
positions and the fuse bit stay. -/
def Claim.MapSwitch : Prop :=
  ∀ m j, m < 2 ^ 32 → j < 4 → let n := locSwitched m j
    locPhys n j = locDark m ∧ locDark n = locPhys m j ∧ (∀ k, k < 4 → k ≠ j → locPhys n k = locPhys m k) ∧
    n / 2 ^ 12 % 4096 = (m / 2 ^ 12 + 1) % 4096 ∧ n / 2 ^ 30 % 2 = 0 ∧ n / 2 ^ 31 = m / 2 ^ 31 ∧ n < 2 ^ 32

/-- R320, R322, R323, R327, R328: the transfer marks the stopped blocks of the cluster as moving; with the end of the move
the destination takes the rail, the map switches, and the blocks are again what they were: running, halted or Placed (those
that an eviction or a context switch waits for stop for it). -/
def Claim.ChurnMoves : Prop :=
  ∀ (s : State) (m : Move), s.moves.find? (fun k => k.island == m.island) = some m →
    (m.sent = false → s.moveReady m = true → ∃ t : State, exec (.churnMoveTransfer m.island) s = .next t ∧
      t.mem = s.mem ∧ t.moves.find? (fun k => k.island == m.island) = some { m with sent := true } ∧
      ∀ b ∈ s.movers m, s.block? b.bid = some b → ∃ c, t.block? b.bid = some c ∧
        c.life = (if b.life = .placed then .placed else .moving)) ∧
    (m.sent = true → let cluster := 4 * m.island + m.pos
      ∃ t : State, exec (.churnMoveComplete m.island) s = .next t ∧
      t.moves = s.moves.filter (fun k => k.island != m.island) ∧
      (s.locmap m.island < 2 ^ 32 → m.pos < 4 → t.locmap m.island = locSwitched (s.locmap m.island) m.pos) ∧
      t.rails.contains (5 * m.island + m.dst) = s.rails.contains (5 * m.island + m.src) ∧
      (∀ c ∈ t.copies, ∀ i, i < 4 → c.place ≠ s.l1Of (4 * cluster + i)) ∧
      (∀ e ∈ t.tlb, ∀ i, i < 4 → s.tlbsOf (some (4 * cluster + i)) e.place = false) ∧
      (∀ x ∈ t.xleases, clusterOfCore x.core ≠ cluster) ∧
      ((∀ w ∈ s.switches, clusterOfCore w.core ≠ cluster) → ∀ b ∈ s.movers m, s.block? b.bid = some b → b.marked = false →
        ∃ c, t.block? b.bid = some c ∧
          c.life = (if b.life = .moving then (if b.stopFor = some .halt then .halted else .running) else b.life)))

/-! ### Contexts, slices, switches -/

/-- R330, R340, R386: VALID of a context sets with its descriptor's root and save area, where the descriptor is as R340
and R386 say, and not where it lies outside the partition's regions; SUSP is written as given. -/
def Claim.ContextControl : Prop :=
  ∀ (s : State) (pn ctx : Nat),
    (let a := s.csrAddr (.part pn) (0x0410 + 2 * ctx)
      let f (o : Nat) : Nat := s.load (s.devLoc a + o) 8
      (s.ownsRange pn a 32 = false → exec (.ctxCreate pn ctx) s = .next { s with booted := true }) ∧
      (s.ownsRange pn a 32 = true → f 0 % 65536 = 0 → f 8 % 65536 = 0 → f 24 = 0 → s.ownsRange pn (f 0) 65536 = true →
      (f 16 = 0 ∨ s.ownsRange pn (f 8) (f 16) = true) → (∀ c, s.ctx? pn ctx = some c → c.valid = false) →
      ∃ (t : State) (c : Context), exec (.ctxCreate pn ctx) s = .next t ∧ t.ctx? pn ctx = some c ∧ c.valid = true ∧
        c.ptroot = f 0 ∧ c.save = f 8 ∧ c.savesz = f 16 ∧ t.booted = true ∧ t.mem = s.mem ∧
        ∀ p k, (p, k) ≠ (pn, ctx) → t.ctx? p k = s.ctx? p k)) ∧
    (∃ (t : State) (c : Context), exec (.ctxSuspend pn ctx false) s = .next t ∧ t.ctx? pn ctx = some c ∧ c.susp = false) ∧
    (∃ (t : State) (c : Context), exec (.ctxSuspend pn ctx true) s = .next t ∧ t.ctx? pn ctx = some c ∧ c.susp = true ∧
      ∀ core ∈ s.coresOf pn, s.running core = some ctx → t.switching core = true)

/-- R340: a teardown leaves the context invalid, with no copy command, capability or live launch, and no block but those over
whose accesses are still in flight. -/
def Claim.Teardowns : Prop :=
  ∀ (s : State) (pn ctx : Nat) (c : Context), s.ctx? pn ctx = some c → c.valid = true → ∃ (t : State) (d : Context),
    exec (.ctxTeardown pn ctx) s = .next t ∧ t.ctx? pn ctx = some d ∧ d.valid = false ∧ d.caps = [] ∧
      (∀ b ∈ t.blocks, b.pn = pn → b.ctx = ctx → b.isSteward = true ∨
        (b.life = .retired ∧ ∀ w ∈ b.warps, w.released = true)) ∧
      (∀ k ∈ t.cmds, ¬ (k.pn = pn ∧ k.ctx = ctx)) ∧
      ∀ l ∈ t.launches, l.pn = pn → l.ctx = ctx → l.live = false

/-- R341: at the end of a slice each core whose context is not guarded switches to the next context that has work for it. -/
def Claim.Slices : Prop :=
  ∀ (s : State) (pn : Nat), s.sliceDue pn = true →
    let u : State := { s with sliced := numSet s.sliced pn s.gt }
    ((s.csr (.part pn) 0x0400).getLsbD 31 = false → exec (.sliceTick pn) s = .next u) ∧
    ((s.csr (.part pn) 0x0400).getLsbD 31 = true →
      exec (.sliceTick pn) s = .next ((s.coresOf pn).foldl (State.sliceCore pn) u).unhold) ∧
    (∀ core cur c, s.running core = some cur → s.dieHeld (dieOfCore core) = false → s.switching core = false →
      s.guardCtx pn ≠ some cur → s.nextCtx pn core cur = some c → s.sliceCore pn core = s.startSwitch core (some c)) ∧
    (∀ core cur c, s.nextCtx pn core cur = some c →
      let work (k : Nat) : Prop := s.ctxRuns pn k = true ∧
        (s.outOver core pn k ≠ [] ∨ ∃ p ∈ s.pending pn, p.l.ctx = k ∧ core ∈ s.coreSetOf p.l p.k)
      work c ∧ ∃ i, i < 15 ∧ c = (cur + i + 1) % 16 ∧ ∀ j, j < i → ¬ work ((cur + j + 1) % 16))

/-- R340 to R342, R246: a switch completes once every block on the core has stopped: they are switched out, halted or not, the
standby is left over the core, and the incoming context's blocks come back, which run on, stay halted, or stop for an eviction
that was asked for meanwhile; with no room for what goes out, nothing is switched. -/
def Claim.Switches : Prop :=
  ∀ (s : State) (core : Nat) (w : Switch), s.switches.find? (fun e => e.core == core) = some w → s.moveOf core = false →
    (∀ b ∈ s.onCore core, s.stopDone b = true) →
    let pn := s.pnOfDie (dieOfCore core)
    (s.standby pn core w (s.onCore core) = none →
      exec (.contextSwitchComplete core) s = .next (s.cancelSwitch core).unhold) ∧
    (∀ c, s.standby pn core w (s.onCore core) = some c → ∃ u : State, u.switching core = false ∧ u.running core = none ∧
      numLookup u.cellar core = c ∧
      (∀ b ∈ s.onCore core, s.block? b.bid = some b → ∃ d h, u.block? b.bid = some d ∧ d.life = .switchedOut h ∧
        (s.onCore core = [b] → h = (b.life == .halted))) ∧
      (w.into = none → exec (.contextSwitchComplete core) s = .next u.settleLocks.unhold) ∧
      (∀ x, w.into = some x → exec (.contextSwitchComplete core) s =
        .next ((if u.ctxRuns pn x then u.bringBack core pn x else u).settleLocks.unhold))) ∧
    (∀ (u : State) (x : Nat), u.backOk core (u.outOver core pn x) = true → (u.bringBack core pn x).running core = some x ∧
      ∀ b ∈ u.outOver core pn x, u.block? b.bid = some b → ∃ c, (u.bringBack core pn x).block? b.bid = some c ∧
        c.life = (if b.life = .switchedOut true then .halted else if b.marked then .stopped else .running))

/-! ### Cards and reorder units -/

/-- R281, R282, R285: an entry that can go on leaves its slice for its card's ring, with the ready time it carries, or fails
with the first cause that holds. -/
def Claim.SlicesForward : Prop :=
  ∀ (s : State) (e : SliceEntry), s.forwardable e.slice = [e] →
    let freed : State := { s with slices := s.slices.erase e }
    let k? := s.cards.find? fun k => k.pn == e.pn && k.loc == e.loc
    (k? = none → exec (.sliceForward e.slice) s = .next (freed.failEntry e 1 e.pn).settleLocks.unhold) ∧
    (∀ k, k? = some k →
      (k.gen ≠ e.card → exec (.sliceForward e.slice) s = .next (freed.failEntry e 2 e.pn).settleLocks.unhold) ∧
      (k.gen = e.card → s.launchRight e = false →
        exec (.sliceForward e.slice) s = .next (freed.failEntry e 3 e.pn).settleLocks.unhold) ∧
      (k.gen = e.card → s.launchRight e = true → k.ring = false →
        exec (.sliceForward e.slice) s = .next (freed.failEntry e 4 e.pn).settleLocks.unhold) ∧
      (∀ c, k.gen = e.card → s.launchRight e = true → k.ring = true → k.total - k.released < 2 ^ k.ringl →
        s.translate none k.pn k.ctx (k.va + k.rbase + BitVec.ofNat 64 (16 * (k.total % 2 ^ k.ringl))).toNat .write = .error c →
        exec (.sliceForward e.slice) s = .next (freed.failEntry e 5 e.pn).settleLocks.unhold) ∧
      (∀ p, k.gen = e.card → s.launchRight e = true → k.ring = true → k.total - k.released < 2 ^ k.ringl →
        s.translate none k.pn k.ctx (k.va + k.rbase + BitVec.ofNat 64 (16 * (k.total % 2 ^ k.ringl))).toNat .write = .ok p →
        ∃ ready, (e.carried ≤ ready ∧ s.gt ≤ ready) ∧ exec (.sliceForward e.slice) s =
          .next ((freed.writeOwn p.loc 16
            (cellsAt p.loc 8 e.va.toNat ++ cellsAt (p.loc + 8) 4 e.old.toNat ++ cellsAt (p.loc + 12) 4 e.new.toNat)).modCard
            k.gen fun k => { k with total := k.total + 1, ready := k.ready ++ [ready] }).settleLocks.unhold))

/-- R283, R286, R393: a ring card with records ready for more blocks than have not yet dealt launches one more, in its class,
while no die of its partition is held. -/
def Claim.RingTasks : Prop :=
  ∀ (s : State) (k : Card) (lid : Nat) (l : Launch), s.card? k.gen = some k → k.launch = some lid → s.launch? lid = some l →
    k.ring = true → k.live.length < k.maxblk → (k.live.filter fun e => !e.2).length < k.readyCount s.gt →
    s.ctxOut k.pn k.ctx = false → (∀ d ∈ s.diesOf k.pn, s.dieHeld d = false) → ∃ (t : State) (c : Card) (m : Launch), exec (.ringTaskLaunch k.gen) s = .next t ∧
      t.card? k.gen = some c ∧ c.live = k.live ++ [(l.nblk, false)] ∧ t.launch? lid = some m ∧ m.nblk = l.nblk + 1 ∧
      m.late = l.late ++ [{ blk := l.nblk, cls := k.cls, order := s.nextId }] ∧ t.mem = s.mem

/-- R240, R241, R243, R393: a bin that is full, or old, or whose launch has retired departs, unless its cluster moves, its die
is held or its context is off it: it becomes one pending block of one warp with its payloads in deposit order, of a ring's
launch or of the batch in progress, else of a launch of its own; the card it takes where the binding is gone is log 31's. -/
def Claim.BinsDepart : Prop :=
  ∀ (s : State) (b : Bin), s.bins.find? (fun e => e.id == b.id && e.cluster == b.cluster) = some b →
    (b.deps.length = 32 ∨ s.launchRetired b.launch = true ∨ b.first + 10000 ≤ s.gt) →
    s.dieHeld (b.cluster / 32) = false → s.moveOf (4 * b.cluster) = false → s.ctxRuns b.card.pn b.card.ctx = true →
    s.outOf ((List.range 4).map (4 * b.cluster + ·)) b.card.pn b.card.ctx = false → ∃ t : State, exec (.reorderBinDepart b.cluster b.id) s = .next t ∧
      (∀ e ∈ t.bins, e.id ≠ b.id) ∧ t.mem = s.mem ∧
      let st : BinStart :=
        { cluster := b.cluster, key := b.key, payloads := b.deps.map (·.1), start := (b.deps.map (·.2)).foldl max 0 }
      (s.card? b.card.gen = none → ∃ l ∈ t.launches, l.lid = s.nextId ∧ l.nblk = 1 ∧ l.entry = b.card.entry ∧
        l.binOf 0 = some st) ∧
      (∀ k, s.card? b.card.gen = some k → k.ring = false → s.batchOn k = false → ∃ l ∈ t.launches, l.lid = s.nextId ∧
        l.nblk = 1 ∧ l.entry = k.entry ∧ l.binOf 0 = some st) ∧
      (∀ k lid l, s.card? b.card.gen = some k → (k.ring = true ∨ s.batchOn k = true) → k.launch = some lid →
        s.launch? lid = some l →
        ∃ m, t.launch? lid = some m ∧ m.nblk = l.nblk + 1 ∧
          m.late = l.late ++ [{ blk := l.nblk, cls := k.cls, order := s.nextId, bin := some st }])


/-! ### Copies -/

/-- R289, R294: commands of a core begin in the order of issue; NLB empties the engine's line buffers first. -/
def Claim.CopiesBegin : Prop :=
  ∀ (s : State) (id : Nat) (c : Copy) (b : Block), Commanded s id c b → c.stage = .queued → b.frozen = false →
    (∀ e ∈ s.cmds.takeWhile (fun e => e.id != id), e.stage = .queued → ∀ k, s.block? e.bid = some k →
      k.core = b.core → s.enginesRun k = false ∨ k.frozen = true) →
    ∃ t : State, exec (.copyBegin id) s = .next t ∧ t.cmd? id = some { c with stage := .begun } ∧
      { t with cmds := s.cmds, lineBufs := s.lineBufs } = s ∧
      (∀ e, e ∈ t.lineBufs ↔ e ∈ s.lineBufs ∧ ((copyHead c.raw).nlb = true → e.core ≠ s.physCore b.core))

/-- R213, R289, R293, R298, R304, R404: a unit whose burst has no energy asks for 48 units; else missing bytes of it move, any
of them and at least one where one can, each by itself from its source to its windows or its home: the state is what moving
them one after another leaves, and the unit is done with the last of them. A row of an image is fetched before an element of
it moves. -/
def Claim.CopyUnits : Prop :=
  (∀ (s : State) (id k : Nat) (c : Copy) (b : Block), Commanded s id c b → c.stage = .begun →
    k < unitCount c.kind c.raw → k ∉ c.done →
    let u := unitOf c.kind c.raw c.idx k
    (c.paid ≤ c.bytes → exec (.copyGranuleFilled id k) s = .next (s.askEnergy (clusterOfCore b.core) (.copy c.id) 48)) ∧
    (c.bytes < c.paid → exec (.copyGranuleFilled id k) s = .next (s.moveUnit b c k).settleLocks.unhold) ∧
    (u.src = .skip → s.moveUnit b c k = s.modCmd c.id fun e => { e with done := insertRising k e.done }) ∧
    (∀ y off, u.src = .row y off → (∀ e, s.bufferedRow b.core c y = some e → e.whole = false) →
      s.moveUnit b c k = s.fetchRow b.core c y) ∧
    (u.src ≠ .skip → (∀ y off, u.src = .row y off → ∃ e, s.bufferedRow b.core c y = some e ∧ e.whole = true) →
      ∃ (free : Nat) (js : List Nat), js.Nodup ∧ (∀ j ∈ js, j ∈ c.missing k u) ∧ (
        let v : Moved := ⟨{ s with free := free }, [], 0, false⟩
        let m := js.foldl (Moved.byte b.core c u) v
        let e := c.after k u m
        ((∃ j ∈ c.missing k u, (v.byte b.core c u j).js ≠ []) → m.js ≠ []) ∧
        s.moveUnit b c k = if m.js = [] then { s with free := free } else (m.s.modCmd c.id fun _ => e).fillDone e k u m.js)) ∧
    ∃ (e : Copy) (js : List Nat), (s.moveUnit b c k).cmd? id = some e ∧ (∀ j ∈ js, j ∈ c.missing k u) ∧
      e.bytes = c.bytes + js.length * (if (copyHead c.raw).dstl then c.dsts.length else 1) ∧ c.cgt ≤ e.cgt ∧
      (∀ i ∈ c.done, i ∈ e.done) ∧
      (k ∈ e.done → u.src = .skip ∨ ∀ j, j < u.n → c.movedMask k / 2 ^ j % 2 = 1 ∨ j ∈ js)) ∧
  ∀ (core j : Nat) (c : Copy) (u : CopyUnit) (m : Moved) (v : Byte) (s : State), m.s.srcByte core c u j = .ok (some (v, s)) →
    let n := m.byte core c u j
    (∀ va, u.src = .glob va → ∃ p, m.s.copyByte core c (va + j) .read = .ok p ∧ v = memRead m.s.mem p.loc ∧ s.mem = m.s.mem) ∧
    (∀ off w base, u.src = .win off → c.src = some (w, base) →
      v = BitVec.ofNat 8 (m.s.winRead w (base + off + j) 1) ∧ s = m.s) ∧
    (∀ p, (copyHead c.raw).dstl = false → m.s.dstByte core c u j = .ok p → s.byteHeld core p true = false →
      s.reachable p.loc = true → memWf s.mem = true →
      n.js = m.js ++ [j] ∧ memRead n.s.mem p.loc = v ∧ (∀ a, a ≠ p.loc → memRead n.s.mem a = memRead s.mem a) ∧
      m.t ≤ n.t ∧ s.gt ≤ n.t ∧ n.host = (m.host || p.mt == 1 || p.mt == 2)) ∧
    ((copyHead c.raw).dstl = true → (∀ d ∈ c.dsts, s.windowHere d.1 = true) →
      n.js = m.js ++ [j] ∧ n.s = c.dsts.foldl (fun s d => s.winWrite d.1 [(d.2 + u.dst + j, v)]) s)

/-- R180, R300: once every unit has been moved, the record's bytes are written, TOKEN last; the command leaves, and CPC
falls by 1, once GT has reached the completion GT. -/
def Claim.CopiesComplete : Prop :=
  ∀ (s : State) (id : Nat) (c : Copy), s.cmd? id = some c →
    let ended (u t : State) : Prop := (t.cmd? id = none ∧ t.mem = u.mem ∧
      ∀ w, s.warp? c.bid c.w = some w → ∃ y, t.warp? c.bid c.w = some y ∧ y.cpc = w.cpc - 1)
    (c.stage = .recorded → c.cgt ≤ s.gt → ∃ t : State, exec (.copyComplete id) s = .next t ∧ ended s t) ∧
    (c.stage = .recorded → s.gt < c.cgt → exec (.copyComplete id) s = .next s) ∧
    (∀ b, c.stage = .begun → c.done.length = unitCount c.kind c.raw → s.block? c.bid = some b → s.enginesRun b = true →
      let u := s.writeRecord c 0 0 c.cgt
      (c.cgt ≤ s.gt → ∃ t : State, exec (.copyComplete id) s = .next t ∧ ended u t) ∧
      (s.gt < c.cgt → ∃ t : State, exec (.copyComplete id) s = .next t ∧ t.mem = u.mem ∧
        t.cmd? id = some { c with stage := .recorded }) ∧
      (memWf s.mem = true → s.reachable c.recAt = true → u.load c.recAt 4 = c.token.toNat ∧ u.load (c.recAt + 8) 8 = c.bytes % 2 ^ 32 ∧
        (c.cgt < 2 ^ 64 → u.load (c.recAt + 16) 8 = c.cgt) ∧ u.load (c.recAt + 4) 1 = 0))

/-- R301, R350, R359: a command with a byte that faults stops: its record has status 1 and the fault's code, and the fault log
one entry of the fault's address; a source byte that no port or link reaches counts as an error of it. -/
def Claim.CopiesFault : Prop :=
  ∀ (s : State) (id : Nat) (c : Copy) (b : Block), Commanded s id c b → c.stage = .begun →
    c.done.length ≠ unitCount c.kind c.raw →
    let f := (s.copyFaultOf b c).getD { code := 0x14, addr := (copyHead c.raw).src }
    exec (.copyFault id) s = .next (((f.lost.elim s s.failedAt).recordCmd c 1 f.code.toNat (max c.cgt s.gt)).flog c.pn c.ctx
      { code := f.code, sub := 0, source := 1, obj := c.ring, addr := BitVec.ofNat 64 f.addr, detail := c.token.setWidth 64
        tag := BitVec.ofNat 64 (copyTag c.raw) }).unhold

/-! ### Matrix engines -/

/-- R307, R309 to R311, R404: a grant takes the candidate of R310, where R309 lets it begin; one that costs energy waits for
it, any other begins: it reads the window, its block becomes the owner, and the skip counts of the other blocks' candidates
rise. -/
def Claim.MatrixGrants : Prop :=
  ∀ (s : State) (cluster : Nat) (m : MxEntry) (b : Block),
    let e := s.engine cluster
    (∀ k ∈ e.entries, k.stage ≠ .chosen) → s.chooseEntry e = some m → s.block? m.bid = some b → b.cluster = cluster →
    (e.mayBegin m = false → exec (.matrixGrant cluster) s = .next s) ∧
    (e.mayBegin m = true → mxCost b m ≠ 0 → ∃ t : State, exec (.matrixGrant cluster) s = .next t ∧
      (∃ k ∈ (t.engine cluster).entries, k.id = m.id ∧ k.stage = .chosen) ∧
      (∃ r ∈ t.ereqs, r.use = .matrix m.id) ∧ (t.engine cluster).owner = e.owner) ∧
    (e.mayBegin m = true → mxCost b m = 0 → exec (.matrixGrant cluster) s = .next (s.beginEntry b m)) ∧
    (let t := s.beginEntry b m;
      t.ereqs = s.ereqs ∧ (t.engine cluster).owner = some b.bid ∧
      (∃ k ∈ (t.engine cluster).entries, k.id = m.id ∧
        k.stage = if k.op = 2 ∨ k.op = 3 then .run false b.win else .working b.win) ∧
      ∀ k ∈ e.entries, k.id ≠ m.id →
        let passed := (s.candidates e).any (fun o => o.bid != m.bid && o.id == k.id)
        { k with skip := if passed then k.skip + 1 else k.skip } ∈ (t.engine cluster).entries)

/-- R193, R212, R314, R315 and, for a rerun that finds a FORMAT or a FAULT, log 38: a pass ends in FORMAT or FAULT, or, where its residues match and it has read no soft error, commits
its rows with status 0, or 1 for a rerun; one that fails is run again with its operands read anew, and after the rerun ends
with status 2 and rows that are not to be trusted. A granule stored to meanwhile is read in its old or its new content. -/
def Claim.MatrixRuns : Prop :=
  (∀ (s : State) (cluster : Nat) (m : MxEntry) (b : Block) (again ok : Bool) (win : List Host.Cell),
    (s.engine cluster).entries.find? (fun k => (match k.stage with | .run _ _ => true | _ => false)) = some m →
    m.stage = .run again win → s.block? m.bid = some b →
    let w := (s.mixWin win b.win).1
    let u := (s.mixWin win b.win).2
    let out := passCheck m.op w b.lm m.raw
    let rows := passRows m.op w b.lm m.raw b.eng
    let good := ok && residuesMatch m.op w b.lm m.raw b.eng && !readsBad m.op m.raw b.eng
    (out ≠ 0 → exec (.matrixRunComplete cluster ok) s = .next (u.endEntry b m out)) ∧
    (out = 0 → good = true → exec (.matrixRunComplete cluster ok) s = .next
      ((u.modEng b.bid fun c => { c with
        acc := rows.foldl (fun acc r => setRow acc r.1 r.2) c.acc
        badAcc := c.badAcc.filter fun k => !(rows.any fun r => r.1 == k) }).endEntry b m (if again then 1 else 0))) ∧
    (out = 0 → good = false → again = true → ∃ free : List (Nat × List Word), free.map (·.1) = rows.map (·.1) ∧
      let v := if readsBad m.op m.raw b.eng then u.logMatrix b m else u
      exec (.matrixRunComplete cluster ok) s = .next
        (State.endEntry { (v.modEng b.bid fun c => c.commit free) with free := u.free + 128 * rows.length } b m 2)) ∧
    (out = 0 → good = false → again = false → ∃ t : State, exec (.matrixRunComplete cluster ok) s = .next t ∧
      t.blocks = s.blocks ∧ t.mem = s.mem ∧
      ∀ k ∈ (t.engine cluster).entries, k.id = m.id → k.stage = .run true b.win)) ∧
  ∀ (s : State) (old new : List Host.Cell), { (s.mixWin old new).2 with free := s.free } = s ∧
    (memWf old = true → memWf new = true → ∀ g, let w := (s.mixWin old new).1
      (∀ i, i < 16 → memRead w (16 * g + i) = memRead old (16 * g + i)) ∨
      ∀ i, i < 16 → memRead w (16 * g + i) = memRead new (16 * g + i))

/-- R190, R192, R193, R315: an operation other than a pass has its effect when it completes, unless it ends in FORMAT or FAULT:
MXLDS loads the shadow plane, MXSWP swaps the planes, MXZ zeroes the accumulators, MXDRN stores its rows into the window. -/
def Claim.MatrixOperations : Prop :=
  ∀ (s : State) (cluster : Nat) (m : MxEntry) (b : Block) (win : List Host.Cell),
    (s.engine cluster).entries.find? (fun k => (match k.stage with | .working _ => true | _ => false)) = some m →
    m.stage = .working win → s.block? m.bid = some b →
    let w := (s.mixWin win b.win).1
    let u := (s.mixWin win b.win).2
    let ends (out : Nat) (v : State) : Prop := exec (.matrixOperationComplete cluster) s = .next (v.endEntry b m out)
    (m.op = 0 → mxFieldsOk 0 m.raw = false → ends 3 u) ∧
    (m.op = 0 → mxFieldsOk 0 m.raw = true → loadPlane w b.lm m.raw = none → ends 4 u) ∧
    (∀ p, m.op = 0 → mxFieldsOk 0 m.raw = true → loadPlane w b.lm m.raw = some p →
      ends 0 (u.modEng b.bid fun c => { c with shadow := p })) ∧
    (m.op = 1 → ends 0 (u.modEng b.bid fun c => { c with active := c.shadow, shadow := c.active })) ∧
    (m.op = 5 → ends 0 (u.modEng b.bid fun c => { c with acc := [], badAcc := [] })) ∧
    (∀ k, m.op = 4 → drainCells b.win b.lm m.raw b.eng = .error k → ends k u) ∧
    (∀ rows, m.op = 4 → drainCells b.win b.lm m.raw b.eng = .ok rows →
      (readsBad 4 m.raw b.eng = true → ends 4 (u.logMatrix b m)) ∧
      (readsBad 4 m.raw b.eng = false → (∀ g, u.fullWaiters b.bid g = []) → ∃ v : State, ends 0 v ∧ v.mem = u.mem ∧
        (v.block? b.bid).map (·.win) =
          some (rows.foldl (fun win r => memWriteAll win (r.2.mapIdx fun i x => (r.1 + i, x))) b.win)))

/-! ### Energy, rails, temperature -/

/-- R402, R404: GT's refills raise every balance below the cap by a quarter of its island's rate each, and never past the
cap. -/
def Claim.Refills : Prop :=
  ∀ (s : State) (die n : Nat), s.refillsDue die = n → n ≠ 0 →
    ∃ t : State, exec (.tokenRefill die) s = .next t ∧ t.refillsDue die = 0 ∧ { t with energy := s.energy, refills := s.refills } = s ∧
      (∀ cluster v, cluster / 32 = die → s.energy.filter (fun e => e.1 == cluster) = [(cluster, v)] →
        t.balance cluster = min (s.energyCap : Int) (v + (n * s.refillShare (cluster / 4) : Nat))) ∧
      ∀ cluster, cluster / 32 ≠ die ∨ s.energy.filter (fun e => e.1 == cluster) = [] → t.balance cluster = s.balance cluster

/-- R317, R405, R411: the oldest request of a cluster is granted once its balance covers it, and the balance pays it; that of
an entry whose block has stopped is given up. -/
def Claim.Grants : Prop :=
  ∀ (s : State) (cluster : Nat) (r : EnergyReq), s.ereqs.find? (fun e => e.cluster == cluster) = some r →
    (s.wantsEnergy r = false → exec (.tokenGrant cluster) s = .next (s.giveUp r).unhold) ∧
    (s.wantsEnergy r = true → (r.cost : Int) ≤ s.balance cluster →
    let paid := (s.payEnergy cluster r.cost (s.gt - r.gt)).dropReq r.use
    (paid.balance cluster = s.balance cluster - r.cost ∧ ∀ e ∈ paid.ereqs, e.use ≠ r.use) ∧
    (∀ id, r.use = .copy id → exec (.tokenGrant cluster) s =
      .next (paid.modCmd id fun c => { c with paid := c.paid + 4096 }).unhold) ∧
    (∀ core quad, r.use = .vector core quad → ∃ t : State, exec (.tokenGrant cluster) s = .next t ∧
      t.burstLeft core quad = 64 ∧ t.balance cluster = s.balance cluster - r.cost) ∧
    (∀ id, r.use = .matrix id → exec (.tokenGrant cluster) s = .next (paid.energyGranted r).unhold))

/-- R403, R406, R411: a droop stretches the cluster's clock, aborts a rail switch and counts; a hop is made once no droop
holds it; a sample is the cluster's temperature. -/
def Claim.Droops : Prop :=
  ∀ (s : State) (cluster : Nat) (temp : Int),
    (∃ t : State, exec (.droopDetect cluster) s = .next t ∧ cluster ∈ t.droops ∧ t.hops = s.hops ∧ t.rails = s.rails ∧
      t.teleOf cluster 3 = s.teleOf cluster 3 + (if cluster ∈ s.droops then 0 else 1) ∧
      t.teleOf cluster 5 = s.teleOf cluster 5 + (if s.hops.any (fun h => s.pcluOf h.1 == cluster) then 1 else 0) ∧
      t.mem = s.mem ∧ t.blocks = s.blocks) ∧
    (cluster ∈ s.droops → ∃ (t : State) (n : Word), exec (.droopRecover cluster) s = .next t ∧ cluster ∉ t.droops ∧
      t.teleOf cluster 4 = s.teleOf cluster 4 + n ∧ { t with droops := s.droops, tele := s.tele, free := s.free } = s) ∧
    (∀ hi, numLookup s.hops cluster = some hi → s.pcluOf cluster ∉ s.droops → ∃ t : State,
      exec (.railSwitch cluster) s = .next t ∧ t.rails.contains (s.pcluOf cluster) = hi ∧ numLookup t.hops cluster = none ∧
      (∀ p, p ≠ s.pcluOf cluster → t.rails.contains p = s.rails.contains p) ∧
      t.teleOf (s.pcluOf cluster) 6 = s.teleOf (s.pcluOf cluster) 6 + 1) ∧
    (∃ t : State, exec (.tempSample cluster temp) s = .next t ∧ t.teleOf cluster 7 = BitVec.ofInt 32 temp ∧
      (∀ p k, (p, k) ≠ (cluster, 7) → t.teleOf p k = s.teleOf p k) ∧ { t with tele := s.tele } = s)


/-! ### Handlers, notifications, trace -/

/-- R347, R348: the oldest record of a quad starts its handler warp, with the record in v0 to v15, once the slot is free and
the record's context runs. -/
def Claim.Invocations : Prop :=
  ∀ (s : State) (core quad : Nat) (r : TrapRecord), s.nextRecord core quad = some r → s.invocationReady core quad = true →
    ∃ (t : State) (b : Block) (w : Warp), exec (.handlerInvocationStart core quad) s = .next t ∧
      t.blocks = s.unhold.blocks ++ [b] ∧ b.kind = .handler core quad (some r) ∧ b.core = core ∧
      b.ctx = r.handle.toNat / 2 ^ 28 ∧ b.life = .running ∧ b.warps = [w] ∧ w.level = 1 ∧ t.records = s.records.erase (core, quad, r) ∧
      (∀ l : Lane, (w.thread l).pc = s.handlerEntry (partOf s core) ∧ (w.thread l).p = 0 ∧ (w.thread l).life = .run ∧
        ∀ v : VReg, (w.thread l).reg v = (r.words[v.toNat]?).getD 0) ∧ r.words.length = 16 ∧ t.mem = s.mem

/-- R351: a note goes to the warp of its handle, ORed into one that waits; with no such warp it is dropped and counted.
It is delivered at a safe point: the warp parks with every live lane (log 34), and a record of kind 1 with the value goes to its handler. -/
def Claim.Notifications : Prop :=
  ∀ (s : State),
    (∀ core (handle : Word), (handle.getLsbD 12 = true ∨ s.namedWarp (partOf s core) handle = none) → ∃ t : State,
      exec (.noteSend core handle) s = .next t ∧
      (t.csr (.part (partOf s core)) 0x03DA).toNat = min (2 ^ 32 - 1) ((s.csr (.part (partOf s core)) 0x03DA).toNat + 1) ∧
      { t with csrs := s.csrs } = s) ∧
    (∀ core (handle : Word) b i w, handle.getLsbD 12 = false → s.namedWarp (partOf s core) handle = some (b, i) →
      b.warp? i = some w → (∃ l, (w.thread l).life ≠ .ended) → s.block? b.bid = some b → ∃ (t : State) (y : Warp),
        exec (.noteSend core handle) s = .next t ∧ t.warp? b.bid i = some y ∧
        y.note = some (w.note.getD 0 ||| s.csr (.core core) 0x03D8) ∧ y.atSafe = false ∧ t.csrs = s.csrs ∧ t.mem = s.mem) ∧
    (∀ b i w, s.block? b.bid = some b → b.warp? i = some w → w.noteReady = true → (b.life = .running ∨ b.life = .placed) →
      s.handlerOn b.pn = true → b.isSteward = false → ∃ (t : State) (y : Warp) (p : Parked) (r : TrapRecord),
        exec (.notificationDeliver b.bid i) s = .next t ∧ t.warp? b.bid i = some y ∧ y.note = none ∧ y.parked = some p ∧
        p.record = r ∧ p.lanes = ~~~w.endedMask ∧ t.records = s.records ++ [(b.core, w.slot / 16, r)] ∧ r.kind = 1 ∧ r.code = 0 ∧
        r.handle = handleOf b w ∧ r.detail = w.note.getD 0)

/-- R379: a period that ends while the trace is on leaves a record at TAIL, which rises by 1; the counts begin again. The
record's idle counts are free values (log 36). -/
def Claim.TracePeriods : Prop :=
  (∀ (s : State) (pn gt : Nat) (t : TraceCount) (p : Xlat),
    let sc := CsrScope.ctx pn t.ctx
    let ctl := s.csr sc 0x0652
    let cap := 2 ^ max 4 (ctl.toNat / 2 ^ 16 % 16)
    let tail := s.csr sc 0x0653
    let u := (s.sysRelease (dieOfCore t.core) pn t.ctx).drawBits.2
    u.translate (some t.core) pn t.ctx (u.csrAddr sc 0x0650 + 64 * (tail.toNat % cap)) .write = .ok p →
    u.reachable p.loc = true →
    let v := s.writeTrace pn t gt
    v.csr sc 0x0653 = tail + 1 ∧
    (memWf s.mem = true → (ctl.getLsbD 30 = true ∨ (tail.toNat + 1) % cap ≠ 0) →
      v.load p.loc 8 = gt % 2 ^ 64 ∧
      v.load (p.loc + 8) 8 = (t.core - 128 * pn + 2 ^ 16 * t.ctx + (if t.moved then 2 ^ 24 else 0) + 2 ^ 32 * t.issue) % 2 ^ 64 ∧
      v.load (p.loc + 16) 4 = t.lanes % 2 ^ 32 ∧
      ∀ k n, k < 8 → t.bins[k]? = some n → v.load (p.loc + 32 + 4 * k) 4 = n % 2 ^ 32)) ∧
  ∀ (s : State) (t : TraceCount), s.traces = [t] → s.traceOver t = true → s.running t.core = some t.ctx →
    let pn := partOf s t.core
    let ctl := s.csr (.ctx pn t.ctx) 0x0652
    let p := s.tracePeriod pn t.ctx
    (ctl.getLsbD 31 = false → exec (.tracePeriod t.core) s = .next { s with traces :=
      [{ t with since := s.gt / p * p, issue := 0, lanes := 0, bins := List.replicate 8 0, moved := false }] }) ∧
    (ctl.getLsbD 31 = true →
      let u : State := { s with traces :=
        [{ t with since := (t.since / p + 1) * p, issue := 0, lanes := 0, bins := List.replicate 8 0, moved := false }] }
      exec (.tracePeriod t.core) s = .next (u.writeTrace pn t ((t.since / p + 1) * p)))

/-- R377: a write of TRIG_STAT sets STATE of the context DBG_SEL names, clears CNT, and ends its freeze. -/
def Claim.Triggers : Prop :=
  ∀ (s : State) (core : Nat) (v : Word), let pn := partOf s core
    let ctx := (s.csr (.part pn) 0x0600).toNat % 16
    ∃ t : State, exec (.trigStatWrite core v) s = .next t ∧ t.csr (.ctx pn ctx) 0x063C = v &&& 0xC0000000#32 ∧
      (∀ c, s.ctx? pn ctx = some c → t.ctx? pn ctx = some { c with frozen := false }) ∧ t.mem = s.mem

/-! ### Partitions -/

/-- R384, R389, R391, R396, R399: PART_MAP takes a shape whose moved dies are quiet, else nothing, and the continuations of the dies it affects fail (which dies those are is log 41's); a MEM_IVL register takes the die set
of its partition and marks its region; WELT_OPEN opens a boundary only within a partition. -/
def Claim.PartitionRegisters : Prop :=
  ∀ (s : State) (v : Word),
    ((v.toNat % 256 ∉ [0xE4, 0xE0, 0xA4, 0xA0, 0x00] ∨
        ∃ d, d < 4 ∧ pnUnder s.partMap d ≠ pnUnder (v.toNat % 256) d ∧ s.settled d = false) →
      exec (.partMapWrite v) s = .next s) ∧
    (v.toNat % 256 ∈ [0xE4, 0xE0, 0xA4, 0xA0, 0x00] →
      (∀ d, d < 4 → pnUnder s.partMap d ≠ pnUnder (v.toNat % 256) d → s.settled d = true) → ∃ t : State,
      exec (.partMapWrite v) s = .next t ∧ t.partMap = v.toNat % 256 ∧ (s.booted = true → s.slices = [] → t.mem = s.mem) ∧
      (s.booted = true →
        (∀ e, e ∈ t.slices ↔ e ∈ s.slices ∧ (let d := e.slice / 32
          ¬ (d < 4 ∧ dieSetUnder s.partMap d ≠ dieSetUnder (v.toNat % 256) d ∧
            (pnUnder s.partMap d ≠ pnUnder (v.toNat % 256) d ∨ s.dieHeld d = true)))) ∧
        (∀ d, d ∈ t.changed ↔ d ∈ s.changed ∨ (d < 4 ∧ dieSetUnder s.partMap d ≠ dieSetUnder (v.toNat % 256) d)) ∧
        (∀ d, (∃ p, (d, p) ∈ t.fresh) ↔ (∃ p, (d, p) ∈ s.fresh) ∨
          (d < 4 ∧ dieSetUnder s.partMap d ≠ dieSetUnder (v.toNat % 256) d ∧ s.dieHeld d = true)) ∧
        ∀ e ∈ t.fresh, e ∈ s.fresh ∨ e.2 = pnUnder s.partMap e.1)) ∧
    (∀ region, let d := region % 4
      ((s.settled d = false ∨ v.toNat % 16 ≠ s.dieSet d) → exec (.memIvlWrite region v) s = .next s) ∧
      (s.settled d = true → v.toNat % 16 = s.dieSet d → ∃ t : State, exec (.memIvlWrite region v) s = .next t ∧
        t.csr .module (0x0704 + d) = v &&& 0x7F#32 ∧
        (s.booted = true → s.csr .module (0x0704 + d) ≠ v &&& 0x7F#32 → d ∈ t.marks ∧ d ∈ t.changed) ∧ t.mem = s.mem)) ∧
    (∃ t : State, exec (.weltOpenWrite v) s = .next t ∧ t.mem = s.mem ∧ ∀ i a b, weltPairs[i]? = some (a, b) →
      (t.csr .module 0x0708).getLsbD i =
        if s.settled a = true ∧ s.settled b = true ∧ (v.getLsbD i = true → s.pnOfDie a = s.pnOfDie b) then v.getLsbD i
        else (s.csr .module 0x0708).getLsbD i)

/-- R394, R396, R400: a held die with nothing resident or outstanding becomes quiet; a scrubbed region is zero, and a die runs
again once no region with a slab on it is left to be scrubbed. -/
def Claim.QuietAndScrub : Prop :=
  (∀ (s : State) (d : Nat), d < 4 → s.quietReady d = true → ∃ t : State, exec (.quietReached d) s = .next t ∧ t.dieQuiet d = true ∧
      (∀ e, e < 4 → e ≠ d → t.dieQuiet e = s.dieQuiet e) ∧ t.mem = s.mem) ∧
  ∀ (s : State) (r : Nat), r ∈ s.marks → (∃ d ∈ s.setOf r, s.dieScrub d = true) →
    ∃ t : State, exec (.scrubComplete r) s = .next t ∧ (∀ m, m ∈ t.marks ↔ m ∈ s.marks ∧ m ≠ r) ∧
      (∀ d, d < 4 → s.dieScrub d = true →
        ((∃ m ∈ s.marks, m ≠ r ∧ d ∈ s.setOf m) → t.dieScrub d = true ∧ t.dieHeld d = s.dieHeld d) ∧
        ((∀ m ∈ s.marks, m ≠ r → d ∉ s.setOf m) → t.dieScrub d = false ∧ (d ∉ s.reheld → t.dieHeld d = false) ∧
          (d ∈ s.reheld → d ∉ t.reheld ∧ t.dieHeld d = s.dieHeld d))) ∧
      (s.bells = [] → (∀ b ∈ s.blocks, b.sleepGroups = []) → memWf s.mem = true →
        (∀ a, memRead t.mem a = if s.inRegion r a then 0 else memRead s.mem a) ∧
        (r < 4 → s.setOf r ≠ [] → ∀ pa, pa / regionBytes = r → memRead t.mem (s.devLoc pa) = 0))

/-! ### Identity -/

/-- R413 to R415, R417: the security version only rises, to 64 at most; firmware that passes every check starts its die's
steward core at steward level (log 12), and one that does not keeps its die's in reset; a module reset zeroes device memory and keeps what fuses hold. -/
def Claim.Firmware : Prop :=
  ∀ (s : State),
    (∀ die (v : Word), ∃ t : State, exec (.fwSvnWrite die v) s = .next t ∧
      (t.csr .module 0x0834).toNat = max (s.csr .module 0x0834).toNat (min 64 v.toNat) ∧ { t with csrs := s.csrs } = s) ∧
    (∀ die image, (∀ f ∈ s.firmware, f.die ≠ die % 4) → die % 4 ∉ s.refused →
      exec (.firmwareVerify die image) s = .next (if s.imageOk image then
        State.unhold { s with
          firmware := s.firmware ++ [{ die := die % 4, digest := (image.drop 32).take 32 }]
          blocks := s.blocks ++ [s.stewardBlock (die % 4)], nextId := s.nextId + 1 }
      else { s with refused := s.refused ++ [die % 4] })) ∧
    (∀ image, s.imageOk image = true ↔ imageNat image 0 4 = 0x57464853 ∧ imageNat image 12 4 = 0 ∧ imageNat image 24 8 = 0 ∧
      imageNat image 9957 27 = 0 ∧ 9984 + imageNat image 16 8 ≤ image.length ∧
      xmssVerify Config.iluvalKey (image.take 64) ((image.drop 64).take 9893) = true ∧
      (image.drop 32).take 32 = shake256 (imageBody image) ∧ (s.csr .module 0x0834).toNat ≤ imageNat image 8 4) ∧
    (∀ die, let b := s.stewardBlock die
      b.kind = .steward die ∧ b.core = 512 + die ∧ b.life = .running ∧ ∀ w ∈ b.warps, w.level = 2) ∧
    (∃ t : State, exec .moduleReset s = .next t ∧ t.blocks = [] ∧ t.launches = [] ∧ t.ctxs = [] ∧ t.booted = false ∧
      t.gt = 0 ∧ t.firmware = [] ∧ t.refused = [] ∧ t.attStep = s.attStep + 1 ∧ t.csr .module 0x0834 = s.csr .module 0x0834 ∧
      (memWf s.mem = true → ∀ a, memRead t.mem a = if a < 2 ^ 52 then 0 else memRead s.mem a))

/-- R260, R262, R414, R415: ATT_CMD of 1 starts a report unless a reason refuses it, and is ignored otherwise; a report that is
written uses up its signature index, and STATE is 2 once no lease keeps an older copy of its lines. -/
def Claim.Attestation : Prop :=
  ∀ (s : State) (die : Nat) (v : Word), let pn := s.pnOfDie die
    (v ≠ 1 → exec (.attCmd die v) s = .next s) ∧
    (∀ c, v = 1 → c < 2 ^ 30 → s.attRefusal pn = some c → ∃ t : State, exec (.attCmd die v) s = .next t ∧
      t.csr (.part pn) 0x0833 = BitVec.ofNat 32 (3 * 2 ^ 30 + c) ∧ t.attReqs = s.attReqs) ∧
    (v = 1 → s.attRefusal pn = none → ∃ t : State, exec (.attCmd die v) s = .next t ∧
      t.csr (.part pn) 0x0833 = BitVec.ofNat 32 (2 ^ 30) ∧ t.attReqs = s.attReqs ++ [{ pn := pn, buf := s.attBuf pn, due := none }]) ∧
    (∀ r, s.attReady die = some r → r.due = none → s.attStep < 4096 → s.attLow < 2 ^ 28 → ∃ t : State,
      exec (.attestationReportDone die) s = .next t ∧ nextSignature t = nextSignature s + 1 ∧
      let line (k : Nat) : Nat := lineOf (s.devLoc (64 * k))
      let here (k : Nat) : Prop := r.buf / 64 ≤ k ∧ k < (r.buf + reportBytes + 63) / 64
      ((∀ k, here k → s.leaseOf (line k) ≤ s.gt) →
        t.csr (.part r.pn) 0x0833 = BitVec.ofNat 32 (2 ^ 31) ∧ t.attReqs = s.attReqs.erase r) ∧
      ((∃ k, here k ∧ s.gt < s.leaseOf (line k)) → t.csr (.part r.pn) 0x0833 = s.csr (.part r.pn) 0x0833 ∧
        ∃ x, (∀ k, here k → s.leaseOf (line k) ≤ x) ∧ t.attReqs = { r with due := some x } :: s.attReqs.erase r)) ∧
    (∀ r x, s.attReady die = some r → r.due = some x →
      (s.gt < x → exec (.attestationReportDone die) s = .next s) ∧
      (x ≤ s.gt → ∃ t : State, exec (.attestationReportDone die) s = .next t ∧
        t.csr (.part r.pn) 0x0833 = BitVec.ofNat 32 (2 ^ 31) ∧ nextSignature t = nextSignature s ∧
        t.attReqs = s.attReqs.erase r))


/-! ### Host ports, peer links, accesses from outside, the clock -/

/-- R354, R359, R368, R409: a write of HPORT_CTL takes the port down and sets its mode; it comes up in that mode when it has
trained, with the width and the rate it trained at, and a peer link with its neighbour's number; a link that goes down is not up. -/
def Claim.Links : Prop :=
  ∀ (s : State),
    (∀ die (v : Word), die < 4 → ∃ t : State, exec (.hportCtlWrite die v) s = .next t ∧
      t.csr .module (0x0500 + die) = v &&& 0x67000000#32 ∧ t.portUp die = false) ∧
    (∀ port (width : LinkWidth) (cxl : Bool), port < 4 → width.lanes ∈ [1, 2, 4, 8, 16] →
      (if cxl then width.rate = 64 else 1 ≤ width.rate ∧ width.rate ≤ 64) →
      (s.csr .module (0x0500 + port)).toNat / 2 ^ 29 % 4 = (if cxl then 1 else 2) → ∃ t : State,
      exec (.hostLinkTrain port width cxl) s = .next t ∧ t.portUp port = true ∧
      (t.csr .module (0x0500 + port)).toNat / 256 % 256 = width.lanes ∧
      (t.csr .module (0x0500 + port)).toNat % 256 = width.rate ∧ t.mem = s.mem) ∧
    (∀ port, port < 4 → ∃ t : State, exec (.hostLinkDown (16 + port)) s = .next t ∧ t.portUp port = false) ∧
    (∀ link, link < 16 → ∃ t : State, exec (.hostLinkDown link) s = .next t ∧ t.csr .module (0x0520 + link) = 0 ∧
      (t.csr .module 0x082C).toNat / 4 ^ link % 4 = 0) ∧
    (∀ link width nbr, link < 16 → 1 ≤ width → width ≤ 3 → ∃ t : State, exec (.peerLinkTrain link width nbr) s = .next t ∧
      t.csr .module (0x0520 + link) = BitVec.ofNat 32 (2 ^ 31 + nbr % 65536) ∧
      (t.csr .module 0x082C).toNat / 4 ^ link % 4 = width ∧ t.mem = s.mem) ∧
    (∀ link seq (ok : Bool), link < 16 → ∃ t : State, exec (.peerFlitReceive link seq ok) s = .next t ∧
      { t with flits := s.flits } = s ∧
      numLookup t.flits link = if ok ∧ (∀ last, numLookup s.flits link = some last → seq % 4096 = (last + 1) % 4096)
        then some (seq % 4096) else numLookup s.flits link)

/-- R367: writing PEER_WTAB_LO reads the inbound window table; an entry that breaks its layout allows nothing, and each of
the others allows what it says. -/
def Claim.InboundWindows : Prop :=
  ∀ (s : State) (die : Nat) (v : Word),
    let u := s.setCsr .module 0x0511 (v &&& 0xFFFFFFE0#32)
    let a := u.csrAddr .module 0x0511
    ∃ t : State, exec (.peerWtabLatch die v) s = .next t ∧ { t with wtab := s.wtab } = u ∧
      ∀ e, e ∈ t.wtab ↔ ∃ i, i < 16 ∧
        let f (o n : Nat) : Nat := u.load (u.physLoc (a + 32 * i) + o) n
        f 2 1 < 4 ∧ f 3 5 = 0 ∧ f 8 8 % 65536 = 0 ∧ f 16 8 % 65536 = 0 ∧ f 16 8 ≠ 0 ∧ f 24 8 = 0 ∧
        e = { src := f 0 2, rd := f 2 1 % 2 == 1, wr := f 2 1 / 2 == 1, base := f 8 8, size := f 16 8 }

/-- R362, R413: a host writes through a die's window the registers of partition level, but for those of a die whose image has
been refused, and no other register changes; a read changes nothing. -/
def Claim.HostWindow : Prop :=
  ∀ (s : State) (die i : Nat) (v : Word), die < 4 → i < 2 ^ 22 →
    let a := 2 ^ 24 * die + 4 * i
    (∀ r, csrRow i = some r → s.csrLevel r (128 * die) ≤ 1 →
      exec (.hostWindowAccess a true v) s = .next (s.csrWrite (128 * die) i r v).unhold) ∧
    (∀ r, csrRow i = some r → r.level < 2 → s.csrLevel r (128 * die) ≤ 1 → die ∈ s.refused →
      exec (.hostWindowAccess a true v) s = .next s.unhold) ∧
    ((csrRow i = none ∨ ∃ r, csrRow i = some r ∧ 1 < s.csrLevel r (128 * die)) →
      exec (.hostWindowAccess a true v) s = .next s) ∧
    exec (.hostWindowAccess a false v) s = .next s

/-- R160, R355, R361, R363, R364, R367, R393, R400: a host write or an allowed peer write that nothing holds back is performed
at its home; a host read is recorded, and a store to the line then waits until the host has given it up; a read that finds the
filter full has the line held longest called back; what is held back waits in order; a module that no link joins is refused. -/
def Claim.OutsideAccesses : Prop :=
  ∀ (s : State),
    (∀ a bs, s.inHdm a bs.length = true → (s.hostReqs.any (HostReq.write a bs).meets) = false →
      s.homeFree a bs.length = true → exec (.hostMemwr a bs) s =
        .next ((s.storeCells (bs.mapIdx fun i b => (s.devLoc (a + i), b))).touchSlots (s.devLoc a) bs.length).settleLocks.unhold) ∧
    (∀ a n, s.inHdm a n = true → (s.hostReqs.any (HostReq.read a n none).meets) = false → s.homeFree a n = true →
      let line := lineOf (s.devLoc a)
      let die := homeDie (s.devLoc a)
      (line ∈ s.snoops → exec (.hostMemrd a n) s = .next s) ∧
      (line ∉ s.snoops → s.filterRoom die = true →
        exec (.hostMemrd a n) s = .next { s with snoops := s.snoops ++ [line] }) ∧
      (line ∉ s.snoops → s.filterRoom die = false →
        exec (.hostMemrd a n) s = .next { s with hostReqs := s.hostReqs ++ [.read a n none] } ∧
        ∀ k rest, s.hostReqs = [] → s.filterOf die = k :: rest →
          State.nextHost { s with hostReqs := [.read a n none] } = some { s with hostReqs := [.read a n (some k)] })) ∧
    (∀ die, s.victimLines = [] →
      s.filterRoom die = decide ((s.snoops.filter fun k => homeDie (64 * k) == die).length < 262144)) ∧
    (∀ a bs, s.inHdm a bs.length = true → s.homeFree a bs.length = false →
      exec (.hostMemwr a bs) s = .next { s with hostReqs := s.hostReqs ++ [.write a bs] }) ∧
    (∀ a bs, s.inHdm a bs.length = false → exec (.hostMemwr a bs) s = .next s ∧ exec (.hostMemrd a bs.length) s = .next s) ∧
    (∀ line dirty, let held := lineOf (s.devLoc (64 * line))
      held ∈ s.snoops → ∃ u t : State, exec (.bisnpComplete line dirty) s = .next t ∧
      t = u.settleLocks.unhold ∧ held ∉ u.snoops ∧
      u.mem = memWriteAll s.mem ((dirty.take 64).mapIdx fun i b => (s.devLoc (64 * line + i), b))) ∧
    (∀ line bytes, exec (.hostSnoop line bytes) s = .next (s.storeCells ((bytes.take 64).mapIdx fun i b =>
      (hostLoc (64 * (line % 2 ^ 46) + i), b))).settleLocks.unhold) ∧
    (∀ src (r : PeerReq), (s.neighbour src = false ∨ s.peerAllowed src r = false) →
      exec (.peerRequestInbound src r) s = .next s) ∧
    (∀ src (r : PeerReq), s.neighbour src = true → s.peerAllowed src r = true →
      (s.hostReqs.any (HostReq.peer src r).meets) = false → s.homeFree r.addr r.size = true →
      let x := s.devLoc r.addr
      (r.op = .read → exec (.peerRequestInbound src r) s = .next s) ∧
      (r.op ≠ .read → s.snooped x r.size = true →
        exec (.peerRequestInbound src r) s = .next { s with hostReqs := s.hostReqs ++ [.peer src r] }) ∧
      (r.op = .write → s.snooped x r.size = false → exec (.peerRequestInbound src r) s =
        .next ((s.storeCells ((r.bytes.take r.size).mapIdx fun i b => (s.devLoc (r.addr + i), b))).touchSlots
          x (r.bytes.take r.size).length).settleLocks.unhold) ∧
      (∀ op, peerAtomic r.op = some op → s.snooped x r.size = false →
        let n := op.bytes
        let part (k : Nat) : BitVec 128 := BitVec.ofNat 128 (bytesToNat ((r.bytes.drop k).take n))
        exec (.peerRequestInbound src r) s =
          .next ((s.store x n (atomNew op (BitVec.ofNat 128 (s.load x n)) (part 0) (part n)).toNat).touchSlots
            x n).settleLocks.unhold))

/-- R369 to R371: a message of another domain, or while the clock is off, is passed over. The best of the masters that have
announced themselves makes its port the source, or a module that may be a grandmaster follows its own clock where that is the
best; Delay_Resp and Sync of the source measure the path and then the offset, GT steps forward at a first lock that no context
sees, and a lost source leaves the clock in holdover. -/
def Claim.Clock : Prop :=
  ∀ (s : State) (port : Nat), port < 20 →
    let ctl := (s.csr .module 0x0530).toNat
    let domain := if ctl % 256 < 128 then ctl % 256 else 0
    (∀ msg, ((s.csr .module 0x0530).getLsbD 31 = false ∨ msg.domain ≠ domain) → exec (.ptpMessage port msg) s = .next s) ∧
    ((s.csr .module 0x0530).getLsbD 31 = true →
      let takes (body : PtpBody) (t : State) : Prop := exec (.ptpMessage port ⟨domain, body⟩) s = .next t
      (∀ data, (data.sender = Config.ownClock.identity ∨ 255 ≤ data.steps) → takes (.announce data) s) ∧
      (∀ data, data.sender ≠ Config.ownClock.identity → data.steps < 255 → ∃ t : State, takes (.announce data) t ∧
        numLookup t.clock.heard port = some data ∧ (∀ q, q ≠ port → numLookup t.clock.heard q = numLookup s.clock.heard q) ∧
        t.gt = s.gt ∧
        (∀ p d, ((∀ q, q ≠ port → numLookup s.clock.heard q = none) ∧ (p, d) = (port, data) ∨
            ∃ r e, r < 20 ∧ r ≠ port ∧ numLookup s.clock.heard r = some e ∧
              (∀ q, q ≠ port → q ≠ r → numLookup s.clock.heard q = none) ∧
              ((betterMaster e data = true ∧ betterMaster data e = false ∧ (p, d) = (r, e)) ∨
                (betterMaster data e = true ∧ betterMaster e data = false ∧ (p, d) = (port, data)))) →
          (((s.csr .module 0x0530).getLsbD 30 = true ∧ betterMaster s.ownClock d = true) → t.clock.source = none) ∧
          (((s.csr .module 0x0530).getLsbD 30 = false ∨ betterMaster s.ownClock d = false) →
            t.clock.source = some p ∧ (s.clock.source ≠ some p → t.timePort = p ∧ t.timeState = 1)))) ∧
      (∀ origin arrival : Nat, s.clock.source = some port →
        let diff : Int := (arrival : Int) - origin
        (s.clock.delay = none → takes (.sync origin arrival) { s with clock := { s.clock with diff := some diff } }) ∧
        (∀ d, s.clock.delay = some d → let off := diff - d
          ∃ t : State, takes (.sync origin arrival) t ∧ t.clock = { s.clock with diff := some diff } ∧
            (s.locked = false → (∀ c ∈ s.ctxs, c.valid = false) → off < 0 → (t.gt : Int) = s.gt - off ∧ t.locked = true) ∧
            ((s.locked = true ∨ 0 ≤ off ∨ ∃ c ∈ s.ctxs, c.valid = true) → t.gt = s.gt ∧
              t.locked = (s.locked || decide (off.natAbs ≤ 20)) ∧ t.timeState = if off.natAbs ≤ 20 then 2 else 1))) ∧
      (∀ (sent receipt : Nat) diff, s.clock.source = some port → s.clock.diff = some diff →
        takes (.delayResp sent receipt)
          { s with clock := { s.clock with delay := some ((diff + ((receipt : Int) - sent)) / 2) } }) ∧
      (∀ origin arrival, s.clock.source ≠ some port →
        takes (.sync origin arrival) s ∧ takes (.delayResp origin arrival) s) ∧
      ∀ x, takes (.delayReq x) s) ∧
    (s.clock.source = none → exec .ptpSourceLost s = .next s) ∧
    (∀ p, s.clock.source = some p → (∀ q, q ≠ p → numLookup s.clock.heard q = none) → ∃ t : State,
      exec .ptpSourceLost s = .next t ∧ t.clock.source = none ∧ t.timeState = 3 ∧ t.timePort = 31 ∧ t.gt = s.gt)


/-! ### Encodings, the step, the whole machine -/

/-- R62, R63, R80, R89: words written out from the encodings decode to the instructions they stand for. -/
def Obligations.DecodedWords : Prop :=
  decode 0x338B17FF = .ok (.iaddi 7 11 11 0x1FF) ∧ decode 0x54FFFFFA = .ok (.bra 1 0x7FFFFA) ∧
  decode 0x557FFFFD = .ok (.bra 2 0x7FFFFD) ∧ decode 0x5FA0000C = .ok (.spt 7 12) ∧ decode 0x638A0000 = .ok (.waitm 7 1) ∧
  decode 0x87840A1B = .ok (.shflx 7 4 5 6) ∧ decode 0x138A1632 = .ok (.idiv 7 10 11 12) ∧
  decode 0x1F830485 = .ok (.shri 7 3 2 5) ∧ decode 0x2F860E21 = .ok (.bfeu 7 6 7 8) ∧
  decode 0xAB801020 = .ok (.pref 7 8 0 .l2 0) ∧ decode 0 = .error .unallocated ∧
  decodeSeq 0x08000000 = some .mxswp ∧ decodeSeq 0x60000000 = some .qend ∧ decodeSeq 0x10440000 = some (.mxstr 1 1)

/-- R60 to R64, R80 to R90: the word of every well-formed instruction decodes to it, and every word that decodes is the word
of its instruction, which is well-formed. -/
def Obligations.RoundTrip : Prop :=
  (∀ (i : Instr) (w : Word), i.wf = true → encode i = some w →
    if ofSequencer i then decodeSeq w = some i else decode w = .ok i) ∧
  (∀ (i : Instr) (w : Word), decode w = .ok i → encode i = some w ∧ i.wf = true ∧ ofSequencer i = false) ∧
  (∀ (i : Instr) (w : Word), decodeSeq w = some i → encode i = some w ∧ ofSequencer i = true)

/-- R60, R67, R117, R230: a step with a word in issue fetches the word at its address and runs it; what follows a word that
is over is its wait and trace counts, the end of a STEP, and time; a core on which a block has come to stop then empties its
line buffers. -/
def Claim.StepRunsWord : Prop :=
  ∀ (s : State) (i : Issue) (b : Block) (w : Warp) (p : Xlat) (word : Word) (x : Instr) (u : State),
    s.issue = some i → s.block? i.bid = some b → b.warp? i.w = some w →
    s.translate (some b.core) b.pn b.ctx i.wordPc.toNat .execute = .ok p → s.barred b.core p.loc = false →
    s.badAt p.loc 4 = false →
    (∀ e ∈ s.code, ¬ (e.core = s.physCore b.core ∧ e.pn = b.pn ∧ e.ctx = b.ctx ∧ e.line = lineOf p.loc)) →
    s.load p.loc 4 = word.toNat → decode word = .ok x → Issue.misuse { i with word := word } = false →
    State.payIssue ((s.keepLeaf (some b.core) b.pn b.ctx i.wordPc.toNat).keepCode (s.physCore b.core) b.pn b.ctx p.loc) b w word = some u →
    let v : State := { u with issue := some { i with word := word } }
    (∀ t, exec x v = .next t → t.issue = none →
      step s = .next (s.emptyStopped ((v.closeWord { i with word := word } t).passTime 0))) ∧
    (∀ t j, exec x v = .next t → t.issue = some j → step s = .next (s.emptyStopped (t.passTime 0)))

/-- R187, R230: a sequencer's step runs the word at its PC; between words, what comes from outside is taken in its order. -/
def Claim.StepRunsEvent : Prop :=
  ∀ (s : State), s.issue = none →
    (∀ (b : Block) (p : Xlat) (word : Word) (x : Instr), s.seqNow = some b.bid → s.block? b.bid = some b →
      s.translate (some b.core) b.pn b.ctx b.seq.pc.toNat .execute = .ok p → s.barred b.core p.loc = false →
      s.badAt p.loc 4 = false →
      (∀ e ∈ s.code, ¬ (e.core = s.physCore b.core ∧ e.pn = b.pn ∧ e.ctx = b.ctx ∧ e.line = lineOf p.loc)) →
      s.load p.loc 4 = word.toNat → decodeSeq word = some x →
      let u := (s.keepLeaf (some b.core) b.pn b.ctx b.seq.pc.toNat).keepCode (s.physCore b.core) b.pn b.ctx p.loc
      ∀ t, exec x { u with seqNow := some b.bid } = .next t → step s = .next (s.emptyStopped (t.passTime 0))) ∧
    (∀ x rest t, s.seqNow = none → s.inputs = x :: rest → fromOutside x = true → exec x { s with inputs := rest } = .next t →
      step s = .next (s.emptyStopped t))

/-- R71, R35: a word whose active set is empty is a no-op, where no predicate that it reads holds a soft error: the issued
threads move past it, and nothing else changes; EXIT and SPT are safe points all the same. Only a hint misuse traps. -/
def Obligations.EmptyActiveSet : Prop :=
  (∀ (s : State) (w : Word) (i : Instr) (x : Exec), decode w = .ok i → guardedMajor (majorOf w).toNat = true →
    (∀ g, i ≠ .exit g) → (∀ g k, i ≠ .spt g k) → Issued s (some (guardOf w)) x → x.act = 0 → x.hardCauses = [] →
    ∃ t, exec i s = .next t ∧ WarpDone x id t) ∧
  (∀ (s : State) (g : PReg) (x : Exec), Issued s (some g) x → x.act = 0 → x.hardCauses = [] →
    (∃ t, exec (.exit g) s = .next t ∧ WarpDone x (Warp.safePoint x.i.lanes (s.sptabIndex x.b x.i.wordPc)) t) ∧
    ∀ k : BitVec 12, ∃ t, exec (.spt g k) s = .next t ∧ WarpDone x (Warp.safePoint x.i.lanes
      (if 0 ≤ x.i.imm k false ∧ x.i.imm k false < 4096 then (x.i.imm k false).toNat else 0)) t) ∧
  (∀ (s : State) (w : Word) (x : Exec), guardedMajor (majorOf w).toNat = true → Issued s (some (guardField w)) x →
    x.act = 0 → x.hardCauses = [] → (x.i.misuse = false → majorOf w ≠ 0x3F → ∃ t, exec (.illegalWord w) s = .next t ∧ WarpDone x id t) ∧
    (x.i.misuse = true → ∀ l, lowLane x.i.lanes = some l → exec (.illegalWord w) s = .next (s.takeTrap x.i x.b x.w
      { code := .illegal, sub := 2 } l.val x.i.lanes)))

/-- R98, R99, R102, R103: the values of division, shifts, counts and bit fields, by what they are. -/
def Obligations.IntegerValues : Prop :=
  ∀ (u v w : Word) (n i : Nat),
    (idiv u 0 = 0xFFFFFFFF ∧ idivu u 0 = 0xFFFFFFFF ∧ irem u 0 = u ∧ iremu u 0 = u) ∧
    (idiv 0x80000000 0xFFFFFFFF = 0x80000000 ∧ irem 0x80000000 0xFFFFFFFF = 0) ∧
    (v ≠ 0 → (u ≠ 0x80000000 ∨ v ≠ 0xFFFFFFFF) →
      u.toInt = (idiv u v).toInt * v.toInt + (irem u v).toInt ∧ (irem u v).toInt.natAbs < v.toInt.natAbs ∧
      ((irem u v).toInt = 0 ∨ (irem u v).toInt.sign = u.toInt.sign)) ∧
    (v ≠ 0 → u.toNat = (idivu u v).toNat * v.toNat + (iremu u v).toNat ∧ (iremu u v).toNat < v.toNat) ∧
    (sar u n).toInt = u.toInt / 2 ^ n ∧
    (i < 32 → (rotl u n).getLsbD ((i + n) % 32) = u.getLsbD i) ∧
    (popc u).toNat = ((List.range 32).filter fun k => u.getLsbD k).length ∧
    (u ≠ 0 → u.getLsbD (31 - (clz u).toNat) = true ∧ (clz u).toNat ≤ 31 ∧
      ∀ k, 31 - (clz u).toNat < k → u.getLsbD k = false) ∧
    (u ≠ 0 → u.getLsbD (ctz u).toNat = true ∧ ∀ k, k < (ctz u).toNat → u.getLsbD k = false) ∧
    (clz 0 = 32 ∧ ctz 0 = 32) ∧
    (i < 32 → (brev u).getLsbD i = u.getLsbD (31 - i)) ∧
    (let pos := v.toNat % 256
      let len := min (v.toNat / 256 % 256) 32
      i < 32 →
        (bfeu u v).getLsbD i = (decide (i < len) && sourceBit u false (pos + i)) ∧
        (bfe u v).getLsbD i = (decide (len ≠ 0) && sourceBit u (u.getLsbD 31) (pos + min i (len - 1))) ∧
        (bfi u v w).getLsbD i = if pos ≤ i ∧ i < pos + len then u.getLsbD (i - pos) else w.getLsbD i)

/-- R350, R385: the fault log drops an entry where it has no room, or where its place is another partition's, and counts it;
else it writes the entry's 64 bytes, TAIL rises by 1, and a vector is raised. -/
def Claim.FaultLog : Prop :=
  ∀ (s : State) (pn ctx : Nat) (e : FaultEntry),
    let sc := CsrScope.part pn
    let base := (s.csr sc 0x03C0).toNat + 2 ^ 32 * (s.csr sc 0x03C1).toNat
    let ctl := (s.csr sc 0x03C2).toNat
    let cap := 2 ^ max 4 (min 20 (ctl % 32))
    let tail := s.csr sc 0x03C3
    let place := base + 64 * (tail.toNat % cap)
    let full := base = 0 ∨ cap ≤ (tail - s.csr sc 0x03C4).toNat ∨
      (place < deviceBytes ∧ ¬ (s.ownsPa pn place = true ∧ s.ownsPa pn (place + 63) = true))
    let t := s.flog pn ctx e
    (full → t.mem = s.mem ∧ t.irqs = s.irqs ∧ t.csr sc 0x03C3 = tail ∧
      (t.csr sc 0x03C2).toNat = 65536 * min 0xFFFF (ctl / 65536 + 1) + ctl % 65536) ∧
    (¬ full → t.csr sc 0x03C3 = tail + 1 ∧ t.irqs = s.irqs ++ [(s.csr sc 0x03C8).toNat % 2048]) ∧
    (¬ full → memWf s.mem = true → ctx < 16 → s.gt < 2 ^ 64 →
      let a := s.physLoc place
      s.reachable a = true → s.snooped a 64 = false → t.load a 1 = e.code.toNat ∧ t.load (a + 1) 1 = e.sub.toNat ∧ t.load (a + 2) 1 = e.source.toNat ∧ t.load (a + 3) 1 = ctx ∧
      t.load (a + 4) 4 = 0 ∧ t.load (a + 8) 8 = s.gt ∧ t.load (a + 16) 8 = e.obj.toNat ∧ t.load (a + 24) 8 = e.addr.toNat ∧
      t.load (a + 32) 8 = e.detail.toNat ∧ t.load (a + 40) 8 = e.tag.toNat ∧ t.load (a + 48) 16 = 0 ∧
      ∀ x, (x < a ∨ a + 64 ≤ x) → memRead t.mem x = memRead s.mem x)

/-- R417 and the register tables (R220, R228, R258, R318, R321, R330, R353, R354, R371, R372, R379, R383, R401): right after
reset no memory is written, nothing is resident, GT is 0, and each control
register holds its reset value; memory and windows are in canonical form. -/
def Obligations.Reset : Prop :=
  (∀ a, memRead State.reset.mem a = 0) ∧ State.reset.gt = 0 ∧ State.reset.blocks = [] ∧ State.reset.ctxs = [] ∧
  State.reset.launches = [] ∧ State.reset.booted = false ∧ State.reset.inputs = [] ∧ memoriesOk State.reset ∧
  ∀ r ∈ resetRegisters, State.reset.csr r.1 r.2.1 = r.2.2

/-- R4, R417: every step keeps memory and every window in canonical form. -/
def Obligations.MemoryKept : Prop :=
  ∀ s t : State, memoriesOk s → step s = .next t → memoriesOk t

/-- The machine never stops: from every state a step leads to a next one, whatever its memory holds. -/
def Obligations.NeverStops : Prop :=
  ∀ s : State, ∃ t, step s = .next t

/-- R415: no step gives back a signature index: the next one never falls. -/
def Obligations.SignaturesRise : Prop :=
  ∀ s t : State, s.attLow < 2 ^ 28 → step s = .next t → t.attLow < 2 ^ 28 ∧ nextSignature s ≤ nextSignature t

/-- R12: block b is a member of the group (first, count, stride) when first ≤ b, stride divides b − first and the quotient is
below count; a count of 0 has no member, a stride of 0 with a count only block first. A block's group ids are held in
rising order, and a launch with a block in more than four groups is refused before any block is placed. -/
def Obligations.GroupMembership : Prop :=
  (∀ (e : GroupEntry) (b : Nat), e.has b = true ↔
    (e.stride ≠ 0 ∧ e.first ≤ b ∧ e.stride ∣ (b - e.first) ∧ (b - e.first) / e.stride < e.count) ∨
    (e.stride = 0 ∧ e.count ≠ 0 ∧ b = e.first)) ∧
  (∀ (e : GroupEntry) (b : Nat), e.count = 0 → e.has b = false) ∧
  (∀ (l : Launch) (k : Nat), (l.groupsOf k).Pairwise (· < ·) ∧
    ∀ g, g ∈ l.groupsOf k ↔ ∃ e, l.groups[g]? = some e ∧ e.has k = true) ∧
  (∀ (s : State) (l : Launch) (k core : Nat) (ws : List Warp) (rail : Bool),
    (s.freshBlock l k core ws rail).grps = l.groupsOf k ∧ (s.freshBlock l k core ws rail).blk = k) ∧
  (∀ (s : State) (l : Launch) (k : Nat), s.launch? l.lid = some l → s.readyNow l = true → k < l.nblk →
    4 < (l.groupsOf k).length → l.fault ≠ some 1 → 1 ≤ l.cls → l.cls ≤ 3 →
    (∃ c, s.ctx? l.pn l.ctx = some c ∧ c.valid = true) →
    (∀ j ∈ s.launches, j.pn = l.pn → j.ctx = l.ctx → j.kern = l.kern → j.lid = l.lid ∨ j.live = false) →
    ∃ t : State, exec (.launchReady l.lid) s = .next t ∧
      t.launch? l.lid = some { l with state := .refused, fault := some 5, endGt := s.gt } ∧
      t.blocks.map (·.bid) = s.blocks.map (·.bid))

/-- R32: a global or local access of s bytes whose address, after the offset is added, is not aligned to s traps with
MEM_ALIGN, in the lowest such lane, and names that address, where no lane's capability to peer memory fails first (R34); no
lane has an effect. -/
def Obligations.AlignmentTraps : Prop :=
  ∀ (s : State) (g : PReg) (d b : VReg) (z : Size) (o : BitVec 5) (x : Exec) (l : Lane), Issuing s (some g) x →
    (∀ k, inMask x.act k = true → ∀ n, (x.w.thread k).boundPort n = none) →
    (let odd := maskOf fun k => inMask x.act k && (addressOf x b o (sizeBytes z) k).toNat % sizeBytes z != 0
     let r := Host.Outcome.next (s.takeTrap x.i x.b x.w
       { code := .memAlign, addr := addressOf x b o (sizeBytes z) l } l.val odd)
     (∀ n k e, inMask x.act k = true →
       s.translate (some x.b.core) x.b.pn x.b.ctx (addressOf x b o (sizeBytes z) k).toNat n = .error e →
       e.code ≠ .capInvalid ∧ e.code ≠ .capPerm) →
     lowLane odd = some l →
      (Unhindered x [src2 b, ⟨sizeShape z, d, .dst⟩] → x.w.ldc < 15 → (∀ pol, exec (.ld g d b z pol o) s = r) ∧
        ∀ pol sc, acqScope x pol = some sc → exec (.lda g d b z pol o) s = r) ∧
      (Unhindered x [src2 b, ⟨sizeShape z, d, .src⟩] → x.w.stc < 15 → (∀ pol, exec (.st g d b z pol o) s = r) ∧
        ∀ pol sc, acqScope x pol = some sc → Released x sc → exec (.strl g d b z pol o) s = r)) ∧
    (let at' := fun (k : Lane) => laddr x ((past x k).reg b) o (sizeBytes z)
     let odd := maskOf fun k => inMask x.act k && at' k % sizeBytes z != 0
     let r := Host.Outcome.next (s.takeTrap x.i x.b x.w
       { code := .memAlign, addr := BitVec.ofNat 64 (at' l) } l.val odd)
     lowLane odd = some l → (∀ a ∈ s.accs, ¬ (a.bid = x.i.bid ∧ a.w = x.i.w)) →
      (Unhindered x [src1 b, ⟨sizeShape z, d, .dst⟩] → x.w.ldc < 15 → ∀ m, exec (.ldl g d b z m o) s = r) ∧
      (Unhindered x [src1 b, ⟨sizeShape z, d, .src⟩] → x.w.stc < 15 → ∀ m, exec (.stl g d b z m o) s = r))

/-- R24: a word that names a capability checks it before any other effect: an entry of a type it does not accept traps with
CAP_INVALID, a permission it needs that is clear with CAP_PERM, and an enqueue past its allowance with CAP_PERM; the first
that fails decides, and no lane has an effect. -/
def Obligations.CapabilityTraps : Prop :=
  (∀ (x : Exec) (c : Cap) (types : List Nat) (obj : CapEntry → Except Cause Unit) (perm : BitVec 5 → Bool),
    (x.s.capEntry x.b.pn x.b.ctx c.toNat = none → x.cap c types obj perm = .error (capBad .capInvalid c)) ∧
    (∀ e, x.s.capEntry x.b.pn x.b.ctx c.toNat = some e →
      (e.type ∉ types → x.cap c types obj perm = .error (capBad .capInvalid c)) ∧
      (e.type ∈ types → obj e = .ok () → perm e.perms = false → x.cap c types obj perm = .error (capBad .capPerm c)) ∧
      (e.type ∈ types → obj e = .ok () → perm e.perms = true → x.cap c types obj perm = .ok (e, ())))) ∧
  (∀ (s : State) (g : PReg) (d a b : VReg) (c : Cap) (np : Bool) (k : WaitCond) (x : Exec) (l : Lane),
    Issuing s (some g) x → lowLane x.act = some l → ∀ p ∈ capWords x g d a b c np k,
    (if p.2.2.1 then UnhinderedOnce x p.2.1 else Unhindered x p.2.1) → ∀ j, p.2.2.2 = .error j → exec p.1 s = .next (s.takeTrap x.i x.b x.w j l.val x.act))

/-- R57: products of zero take no part in a group sum, so a pass over sparse rows gives the accumulator rows that a pass over
the dense rows of their expansions gives, bit for bit. -/
def Obligations.ZeroProducts : Prop :=
  (∀ ps : List Sys2Proof.Machine.Num, groupSum ps = groupSum (ps.filter fun p => !p.isZero)) ∧
  ∀ (sw dw : List Host.Cell) (sn dn : Nat) (sr dr : List Byte) (e : EngineCtx) (sf df : List Nat),
    let sd := mxDesc 3 sr
    let dd := mxDesc 2 dr
    rowFormats sw sn sd = some sf → rowFormats dw dn dd = some df → sf.length = df.length → sd.acc0 = dd.acc0 →
    sd.clr = dd.clr →
    (∀ r f h, sf[r]? = some f → df[r]? = some h → ∃ bs vals, winBytes sw sn (sd.meta' + 16 * r) 16 = some bs ∧
      readRow sw sn sd f true r = some vals ∧ readRow dw dn dd h false r = some (expandRow (bytesToNat bs) vals)) →
    passRows 3 sw sn sr e = passRows 2 dw dn dr e

/-! ### The obligations -/

/-- A register operand is its register, or the stream port bound to it; the stream words bind, move and unbind ports. -/
def Obligations.OperandForms : Prop :=
  Claim.OperandForms ∧ Claim.StreamPorts

/-- The register words give each active lane its function's value and change nothing else. The special functions of R136
rest on the model's choice of log 9. -/
def Obligations.RegisterWords : Prop :=
  Claim.UnaryWords ∧ Claim.BinaryWords ∧ Claim.TernaryWords

/-- The immediate forms and the words on uniform registers, with their frames. -/
def Obligations.ImmediateAndUniformWords : Prop :=
  Claim.ImmediateWords ∧ Claim.UniformWords

/-- The compares and predicate words write predicates, and p7 stays true. -/
def Obligations.CompareAndPredicateWords : Prop :=
  Claim.CompareWords ∧ Claim.PredicateWords

/-- RDS, WRS and RDGT read and write the special registers and the time. That a lane's sleep takes the next free number
is the model's own (log 3). -/
def Obligations.SpecialRegisters : Prop :=
  Claim.SpecialRegisters ∧ Claim.ReadTime

/-- Transfers move the active lanes to their target; calls write the link to v126. -/
def Obligations.BranchesAndCalls : Prop :=
  Claim.Branches ∧ Claim.Calls

/-- NOP, YIELD and SPT have no further effect; EXIT and ERET end the active lanes. -/
def Obligations.SafePointsAndExits : Prop :=
  Claim.SafePoints ∧ Claim.Exits

/-- Mask words join, leave, wait, read and write masks, and release lanes that have all arrived. -/
def Obligations.MaskRegisters : Prop :=
  Claim.MaskWords ∧ Claim.MaskMoves ∧ Claim.MaskRange

/-- Shuffles, votes and matches exchange values among the active lanes. -/
def Obligations.LaneExchanges : Prop :=
  Claim.Shuffles ∧ Claim.Votes ∧ Claim.Matches

/-- REDUX, SCAN, BXQ, BXPK and BXD combine and quantise the active lanes' values. -/
def Obligations.ReductionsAndBlockFormats : Prop :=
  Claim.Reductions ∧ Claim.IntegerReductions ∧ Claim.BlockFormats

/-- Loads, stores, prefetches and discards put their accesses in flight; local words act on windows. That of device
memory only PREF.l1 brings lines in is the model's choice (log 21). -/
def Obligations.LoadsAndStores : Prop :=
  Claim.Loads ∧ Claim.Stores ∧ Claim.Hinted ∧ Claim.LocalWords

/-- Atomics put one access of each active lane in flight, and store the value of their operation. -/
def Obligations.AtomicAccesses : Prop :=
  Claim.Atomics ∧ Claim.AtomicValues

/-- Ordered FP atomics are buffered in their launch; continuation atomics go in flight with their card. The completion
time of an ordered atomic, and what becomes of an entry that cannot be translated, are the model's choice (logs 65, 73). -/
def Obligations.OrderedAndContinuationAtomics : Prop :=
  Claim.OrderedAtomics ∧ Claim.ContinuationAtomics

/-- FENCE and WAITC go on when the counters allow it; a word that waits changes nothing. -/
def Obligations.FencesAndWaiting : Prop :=
  Claim.Fences ∧ Claim.Waiting

/-- LDL.fe, WAITF and POLL: lanes whose condition holds go on, the others sleep; a word whose class check fails traps.
What POLL gives for a word that cannot be reached is a free value (logs 4, 25); LDL.fe of another slot raises no counter
(log 54). -/
def Obligations.CheckedWaits : Prop :=
  Claim.FullEmptyLoads ∧ Claim.FlagWaits ∧ Claim.Polls ∧ Claim.FailedChecks

/-- The lock words take, release and try locks by the conditions of the lock word. -/
def Obligations.LockWords : Prop :=
  Claim.Locks ∧ Claim.LockConditions ∧ Claim.Unlocks

/-- Barrier words arrive, open phases at the expected count, and wait for phases to pass. -/
def Obligations.BarrierWords : Prop :=
  Claim.BarrierArrivals ∧ Claim.BarrierPhases ∧ Claim.BarrierWaits

/-- Queue words append and take elements in order, with their ready times. -/
def Obligations.QueueWords : Prop :=
  Claim.Enqueues ∧ Claim.Dequeues

/-- BKPT, TRAP and illegal words trap; a hint joins the word after it. -/
def Obligations.TrapsAndHints : Prop :=
  Claim.SoftwareTraps ∧ Claim.IllegalWords ∧ Claim.Hints

/-- A trap parks the warp with its record and delivers it; the first cause of R34 is reported. That a fault-log entry is
lost where its page cannot be written rests on log 6. -/
def Obligations.TrapEntry : Prop :=
  Claim.TrapEntry ∧ Claim.TrapPriority ∧ Claim.FaultLog

/-- Misaligned pairs and quads, registers past the allocation, and words above the issuer's level trap without effect. -/
def Obligations.RegisterAndPrivilegeTraps : Prop :=
  Claim.RegisterTraps ∧ Claim.PrivilegeTraps

/-- CSRR, CSRW, RDWR and WRWR read and write control registers and the registers of held warps. -/
def Obligations.ControlRegisters : Prop :=
  Claim.ControlWords ∧ Claim.ControlRegisters ∧ Claim.WarpFiles

/-- HALTW, RESW and STEP stop, release and step warps. What STEP gives of an ended and of a sleeping thread is the
model's choice (log 43). -/
def Obligations.HaltResumeStep : Prop :=
  Claim.HaltAndResume ∧ Claim.ResumeModes ∧ Claim.Steps

/-- TLBINV, QSC, CAPW and GRPW complete, drop translations, answer a quiesce, and write capability and group entries. -/
def Obligations.MaintenanceAndTables : Prop :=
  Claim.TranslationWords ∧ Claim.QuiesceWords ∧ Claim.CapabilityWrites ∧ Claim.GroupWrites

/-- Copy, token and card words issue copies, read tokens, deal chunks and deposit tasks. -/
def Obligations.CopyTokenCardWords : Prop :=
  Claim.CopyWords ∧ Claim.TokenWords ∧ Claim.CardWords

/-- SQRUN, SQST and SQSTOP control the sequencer; its words post, count, wait and end. -/
def Obligations.SequencerWords : Prop :=
  Claim.SequencerControl ∧ Claim.MatrixPosts ∧ Claim.SequencerWords ∧ Claim.SequencerStops

/-- A load returns what its place holds; copies and exclusive leases end in time. -/
def Obligations.LoadsReturnAndLeasesEnd : Prop :=
  Claim.LoadReturns ∧ Claim.LeasesEnd

/-- Stores and atomics are performed at their home and acknowledged with their completion time. That lanes that get FAIL
or BUSY leave the time at GT is the model's choice (log 55). -/
def Obligations.StoresPerformed : Prop :=
  Claim.StoresPerformed ∧ Claim.StoresAcknowledged

/-- Sleeping lanes wake when their time, word, element or record has come, or trap with WATCHDOG. Which lane is served
first among equal waiters follows the model's numbering (log 3). -/
def Obligations.Wakes : Prop :=
  Claim.TimedWakes ∧ Claim.MemoryWakes ∧ Claim.HangTraps

/-- A doorbell reads its packets; a launch becomes ready or is refused with the first reason. That SER drops every L1
line of the partition's cores is the model's choice (log 8). -/
def Obligations.LaunchQueues : Prop :=
  Claim.Doorbells ∧ Claim.LaunchesReady ∧ Claim.Refusals

/-- A placed block starts as its launch says. -/
def Obligations.PlacedBlocks : Prop :=
  Claim.FreshWarps ∧ Claim.Placements

/-- Warps release their slots, blocks retire, ordered atomics apply, and the launch ends. -/
def Obligations.LaunchesEnd : Prop :=
  Claim.OrderedApplied ∧ Claim.LaunchesEnd ∧ Claim.Releases

/-- Stops end at the deadline; an evicted block keeps what its live masks name. -/
def Obligations.StopsAndEvictions : Prop :=
  Claim.Deadlines ∧ Claim.Evictions

/-- Churn ticks begin moves; a move carries its blocks and switches the locality map. -/
def Obligations.Churn : Prop :=
  Claim.ChurnTicks ∧ Claim.MapSwitch ∧ Claim.ChurnMoves

/-- Contexts become valid with their descriptor, suspend, and are torn down. -/
def Obligations.Contexts : Prop :=
  Claim.ContextControl ∧ Claim.Teardowns

/-- Slices pass cores to the next context; a switch stops the old one's blocks. -/
def Obligations.SlicesAndSwitches : Prop :=
  Claim.Slices ∧ Claim.Switches

/-- Slice entries reach their card's ring, ring cards launch tasks, bins depart. The card of a bin whose binding has
ended is the model's choice (log 31). -/
def Obligations.CardsAndBins : Prop :=
  Claim.SlicesForward ∧ Claim.RingTasks ∧ Claim.BinsDepart

/-- Copy commands begin in order, move their bytes, and end with their record. Which units an energy reservation covers,
and the fault a command ends with, follow the model's readings (logs 17, 37). -/
def Obligations.CopyCommands : Prop :=
  Claim.CopiesBegin ∧ Claim.CopyUnits ∧ Claim.CopiesComplete ∧ Claim.CopiesFault

/-- Matrix operations are granted, checked and committed. The rows of CHECK_FAIL are free values (log 15), the event's
outcome stands for errors in the engine's own sums (log 26), and a rerun that finds FORMAT or FAULT ends with it (log
38). -/
def Obligations.MatrixEngines : Prop :=
  Claim.MatrixGrants ∧ Claim.MatrixRuns ∧ Claim.MatrixOperations

/-- Energy refills and grants, rails, droops and temperatures. That a droop's cycles are a free value is the model's
choice (log 36), as are the temperatures between samples (log 4). -/
def Obligations.EnergyAndRails : Prop :=
  Claim.Refills ∧ Claim.Grants ∧ Claim.Droops

/-- Handler invocations, notifications, trace periods and triggers. That a notified warp parks with every live lane (log
34), and the idle counts of a record (log 36), are the model's choice. -/
def Obligations.HandlersAndTrace : Prop :=
  Claim.Invocations ∧ Claim.Notifications ∧ Claim.TracePeriods ∧ Claim.Triggers

/-- Partition registers change only as quiet dies allow; a scrub zeroes exactly its region. Which dies count as changed
and fresh is the model's choice (log 41). -/
def Obligations.Partitions : Prop :=
  Claim.PartitionRegisters ∧ Claim.QuietAndScrub

/-- Firmware starts only when every check passes; reports use up signature indices. That a security version is capped at
64, and the firmware and signature functions, are the model's choices (log 12). -/
def Obligations.Identity : Prop :=
  Claim.Firmware ∧ Claim.Attestation

/-- Ports and links come up and go down; the clock follows its source. The messages of the ports and of the clock, and
the clock's own data set, are the model's choice (log 18). -/
def Obligations.LinksAndClock : Prop :=
  Claim.Links ∧ Claim.Clock

/-- Host and peer accesses are performed at their homes as the windows allow. How host and peer requests arrive is the
model's choice (log 18). -/
def Obligations.OutsideAccesses : Prop :=
  Claim.InboundWindows ∧ Claim.HostWindow ∧ Claim.OutsideAccesses

/-- A step runs the decoded instruction: a warp's word, a sequencer's word, or what comes from outside. The order of a
step's sources is the model's choice (log 3), and the instruction cache's pick among versions is a free value (log 33). -/
def Obligations.StepRuns : Prop :=
  Claim.StepRunsWord ∧ Claim.StepRunsEvent
end

