-- ==== Sys2Proof/Laws/State.lean ====
section
/-! SUPPORT. One lemma for each field and each update of the state that leaves it alone. -/

namespace Sys2Proof.Machine

/-! ### State.modBlock -/

@[simp] theorem State.modBlock_gt (s : State) (bid : Nat) (f : Block → Block) : (s.modBlock bid f).gt = s.gt := rfl
@[simp] theorem State.modBlock_free (s : State) (bid : Nat) (f : Block → Block) : (s.modBlock bid f).free = s.free := rfl
@[simp] theorem State.modBlock_issue (s : State) (bid : Nat) (f : Block → Block) : (s.modBlock bid f).issue = s.issue := rfl
@[simp] theorem State.modBlock_inputs (s : State) (bid : Nat) (f : Block → Block) : (s.modBlock bid f).inputs = s.inputs := rfl
@[simp] theorem State.modBlock_seqNow (s : State) (bid : Nat) (f : Block → Block) : (s.modBlock bid f).seqNow = s.seqNow := rfl
@[simp] theorem State.modBlock_stepReq (s : State) (bid : Nat) (f : Block → Block) : (s.modBlock bid f).stepReq = s.stepReq := rfl
@[simp] theorem State.modBlock_launches (s : State) (bid : Nat) (f : Block → Block) : (s.modBlock bid f).launches = s.launches := rfl
@[simp] theorem State.modBlock_ctxs (s : State) (bid : Nat) (f : Block → Block) : (s.modBlock bid f).ctxs = s.ctxs := rfl
@[simp] theorem State.modBlock_csrs (s : State) (bid : Nat) (f : Block → Block) : (s.modBlock bid f).csrs = s.csrs := rfl
@[simp] theorem State.modBlock_slotGens (s : State) (bid : Nat) (f : Block → Block) : (s.modBlock bid f).slotGens = s.slotGens := rfl
@[simp] theorem State.modBlock_mem (s : State) (bid : Nat) (f : Block → Block) : (s.modBlock bid f).mem = s.mem := rfl
@[simp] theorem State.modBlock_badMem (s : State) (bid : Nat) (f : Block → Block) : (s.modBlock bid f).badMem = s.badMem := rfl
@[simp] theorem State.modBlock_ops (s : State) (bid : Nat) (f : Block → Block) : (s.modBlock bid f).ops = s.ops := rfl
@[simp] theorem State.modBlock_accs (s : State) (bid : Nat) (f : Block → Block) : (s.modBlock bid f).accs = s.accs := rfl
@[simp] theorem State.modBlock_copies (s : State) (bid : Nat) (f : Block → Block) : (s.modBlock bid f).copies = s.copies := rfl
@[simp] theorem State.modBlock_leases (s : State) (bid : Nat) (f : Block → Block) : (s.modBlock bid f).leases = s.leases := rfl
@[simp] theorem State.modBlock_xleases (s : State) (bid : Nat) (f : Block → Block) : (s.modBlock bid f).xleases = s.xleases := rfl
@[simp] theorem State.modBlock_tlb (s : State) (bid : Nat) (f : Block → Block) : (s.modBlock bid f).tlb = s.tlb := rfl
@[simp] theorem State.modBlock_code (s : State) (bid : Nat) (f : Block → Block) : (s.modBlock bid f).code = s.code := rfl
@[simp] theorem State.modBlock_records (s : State) (bid : Nat) (f : Block → Block) : (s.modBlock bid f).records = s.records := rfl
@[simp] theorem State.modBlock_nextId (s : State) (bid : Nat) (f : Block → Block) : (s.modBlock bid f).nextId = s.nextId := rfl
@[simp] theorem State.modBlock_snoops (s : State) (bid : Nat) (f : Block → Block) : (s.modBlock bid f).snoops = s.snoops := rfl
@[simp] theorem State.modBlock_hostReqs (s : State) (bid : Nat) (f : Block → Block) : (s.modBlock bid f).hostReqs = s.hostReqs := rfl
@[simp] theorem State.modBlock_cmds (s : State) (bid : Nat) (f : Block → Block) : (s.modBlock bid f).cmds = s.cmds := rfl
@[simp] theorem State.modBlock_lineBufs (s : State) (bid : Nat) (f : Block → Block) : (s.modBlock bid f).lineBufs = s.lineBufs := rfl
@[simp] theorem State.modBlock_bars (s : State) (bid : Nat) (f : Block → Block) : (s.modBlock bid f).bars = s.bars := rfl
@[simp] theorem State.modBlock_cards (s : State) (bid : Nat) (f : Block → Block) : (s.modBlock bid f).cards = s.cards := rfl
@[simp] theorem State.modBlock_slices (s : State) (bid : Nat) (f : Block → Block) : (s.modBlock bid f).slices = s.slices := rfl
@[simp] theorem State.modBlock_bins (s : State) (bid : Nat) (f : Block → Block) : (s.modBlock bid f).bins = s.bins := rfl
@[simp] theorem State.modBlock_resvs (s : State) (bid : Nat) (f : Block → Block) : (s.modBlock bid f).resvs = s.resvs := rfl
@[simp] theorem State.modBlock_cardGen (s : State) (bid : Nat) (f : Block → Block) : (s.modBlock bid f).cardGen = s.cardGen := rfl
@[simp] theorem State.modBlock_rails (s : State) (bid : Nat) (f : Block → Block) : (s.modBlock bid f).rails = s.rails := rfl
@[simp] theorem State.modBlock_irqs (s : State) (bid : Nat) (f : Block → Block) : (s.modBlock bid f).irqs = s.irqs := rfl
@[simp] theorem State.modBlock_engines (s : State) (bid : Nat) (f : Block → Block) : (s.modBlock bid f).engines = s.engines := rfl
@[simp] theorem State.modBlock_energy (s : State) (bid : Nat) (f : Block → Block) : (s.modBlock bid f).energy = s.energy := rfl
@[simp] theorem State.modBlock_ereqs (s : State) (bid : Nat) (f : Block → Block) : (s.modBlock bid f).ereqs = s.ereqs := rfl
@[simp] theorem State.modBlock_bursts (s : State) (bid : Nat) (f : Block → Block) : (s.modBlock bid f).bursts = s.bursts := rfl
@[simp] theorem State.modBlock_refills (s : State) (bid : Nat) (f : Block → Block) : (s.modBlock bid f).refills = s.refills := rfl
@[simp] theorem State.modBlock_tele (s : State) (bid : Nat) (f : Block → Block) : (s.modBlock bid f).tele = s.tele := rfl
@[simp] theorem State.modBlock_droops (s : State) (bid : Nat) (f : Block → Block) : (s.modBlock bid f).droops = s.droops := rfl
@[simp] theorem State.modBlock_hops (s : State) (bid : Nat) (f : Block → Block) : (s.modBlock bid f).hops = s.hops := rfl
@[simp] theorem State.modBlock_moves (s : State) (bid : Nat) (f : Block → Block) : (s.modBlock bid f).moves = s.moves := rfl
@[simp] theorem State.modBlock_ticked (s : State) (bid : Nat) (f : Block → Block) : (s.modBlock bid f).ticked = s.ticked := rfl
@[simp] theorem State.modBlock_coreCtx (s : State) (bid : Nat) (f : Block → Block) : (s.modBlock bid f).coreCtx = s.coreCtx := rfl
@[simp] theorem State.modBlock_switches (s : State) (bid : Nat) (f : Block → Block) : (s.modBlock bid f).switches = s.switches := rfl
@[simp] theorem State.modBlock_cellar (s : State) (bid : Nat) (f : Block → Block) : (s.modBlock bid f).cellar = s.cellar := rfl
@[simp] theorem State.modBlock_sliced (s : State) (bid : Nat) (f : Block → Block) : (s.modBlock bid f).sliced = s.sliced := rfl
@[simp] theorem State.modBlock_queues (s : State) (bid : Nat) (f : Block → Block) : (s.modBlock bid f).queues = s.queues := rfl
@[simp] theorem State.modBlock_bells (s : State) (bid : Nat) (f : Block → Block) : (s.modBlock bid f).bells = s.bells := rfl
@[simp] theorem State.modBlock_traces (s : State) (bid : Nat) (f : Block → Block) : (s.modBlock bid f).traces = s.traces := rfl
@[simp] theorem State.modBlock_booted (s : State) (bid : Nat) (f : Block → Block) : (s.modBlock bid f).booted = s.booted := rfl
@[simp] theorem State.modBlock_marks (s : State) (bid : Nat) (f : Block → Block) : (s.modBlock bid f).marks = s.marks := rfl
@[simp] theorem State.modBlock_changed (s : State) (bid : Nat) (f : Block → Block) : (s.modBlock bid f).changed = s.changed := rfl
@[simp] theorem State.modBlock_fresh (s : State) (bid : Nat) (f : Block → Block) : (s.modBlock bid f).fresh = s.fresh := rfl
@[simp] theorem State.modBlock_reheld (s : State) (bid : Nat) (f : Block → Block) : (s.modBlock bid f).reheld = s.reheld := rfl
@[simp] theorem State.modBlock_firmware (s : State) (bid : Nat) (f : Block → Block) : (s.modBlock bid f).firmware = s.firmware := rfl
@[simp] theorem State.modBlock_refused (s : State) (bid : Nat) (f : Block → Block) : (s.modBlock bid f).refused = s.refused := rfl
@[simp] theorem State.modBlock_attStep (s : State) (bid : Nat) (f : Block → Block) : (s.modBlock bid f).attStep = s.attStep := rfl
@[simp] theorem State.modBlock_attLow (s : State) (bid : Nat) (f : Block → Block) : (s.modBlock bid f).attLow = s.attLow := rfl
@[simp] theorem State.modBlock_attReqs (s : State) (bid : Nat) (f : Block → Block) : (s.modBlock bid f).attReqs = s.attReqs := rfl
@[simp] theorem State.modBlock_wtab (s : State) (bid : Nat) (f : Block → Block) : (s.modBlock bid f).wtab = s.wtab := rfl
@[simp] theorem State.modBlock_flits (s : State) (bid : Nat) (f : Block → Block) : (s.modBlock bid f).flits = s.flits := rfl
@[simp] theorem State.modBlock_locked (s : State) (bid : Nat) (f : Block → Block) : (s.modBlock bid f).locked = s.locked := rfl
@[simp] theorem State.modBlock_clock (s : State) (bid : Nat) (f : Block → Block) : (s.modBlock bid f).clock = s.clock := rfl

/-! ### State.modWarp -/

@[simp] theorem State.modWarp_gt (s : State) (bid w : Nat) (f : Warp → Warp) : (s.modWarp bid w f).gt = s.gt := rfl
@[simp] theorem State.modWarp_free (s : State) (bid w : Nat) (f : Warp → Warp) : (s.modWarp bid w f).free = s.free := rfl
@[simp] theorem State.modWarp_issue (s : State) (bid w : Nat) (f : Warp → Warp) : (s.modWarp bid w f).issue = s.issue := rfl
@[simp] theorem State.modWarp_inputs (s : State) (bid w : Nat) (f : Warp → Warp) : (s.modWarp bid w f).inputs = s.inputs := rfl
@[simp] theorem State.modWarp_seqNow (s : State) (bid w : Nat) (f : Warp → Warp) : (s.modWarp bid w f).seqNow = s.seqNow := rfl
@[simp] theorem State.modWarp_stepReq (s : State) (bid w : Nat) (f : Warp → Warp) : (s.modWarp bid w f).stepReq = s.stepReq := rfl
@[simp] theorem State.modWarp_launches (s : State) (bid w : Nat) (f : Warp → Warp) : (s.modWarp bid w f).launches = s.launches := rfl
@[simp] theorem State.modWarp_ctxs (s : State) (bid w : Nat) (f : Warp → Warp) : (s.modWarp bid w f).ctxs = s.ctxs := rfl
@[simp] theorem State.modWarp_csrs (s : State) (bid w : Nat) (f : Warp → Warp) : (s.modWarp bid w f).csrs = s.csrs := rfl
@[simp] theorem State.modWarp_slotGens (s : State) (bid w : Nat) (f : Warp → Warp) : (s.modWarp bid w f).slotGens = s.slotGens := rfl
@[simp] theorem State.modWarp_mem (s : State) (bid w : Nat) (f : Warp → Warp) : (s.modWarp bid w f).mem = s.mem := rfl
@[simp] theorem State.modWarp_badMem (s : State) (bid w : Nat) (f : Warp → Warp) : (s.modWarp bid w f).badMem = s.badMem := rfl
@[simp] theorem State.modWarp_ops (s : State) (bid w : Nat) (f : Warp → Warp) : (s.modWarp bid w f).ops = s.ops := rfl
@[simp] theorem State.modWarp_accs (s : State) (bid w : Nat) (f : Warp → Warp) : (s.modWarp bid w f).accs = s.accs := rfl
@[simp] theorem State.modWarp_copies (s : State) (bid w : Nat) (f : Warp → Warp) : (s.modWarp bid w f).copies = s.copies := rfl
@[simp] theorem State.modWarp_leases (s : State) (bid w : Nat) (f : Warp → Warp) : (s.modWarp bid w f).leases = s.leases := rfl
@[simp] theorem State.modWarp_xleases (s : State) (bid w : Nat) (f : Warp → Warp) : (s.modWarp bid w f).xleases = s.xleases := rfl
@[simp] theorem State.modWarp_tlb (s : State) (bid w : Nat) (f : Warp → Warp) : (s.modWarp bid w f).tlb = s.tlb := rfl
@[simp] theorem State.modWarp_code (s : State) (bid w : Nat) (f : Warp → Warp) : (s.modWarp bid w f).code = s.code := rfl
@[simp] theorem State.modWarp_records (s : State) (bid w : Nat) (f : Warp → Warp) : (s.modWarp bid w f).records = s.records := rfl
@[simp] theorem State.modWarp_nextId (s : State) (bid w : Nat) (f : Warp → Warp) : (s.modWarp bid w f).nextId = s.nextId := rfl
@[simp] theorem State.modWarp_snoops (s : State) (bid w : Nat) (f : Warp → Warp) : (s.modWarp bid w f).snoops = s.snoops := rfl
@[simp] theorem State.modWarp_hostReqs (s : State) (bid w : Nat) (f : Warp → Warp) : (s.modWarp bid w f).hostReqs = s.hostReqs := rfl
@[simp] theorem State.modWarp_cmds (s : State) (bid w : Nat) (f : Warp → Warp) : (s.modWarp bid w f).cmds = s.cmds := rfl
@[simp] theorem State.modWarp_lineBufs (s : State) (bid w : Nat) (f : Warp → Warp) : (s.modWarp bid w f).lineBufs = s.lineBufs := rfl
@[simp] theorem State.modWarp_bars (s : State) (bid w : Nat) (f : Warp → Warp) : (s.modWarp bid w f).bars = s.bars := rfl
@[simp] theorem State.modWarp_cards (s : State) (bid w : Nat) (f : Warp → Warp) : (s.modWarp bid w f).cards = s.cards := rfl
@[simp] theorem State.modWarp_slices (s : State) (bid w : Nat) (f : Warp → Warp) : (s.modWarp bid w f).slices = s.slices := rfl
@[simp] theorem State.modWarp_bins (s : State) (bid w : Nat) (f : Warp → Warp) : (s.modWarp bid w f).bins = s.bins := rfl
@[simp] theorem State.modWarp_resvs (s : State) (bid w : Nat) (f : Warp → Warp) : (s.modWarp bid w f).resvs = s.resvs := rfl
@[simp] theorem State.modWarp_cardGen (s : State) (bid w : Nat) (f : Warp → Warp) : (s.modWarp bid w f).cardGen = s.cardGen := rfl
@[simp] theorem State.modWarp_rails (s : State) (bid w : Nat) (f : Warp → Warp) : (s.modWarp bid w f).rails = s.rails := rfl
@[simp] theorem State.modWarp_irqs (s : State) (bid w : Nat) (f : Warp → Warp) : (s.modWarp bid w f).irqs = s.irqs := rfl
@[simp] theorem State.modWarp_engines (s : State) (bid w : Nat) (f : Warp → Warp) : (s.modWarp bid w f).engines = s.engines := rfl
@[simp] theorem State.modWarp_energy (s : State) (bid w : Nat) (f : Warp → Warp) : (s.modWarp bid w f).energy = s.energy := rfl
@[simp] theorem State.modWarp_ereqs (s : State) (bid w : Nat) (f : Warp → Warp) : (s.modWarp bid w f).ereqs = s.ereqs := rfl
@[simp] theorem State.modWarp_bursts (s : State) (bid w : Nat) (f : Warp → Warp) : (s.modWarp bid w f).bursts = s.bursts := rfl
@[simp] theorem State.modWarp_refills (s : State) (bid w : Nat) (f : Warp → Warp) : (s.modWarp bid w f).refills = s.refills := rfl
@[simp] theorem State.modWarp_tele (s : State) (bid w : Nat) (f : Warp → Warp) : (s.modWarp bid w f).tele = s.tele := rfl
@[simp] theorem State.modWarp_droops (s : State) (bid w : Nat) (f : Warp → Warp) : (s.modWarp bid w f).droops = s.droops := rfl
@[simp] theorem State.modWarp_hops (s : State) (bid w : Nat) (f : Warp → Warp) : (s.modWarp bid w f).hops = s.hops := rfl
@[simp] theorem State.modWarp_moves (s : State) (bid w : Nat) (f : Warp → Warp) : (s.modWarp bid w f).moves = s.moves := rfl
@[simp] theorem State.modWarp_ticked (s : State) (bid w : Nat) (f : Warp → Warp) : (s.modWarp bid w f).ticked = s.ticked := rfl
@[simp] theorem State.modWarp_coreCtx (s : State) (bid w : Nat) (f : Warp → Warp) : (s.modWarp bid w f).coreCtx = s.coreCtx := rfl
@[simp] theorem State.modWarp_switches (s : State) (bid w : Nat) (f : Warp → Warp) : (s.modWarp bid w f).switches = s.switches := rfl
@[simp] theorem State.modWarp_cellar (s : State) (bid w : Nat) (f : Warp → Warp) : (s.modWarp bid w f).cellar = s.cellar := rfl
@[simp] theorem State.modWarp_sliced (s : State) (bid w : Nat) (f : Warp → Warp) : (s.modWarp bid w f).sliced = s.sliced := rfl
@[simp] theorem State.modWarp_queues (s : State) (bid w : Nat) (f : Warp → Warp) : (s.modWarp bid w f).queues = s.queues := rfl
@[simp] theorem State.modWarp_bells (s : State) (bid w : Nat) (f : Warp → Warp) : (s.modWarp bid w f).bells = s.bells := rfl
@[simp] theorem State.modWarp_traces (s : State) (bid w : Nat) (f : Warp → Warp) : (s.modWarp bid w f).traces = s.traces := rfl
@[simp] theorem State.modWarp_booted (s : State) (bid w : Nat) (f : Warp → Warp) : (s.modWarp bid w f).booted = s.booted := rfl
@[simp] theorem State.modWarp_marks (s : State) (bid w : Nat) (f : Warp → Warp) : (s.modWarp bid w f).marks = s.marks := rfl
@[simp] theorem State.modWarp_changed (s : State) (bid w : Nat) (f : Warp → Warp) : (s.modWarp bid w f).changed = s.changed := rfl
@[simp] theorem State.modWarp_fresh (s : State) (bid w : Nat) (f : Warp → Warp) : (s.modWarp bid w f).fresh = s.fresh := rfl
@[simp] theorem State.modWarp_reheld (s : State) (bid w : Nat) (f : Warp → Warp) : (s.modWarp bid w f).reheld = s.reheld := rfl
@[simp] theorem State.modWarp_firmware (s : State) (bid w : Nat) (f : Warp → Warp) : (s.modWarp bid w f).firmware = s.firmware := rfl
@[simp] theorem State.modWarp_refused (s : State) (bid w : Nat) (f : Warp → Warp) : (s.modWarp bid w f).refused = s.refused := rfl
@[simp] theorem State.modWarp_attStep (s : State) (bid w : Nat) (f : Warp → Warp) : (s.modWarp bid w f).attStep = s.attStep := rfl
@[simp] theorem State.modWarp_attLow (s : State) (bid w : Nat) (f : Warp → Warp) : (s.modWarp bid w f).attLow = s.attLow := rfl
@[simp] theorem State.modWarp_attReqs (s : State) (bid w : Nat) (f : Warp → Warp) : (s.modWarp bid w f).attReqs = s.attReqs := rfl
@[simp] theorem State.modWarp_wtab (s : State) (bid w : Nat) (f : Warp → Warp) : (s.modWarp bid w f).wtab = s.wtab := rfl
@[simp] theorem State.modWarp_flits (s : State) (bid w : Nat) (f : Warp → Warp) : (s.modWarp bid w f).flits = s.flits := rfl
@[simp] theorem State.modWarp_locked (s : State) (bid w : Nat) (f : Warp → Warp) : (s.modWarp bid w f).locked = s.locked := rfl
@[simp] theorem State.modWarp_clock (s : State) (bid w : Nat) (f : Warp → Warp) : (s.modWarp bid w f).clock = s.clock := rfl

/-! ### State.modThread -/

@[simp] theorem State.modThread_gt (s : State) (bid w : Nat) (l : Lane) (f : Thread → Thread) : (s.modThread bid w l f).gt = s.gt := rfl
@[simp] theorem State.modThread_free (s : State) (bid w : Nat) (l : Lane) (f : Thread → Thread) : (s.modThread bid w l f).free = s.free := rfl
@[simp] theorem State.modThread_issue (s : State) (bid w : Nat) (l : Lane) (f : Thread → Thread) : (s.modThread bid w l f).issue = s.issue := rfl
@[simp] theorem State.modThread_inputs (s : State) (bid w : Nat) (l : Lane) (f : Thread → Thread) : (s.modThread bid w l f).inputs = s.inputs := rfl
@[simp] theorem State.modThread_seqNow (s : State) (bid w : Nat) (l : Lane) (f : Thread → Thread) : (s.modThread bid w l f).seqNow = s.seqNow := rfl
@[simp] theorem State.modThread_stepReq (s : State) (bid w : Nat) (l : Lane) (f : Thread → Thread) : (s.modThread bid w l f).stepReq = s.stepReq := rfl
@[simp] theorem State.modThread_launches (s : State) (bid w : Nat) (l : Lane) (f : Thread → Thread) : (s.modThread bid w l f).launches = s.launches := rfl
@[simp] theorem State.modThread_ctxs (s : State) (bid w : Nat) (l : Lane) (f : Thread → Thread) : (s.modThread bid w l f).ctxs = s.ctxs := rfl
@[simp] theorem State.modThread_csrs (s : State) (bid w : Nat) (l : Lane) (f : Thread → Thread) : (s.modThread bid w l f).csrs = s.csrs := rfl
@[simp] theorem State.modThread_slotGens (s : State) (bid w : Nat) (l : Lane) (f : Thread → Thread) : (s.modThread bid w l f).slotGens = s.slotGens := rfl
@[simp] theorem State.modThread_mem (s : State) (bid w : Nat) (l : Lane) (f : Thread → Thread) : (s.modThread bid w l f).mem = s.mem := rfl
@[simp] theorem State.modThread_badMem (s : State) (bid w : Nat) (l : Lane) (f : Thread → Thread) : (s.modThread bid w l f).badMem = s.badMem := rfl
@[simp] theorem State.modThread_ops (s : State) (bid w : Nat) (l : Lane) (f : Thread → Thread) : (s.modThread bid w l f).ops = s.ops := rfl
@[simp] theorem State.modThread_accs (s : State) (bid w : Nat) (l : Lane) (f : Thread → Thread) : (s.modThread bid w l f).accs = s.accs := rfl
@[simp] theorem State.modThread_copies (s : State) (bid w : Nat) (l : Lane) (f : Thread → Thread) : (s.modThread bid w l f).copies = s.copies := rfl
@[simp] theorem State.modThread_leases (s : State) (bid w : Nat) (l : Lane) (f : Thread → Thread) : (s.modThread bid w l f).leases = s.leases := rfl
@[simp] theorem State.modThread_xleases (s : State) (bid w : Nat) (l : Lane) (f : Thread → Thread) : (s.modThread bid w l f).xleases = s.xleases := rfl
@[simp] theorem State.modThread_tlb (s : State) (bid w : Nat) (l : Lane) (f : Thread → Thread) : (s.modThread bid w l f).tlb = s.tlb := rfl
@[simp] theorem State.modThread_code (s : State) (bid w : Nat) (l : Lane) (f : Thread → Thread) : (s.modThread bid w l f).code = s.code := rfl
@[simp] theorem State.modThread_records (s : State) (bid w : Nat) (l : Lane) (f : Thread → Thread) : (s.modThread bid w l f).records = s.records := rfl
@[simp] theorem State.modThread_nextId (s : State) (bid w : Nat) (l : Lane) (f : Thread → Thread) : (s.modThread bid w l f).nextId = s.nextId := rfl
@[simp] theorem State.modThread_snoops (s : State) (bid w : Nat) (l : Lane) (f : Thread → Thread) : (s.modThread bid w l f).snoops = s.snoops := rfl
@[simp] theorem State.modThread_hostReqs (s : State) (bid w : Nat) (l : Lane) (f : Thread → Thread) : (s.modThread bid w l f).hostReqs = s.hostReqs := rfl
@[simp] theorem State.modThread_cmds (s : State) (bid w : Nat) (l : Lane) (f : Thread → Thread) : (s.modThread bid w l f).cmds = s.cmds := rfl
@[simp] theorem State.modThread_lineBufs (s : State) (bid w : Nat) (l : Lane) (f : Thread → Thread) : (s.modThread bid w l f).lineBufs = s.lineBufs := rfl
@[simp] theorem State.modThread_bars (s : State) (bid w : Nat) (l : Lane) (f : Thread → Thread) : (s.modThread bid w l f).bars = s.bars := rfl
@[simp] theorem State.modThread_cards (s : State) (bid w : Nat) (l : Lane) (f : Thread → Thread) : (s.modThread bid w l f).cards = s.cards := rfl
@[simp] theorem State.modThread_slices (s : State) (bid w : Nat) (l : Lane) (f : Thread → Thread) : (s.modThread bid w l f).slices = s.slices := rfl
@[simp] theorem State.modThread_bins (s : State) (bid w : Nat) (l : Lane) (f : Thread → Thread) : (s.modThread bid w l f).bins = s.bins := rfl
@[simp] theorem State.modThread_resvs (s : State) (bid w : Nat) (l : Lane) (f : Thread → Thread) : (s.modThread bid w l f).resvs = s.resvs := rfl
@[simp] theorem State.modThread_cardGen (s : State) (bid w : Nat) (l : Lane) (f : Thread → Thread) : (s.modThread bid w l f).cardGen = s.cardGen := rfl
@[simp] theorem State.modThread_rails (s : State) (bid w : Nat) (l : Lane) (f : Thread → Thread) : (s.modThread bid w l f).rails = s.rails := rfl
@[simp] theorem State.modThread_irqs (s : State) (bid w : Nat) (l : Lane) (f : Thread → Thread) : (s.modThread bid w l f).irqs = s.irqs := rfl
@[simp] theorem State.modThread_engines (s : State) (bid w : Nat) (l : Lane) (f : Thread → Thread) : (s.modThread bid w l f).engines = s.engines := rfl
@[simp] theorem State.modThread_energy (s : State) (bid w : Nat) (l : Lane) (f : Thread → Thread) : (s.modThread bid w l f).energy = s.energy := rfl
@[simp] theorem State.modThread_ereqs (s : State) (bid w : Nat) (l : Lane) (f : Thread → Thread) : (s.modThread bid w l f).ereqs = s.ereqs := rfl
@[simp] theorem State.modThread_bursts (s : State) (bid w : Nat) (l : Lane) (f : Thread → Thread) : (s.modThread bid w l f).bursts = s.bursts := rfl
@[simp] theorem State.modThread_refills (s : State) (bid w : Nat) (l : Lane) (f : Thread → Thread) : (s.modThread bid w l f).refills = s.refills := rfl
@[simp] theorem State.modThread_tele (s : State) (bid w : Nat) (l : Lane) (f : Thread → Thread) : (s.modThread bid w l f).tele = s.tele := rfl
@[simp] theorem State.modThread_droops (s : State) (bid w : Nat) (l : Lane) (f : Thread → Thread) : (s.modThread bid w l f).droops = s.droops := rfl
@[simp] theorem State.modThread_hops (s : State) (bid w : Nat) (l : Lane) (f : Thread → Thread) : (s.modThread bid w l f).hops = s.hops := rfl
@[simp] theorem State.modThread_moves (s : State) (bid w : Nat) (l : Lane) (f : Thread → Thread) : (s.modThread bid w l f).moves = s.moves := rfl
@[simp] theorem State.modThread_ticked (s : State) (bid w : Nat) (l : Lane) (f : Thread → Thread) : (s.modThread bid w l f).ticked = s.ticked := rfl
@[simp] theorem State.modThread_coreCtx (s : State) (bid w : Nat) (l : Lane) (f : Thread → Thread) : (s.modThread bid w l f).coreCtx = s.coreCtx := rfl
@[simp] theorem State.modThread_switches (s : State) (bid w : Nat) (l : Lane) (f : Thread → Thread) : (s.modThread bid w l f).switches = s.switches := rfl
@[simp] theorem State.modThread_cellar (s : State) (bid w : Nat) (l : Lane) (f : Thread → Thread) : (s.modThread bid w l f).cellar = s.cellar := rfl
@[simp] theorem State.modThread_sliced (s : State) (bid w : Nat) (l : Lane) (f : Thread → Thread) : (s.modThread bid w l f).sliced = s.sliced := rfl
@[simp] theorem State.modThread_queues (s : State) (bid w : Nat) (l : Lane) (f : Thread → Thread) : (s.modThread bid w l f).queues = s.queues := rfl
@[simp] theorem State.modThread_bells (s : State) (bid w : Nat) (l : Lane) (f : Thread → Thread) : (s.modThread bid w l f).bells = s.bells := rfl
@[simp] theorem State.modThread_traces (s : State) (bid w : Nat) (l : Lane) (f : Thread → Thread) : (s.modThread bid w l f).traces = s.traces := rfl
@[simp] theorem State.modThread_booted (s : State) (bid w : Nat) (l : Lane) (f : Thread → Thread) : (s.modThread bid w l f).booted = s.booted := rfl
@[simp] theorem State.modThread_marks (s : State) (bid w : Nat) (l : Lane) (f : Thread → Thread) : (s.modThread bid w l f).marks = s.marks := rfl
@[simp] theorem State.modThread_changed (s : State) (bid w : Nat) (l : Lane) (f : Thread → Thread) : (s.modThread bid w l f).changed = s.changed := rfl
@[simp] theorem State.modThread_fresh (s : State) (bid w : Nat) (l : Lane) (f : Thread → Thread) : (s.modThread bid w l f).fresh = s.fresh := rfl
@[simp] theorem State.modThread_reheld (s : State) (bid w : Nat) (l : Lane) (f : Thread → Thread) : (s.modThread bid w l f).reheld = s.reheld := rfl
@[simp] theorem State.modThread_firmware (s : State) (bid w : Nat) (l : Lane) (f : Thread → Thread) : (s.modThread bid w l f).firmware = s.firmware := rfl
@[simp] theorem State.modThread_refused (s : State) (bid w : Nat) (l : Lane) (f : Thread → Thread) : (s.modThread bid w l f).refused = s.refused := rfl
@[simp] theorem State.modThread_attStep (s : State) (bid w : Nat) (l : Lane) (f : Thread → Thread) : (s.modThread bid w l f).attStep = s.attStep := rfl
@[simp] theorem State.modThread_attLow (s : State) (bid w : Nat) (l : Lane) (f : Thread → Thread) : (s.modThread bid w l f).attLow = s.attLow := rfl
@[simp] theorem State.modThread_attReqs (s : State) (bid w : Nat) (l : Lane) (f : Thread → Thread) : (s.modThread bid w l f).attReqs = s.attReqs := rfl
@[simp] theorem State.modThread_wtab (s : State) (bid w : Nat) (l : Lane) (f : Thread → Thread) : (s.modThread bid w l f).wtab = s.wtab := rfl
@[simp] theorem State.modThread_flits (s : State) (bid w : Nat) (l : Lane) (f : Thread → Thread) : (s.modThread bid w l f).flits = s.flits := rfl
@[simp] theorem State.modThread_locked (s : State) (bid w : Nat) (l : Lane) (f : Thread → Thread) : (s.modThread bid w l f).locked = s.locked := rfl
@[simp] theorem State.modThread_clock (s : State) (bid w : Nat) (l : Lane) (f : Thread → Thread) : (s.modThread bid w l f).clock = s.clock := rfl

/-! ### State.winWrite -/

@[simp] theorem State.winWrite_gt (s : State) (bid : Nat) (cs : List Host.Cell) : (s.winWrite bid cs).gt = s.gt := rfl
@[simp] theorem State.winWrite_free (s : State) (bid : Nat) (cs : List Host.Cell) : (s.winWrite bid cs).free = s.free := rfl
@[simp] theorem State.winWrite_issue (s : State) (bid : Nat) (cs : List Host.Cell) : (s.winWrite bid cs).issue = s.issue := rfl
@[simp] theorem State.winWrite_inputs (s : State) (bid : Nat) (cs : List Host.Cell) : (s.winWrite bid cs).inputs = s.inputs := rfl
@[simp] theorem State.winWrite_seqNow (s : State) (bid : Nat) (cs : List Host.Cell) : (s.winWrite bid cs).seqNow = s.seqNow := rfl
@[simp] theorem State.winWrite_stepReq (s : State) (bid : Nat) (cs : List Host.Cell) : (s.winWrite bid cs).stepReq = s.stepReq := rfl
@[simp] theorem State.winWrite_launches (s : State) (bid : Nat) (cs : List Host.Cell) : (s.winWrite bid cs).launches = s.launches := rfl
@[simp] theorem State.winWrite_ctxs (s : State) (bid : Nat) (cs : List Host.Cell) : (s.winWrite bid cs).ctxs = s.ctxs := rfl
@[simp] theorem State.winWrite_csrs (s : State) (bid : Nat) (cs : List Host.Cell) : (s.winWrite bid cs).csrs = s.csrs := rfl
@[simp] theorem State.winWrite_slotGens (s : State) (bid : Nat) (cs : List Host.Cell) : (s.winWrite bid cs).slotGens = s.slotGens := rfl
@[simp] theorem State.winWrite_mem (s : State) (bid : Nat) (cs : List Host.Cell) : (s.winWrite bid cs).mem = s.mem := rfl
@[simp] theorem State.winWrite_badMem (s : State) (bid : Nat) (cs : List Host.Cell) : (s.winWrite bid cs).badMem = s.badMem := rfl
@[simp] theorem State.winWrite_ops (s : State) (bid : Nat) (cs : List Host.Cell) : (s.winWrite bid cs).ops = s.ops := rfl
@[simp] theorem State.winWrite_accs (s : State) (bid : Nat) (cs : List Host.Cell) : (s.winWrite bid cs).accs = s.accs := rfl
@[simp] theorem State.winWrite_copies (s : State) (bid : Nat) (cs : List Host.Cell) : (s.winWrite bid cs).copies = s.copies := rfl
@[simp] theorem State.winWrite_leases (s : State) (bid : Nat) (cs : List Host.Cell) : (s.winWrite bid cs).leases = s.leases := rfl
@[simp] theorem State.winWrite_xleases (s : State) (bid : Nat) (cs : List Host.Cell) : (s.winWrite bid cs).xleases = s.xleases := rfl
@[simp] theorem State.winWrite_tlb (s : State) (bid : Nat) (cs : List Host.Cell) : (s.winWrite bid cs).tlb = s.tlb := rfl
@[simp] theorem State.winWrite_code (s : State) (bid : Nat) (cs : List Host.Cell) : (s.winWrite bid cs).code = s.code := rfl
@[simp] theorem State.winWrite_records (s : State) (bid : Nat) (cs : List Host.Cell) : (s.winWrite bid cs).records = s.records := rfl
@[simp] theorem State.winWrite_nextId (s : State) (bid : Nat) (cs : List Host.Cell) : (s.winWrite bid cs).nextId = s.nextId := rfl
@[simp] theorem State.winWrite_snoops (s : State) (bid : Nat) (cs : List Host.Cell) : (s.winWrite bid cs).snoops = s.snoops := rfl
@[simp] theorem State.winWrite_hostReqs (s : State) (bid : Nat) (cs : List Host.Cell) : (s.winWrite bid cs).hostReqs = s.hostReqs := rfl
@[simp] theorem State.winWrite_cmds (s : State) (bid : Nat) (cs : List Host.Cell) : (s.winWrite bid cs).cmds = s.cmds := rfl
@[simp] theorem State.winWrite_lineBufs (s : State) (bid : Nat) (cs : List Host.Cell) : (s.winWrite bid cs).lineBufs = s.lineBufs := rfl
@[simp] theorem State.winWrite_bars (s : State) (bid : Nat) (cs : List Host.Cell) : (s.winWrite bid cs).bars = s.bars := rfl
@[simp] theorem State.winWrite_cards (s : State) (bid : Nat) (cs : List Host.Cell) : (s.winWrite bid cs).cards = s.cards := rfl
@[simp] theorem State.winWrite_slices (s : State) (bid : Nat) (cs : List Host.Cell) : (s.winWrite bid cs).slices = s.slices := rfl
@[simp] theorem State.winWrite_bins (s : State) (bid : Nat) (cs : List Host.Cell) : (s.winWrite bid cs).bins = s.bins := rfl
@[simp] theorem State.winWrite_resvs (s : State) (bid : Nat) (cs : List Host.Cell) : (s.winWrite bid cs).resvs = s.resvs := rfl
@[simp] theorem State.winWrite_cardGen (s : State) (bid : Nat) (cs : List Host.Cell) : (s.winWrite bid cs).cardGen = s.cardGen := rfl
@[simp] theorem State.winWrite_rails (s : State) (bid : Nat) (cs : List Host.Cell) : (s.winWrite bid cs).rails = s.rails := rfl
@[simp] theorem State.winWrite_irqs (s : State) (bid : Nat) (cs : List Host.Cell) : (s.winWrite bid cs).irqs = s.irqs := rfl
@[simp] theorem State.winWrite_engines (s : State) (bid : Nat) (cs : List Host.Cell) : (s.winWrite bid cs).engines = s.engines := rfl
@[simp] theorem State.winWrite_energy (s : State) (bid : Nat) (cs : List Host.Cell) : (s.winWrite bid cs).energy = s.energy := rfl
@[simp] theorem State.winWrite_ereqs (s : State) (bid : Nat) (cs : List Host.Cell) : (s.winWrite bid cs).ereqs = s.ereqs := rfl
@[simp] theorem State.winWrite_bursts (s : State) (bid : Nat) (cs : List Host.Cell) : (s.winWrite bid cs).bursts = s.bursts := rfl
@[simp] theorem State.winWrite_refills (s : State) (bid : Nat) (cs : List Host.Cell) : (s.winWrite bid cs).refills = s.refills := rfl
@[simp] theorem State.winWrite_tele (s : State) (bid : Nat) (cs : List Host.Cell) : (s.winWrite bid cs).tele = s.tele := rfl
@[simp] theorem State.winWrite_droops (s : State) (bid : Nat) (cs : List Host.Cell) : (s.winWrite bid cs).droops = s.droops := rfl
@[simp] theorem State.winWrite_hops (s : State) (bid : Nat) (cs : List Host.Cell) : (s.winWrite bid cs).hops = s.hops := rfl
@[simp] theorem State.winWrite_moves (s : State) (bid : Nat) (cs : List Host.Cell) : (s.winWrite bid cs).moves = s.moves := rfl
@[simp] theorem State.winWrite_ticked (s : State) (bid : Nat) (cs : List Host.Cell) : (s.winWrite bid cs).ticked = s.ticked := rfl
@[simp] theorem State.winWrite_coreCtx (s : State) (bid : Nat) (cs : List Host.Cell) : (s.winWrite bid cs).coreCtx = s.coreCtx := rfl
@[simp] theorem State.winWrite_switches (s : State) (bid : Nat) (cs : List Host.Cell) : (s.winWrite bid cs).switches = s.switches := rfl
@[simp] theorem State.winWrite_cellar (s : State) (bid : Nat) (cs : List Host.Cell) : (s.winWrite bid cs).cellar = s.cellar := rfl
@[simp] theorem State.winWrite_sliced (s : State) (bid : Nat) (cs : List Host.Cell) : (s.winWrite bid cs).sliced = s.sliced := rfl
@[simp] theorem State.winWrite_queues (s : State) (bid : Nat) (cs : List Host.Cell) : (s.winWrite bid cs).queues = s.queues := rfl
@[simp] theorem State.winWrite_bells (s : State) (bid : Nat) (cs : List Host.Cell) : (s.winWrite bid cs).bells = s.bells := rfl
@[simp] theorem State.winWrite_traces (s : State) (bid : Nat) (cs : List Host.Cell) : (s.winWrite bid cs).traces = s.traces := rfl
@[simp] theorem State.winWrite_booted (s : State) (bid : Nat) (cs : List Host.Cell) : (s.winWrite bid cs).booted = s.booted := rfl
@[simp] theorem State.winWrite_marks (s : State) (bid : Nat) (cs : List Host.Cell) : (s.winWrite bid cs).marks = s.marks := rfl
@[simp] theorem State.winWrite_changed (s : State) (bid : Nat) (cs : List Host.Cell) : (s.winWrite bid cs).changed = s.changed := rfl
@[simp] theorem State.winWrite_fresh (s : State) (bid : Nat) (cs : List Host.Cell) : (s.winWrite bid cs).fresh = s.fresh := rfl
@[simp] theorem State.winWrite_reheld (s : State) (bid : Nat) (cs : List Host.Cell) : (s.winWrite bid cs).reheld = s.reheld := rfl
@[simp] theorem State.winWrite_firmware (s : State) (bid : Nat) (cs : List Host.Cell) : (s.winWrite bid cs).firmware = s.firmware := rfl
@[simp] theorem State.winWrite_refused (s : State) (bid : Nat) (cs : List Host.Cell) : (s.winWrite bid cs).refused = s.refused := rfl
@[simp] theorem State.winWrite_attStep (s : State) (bid : Nat) (cs : List Host.Cell) : (s.winWrite bid cs).attStep = s.attStep := rfl
@[simp] theorem State.winWrite_attLow (s : State) (bid : Nat) (cs : List Host.Cell) : (s.winWrite bid cs).attLow = s.attLow := rfl
@[simp] theorem State.winWrite_attReqs (s : State) (bid : Nat) (cs : List Host.Cell) : (s.winWrite bid cs).attReqs = s.attReqs := rfl
@[simp] theorem State.winWrite_wtab (s : State) (bid : Nat) (cs : List Host.Cell) : (s.winWrite bid cs).wtab = s.wtab := rfl
@[simp] theorem State.winWrite_flits (s : State) (bid : Nat) (cs : List Host.Cell) : (s.winWrite bid cs).flits = s.flits := rfl
@[simp] theorem State.winWrite_locked (s : State) (bid : Nat) (cs : List Host.Cell) : (s.winWrite bid cs).locked = s.locked := rfl
@[simp] theorem State.winWrite_clock (s : State) (bid : Nat) (cs : List Host.Cell) : (s.winWrite bid cs).clock = s.clock := rfl

/-! ### State.unhold -/

@[simp] theorem State.unhold_gt (s : State) : (s.unhold).gt = s.gt := rfl
@[simp] theorem State.unhold_free (s : State) : (s.unhold).free = s.free := rfl
@[simp] theorem State.unhold_issue (s : State) : (s.unhold).issue = s.issue := rfl
@[simp] theorem State.unhold_inputs (s : State) : (s.unhold).inputs = s.inputs := rfl
@[simp] theorem State.unhold_seqNow (s : State) : (s.unhold).seqNow = s.seqNow := rfl
@[simp] theorem State.unhold_stepReq (s : State) : (s.unhold).stepReq = s.stepReq := rfl
@[simp] theorem State.unhold_launches (s : State) : (s.unhold).launches = s.launches := rfl
@[simp] theorem State.unhold_ctxs (s : State) : (s.unhold).ctxs = s.ctxs := rfl
@[simp] theorem State.unhold_csrs (s : State) : (s.unhold).csrs = s.csrs := rfl
@[simp] theorem State.unhold_slotGens (s : State) : (s.unhold).slotGens = s.slotGens := rfl
@[simp] theorem State.unhold_mem (s : State) : (s.unhold).mem = s.mem := rfl
@[simp] theorem State.unhold_badMem (s : State) : (s.unhold).badMem = s.badMem := rfl
@[simp] theorem State.unhold_ops (s : State) : (s.unhold).ops = s.ops := rfl
@[simp] theorem State.unhold_accs (s : State) : (s.unhold).accs = s.accs := rfl
@[simp] theorem State.unhold_copies (s : State) : (s.unhold).copies = s.copies := rfl
@[simp] theorem State.unhold_leases (s : State) : (s.unhold).leases = s.leases := rfl
@[simp] theorem State.unhold_xleases (s : State) : (s.unhold).xleases = s.xleases := rfl
@[simp] theorem State.unhold_tlb (s : State) : (s.unhold).tlb = s.tlb := rfl
@[simp] theorem State.unhold_code (s : State) : (s.unhold).code = s.code := rfl
@[simp] theorem State.unhold_records (s : State) : (s.unhold).records = s.records := rfl
@[simp] theorem State.unhold_nextId (s : State) : (s.unhold).nextId = s.nextId := rfl
@[simp] theorem State.unhold_snoops (s : State) : (s.unhold).snoops = s.snoops := rfl
@[simp] theorem State.unhold_hostReqs (s : State) : (s.unhold).hostReqs = s.hostReqs := rfl
@[simp] theorem State.unhold_cmds (s : State) : (s.unhold).cmds = s.cmds := rfl
@[simp] theorem State.unhold_lineBufs (s : State) : (s.unhold).lineBufs = s.lineBufs := rfl
@[simp] theorem State.unhold_bars (s : State) : (s.unhold).bars = s.bars := rfl
@[simp] theorem State.unhold_cards (s : State) : (s.unhold).cards = s.cards := rfl
@[simp] theorem State.unhold_slices (s : State) : (s.unhold).slices = s.slices := rfl
@[simp] theorem State.unhold_bins (s : State) : (s.unhold).bins = s.bins := rfl
@[simp] theorem State.unhold_resvs (s : State) : (s.unhold).resvs = s.resvs := rfl
@[simp] theorem State.unhold_cardGen (s : State) : (s.unhold).cardGen = s.cardGen := rfl
@[simp] theorem State.unhold_rails (s : State) : (s.unhold).rails = s.rails := rfl
@[simp] theorem State.unhold_irqs (s : State) : (s.unhold).irqs = s.irqs := rfl
@[simp] theorem State.unhold_engines (s : State) : (s.unhold).engines = s.engines := rfl
@[simp] theorem State.unhold_energy (s : State) : (s.unhold).energy = s.energy := rfl
@[simp] theorem State.unhold_ereqs (s : State) : (s.unhold).ereqs = s.ereqs := rfl
@[simp] theorem State.unhold_bursts (s : State) : (s.unhold).bursts = s.bursts := rfl
@[simp] theorem State.unhold_refills (s : State) : (s.unhold).refills = s.refills := rfl
@[simp] theorem State.unhold_tele (s : State) : (s.unhold).tele = s.tele := rfl
@[simp] theorem State.unhold_droops (s : State) : (s.unhold).droops = s.droops := rfl
@[simp] theorem State.unhold_hops (s : State) : (s.unhold).hops = s.hops := rfl
@[simp] theorem State.unhold_moves (s : State) : (s.unhold).moves = s.moves := rfl
@[simp] theorem State.unhold_ticked (s : State) : (s.unhold).ticked = s.ticked := rfl
@[simp] theorem State.unhold_coreCtx (s : State) : (s.unhold).coreCtx = s.coreCtx := rfl
@[simp] theorem State.unhold_switches (s : State) : (s.unhold).switches = s.switches := rfl
@[simp] theorem State.unhold_cellar (s : State) : (s.unhold).cellar = s.cellar := rfl
@[simp] theorem State.unhold_sliced (s : State) : (s.unhold).sliced = s.sliced := rfl
@[simp] theorem State.unhold_queues (s : State) : (s.unhold).queues = s.queues := rfl
@[simp] theorem State.unhold_bells (s : State) : (s.unhold).bells = s.bells := rfl
@[simp] theorem State.unhold_traces (s : State) : (s.unhold).traces = s.traces := rfl
@[simp] theorem State.unhold_booted (s : State) : (s.unhold).booted = s.booted := rfl
@[simp] theorem State.unhold_marks (s : State) : (s.unhold).marks = s.marks := rfl
@[simp] theorem State.unhold_changed (s : State) : (s.unhold).changed = s.changed := rfl
@[simp] theorem State.unhold_fresh (s : State) : (s.unhold).fresh = s.fresh := rfl
@[simp] theorem State.unhold_reheld (s : State) : (s.unhold).reheld = s.reheld := rfl
@[simp] theorem State.unhold_firmware (s : State) : (s.unhold).firmware = s.firmware := rfl
@[simp] theorem State.unhold_refused (s : State) : (s.unhold).refused = s.refused := rfl
@[simp] theorem State.unhold_attStep (s : State) : (s.unhold).attStep = s.attStep := rfl
@[simp] theorem State.unhold_attLow (s : State) : (s.unhold).attLow = s.attLow := rfl
@[simp] theorem State.unhold_attReqs (s : State) : (s.unhold).attReqs = s.attReqs := rfl
@[simp] theorem State.unhold_wtab (s : State) : (s.unhold).wtab = s.wtab := rfl
@[simp] theorem State.unhold_flits (s : State) : (s.unhold).flits = s.flits := rfl
@[simp] theorem State.unhold_locked (s : State) : (s.unhold).locked = s.locked := rfl
@[simp] theorem State.unhold_clock (s : State) : (s.unhold).clock = s.clock := rfl

/-! ### State.modLaunch -/

@[simp] theorem State.modLaunch_gt (s : State) (lid : Nat) (f : Launch → Launch) : (s.modLaunch lid f).gt = s.gt := rfl
@[simp] theorem State.modLaunch_free (s : State) (lid : Nat) (f : Launch → Launch) : (s.modLaunch lid f).free = s.free := rfl
@[simp] theorem State.modLaunch_issue (s : State) (lid : Nat) (f : Launch → Launch) : (s.modLaunch lid f).issue = s.issue := rfl
@[simp] theorem State.modLaunch_inputs (s : State) (lid : Nat) (f : Launch → Launch) : (s.modLaunch lid f).inputs = s.inputs := rfl
@[simp] theorem State.modLaunch_seqNow (s : State) (lid : Nat) (f : Launch → Launch) : (s.modLaunch lid f).seqNow = s.seqNow := rfl
@[simp] theorem State.modLaunch_stepReq (s : State) (lid : Nat) (f : Launch → Launch) : (s.modLaunch lid f).stepReq = s.stepReq := rfl
@[simp] theorem State.modLaunch_blocks (s : State) (lid : Nat) (f : Launch → Launch) : (s.modLaunch lid f).blocks = s.blocks := rfl
@[simp] theorem State.modLaunch_ctxs (s : State) (lid : Nat) (f : Launch → Launch) : (s.modLaunch lid f).ctxs = s.ctxs := rfl
@[simp] theorem State.modLaunch_csrs (s : State) (lid : Nat) (f : Launch → Launch) : (s.modLaunch lid f).csrs = s.csrs := rfl
@[simp] theorem State.modLaunch_slotGens (s : State) (lid : Nat) (f : Launch → Launch) : (s.modLaunch lid f).slotGens = s.slotGens := rfl
@[simp] theorem State.modLaunch_mem (s : State) (lid : Nat) (f : Launch → Launch) : (s.modLaunch lid f).mem = s.mem := rfl
@[simp] theorem State.modLaunch_badMem (s : State) (lid : Nat) (f : Launch → Launch) : (s.modLaunch lid f).badMem = s.badMem := rfl
@[simp] theorem State.modLaunch_ops (s : State) (lid : Nat) (f : Launch → Launch) : (s.modLaunch lid f).ops = s.ops := rfl
@[simp] theorem State.modLaunch_accs (s : State) (lid : Nat) (f : Launch → Launch) : (s.modLaunch lid f).accs = s.accs := rfl
@[simp] theorem State.modLaunch_copies (s : State) (lid : Nat) (f : Launch → Launch) : (s.modLaunch lid f).copies = s.copies := rfl
@[simp] theorem State.modLaunch_leases (s : State) (lid : Nat) (f : Launch → Launch) : (s.modLaunch lid f).leases = s.leases := rfl
@[simp] theorem State.modLaunch_xleases (s : State) (lid : Nat) (f : Launch → Launch) : (s.modLaunch lid f).xleases = s.xleases := rfl
@[simp] theorem State.modLaunch_tlb (s : State) (lid : Nat) (f : Launch → Launch) : (s.modLaunch lid f).tlb = s.tlb := rfl
@[simp] theorem State.modLaunch_code (s : State) (lid : Nat) (f : Launch → Launch) : (s.modLaunch lid f).code = s.code := rfl
@[simp] theorem State.modLaunch_records (s : State) (lid : Nat) (f : Launch → Launch) : (s.modLaunch lid f).records = s.records := rfl
@[simp] theorem State.modLaunch_nextId (s : State) (lid : Nat) (f : Launch → Launch) : (s.modLaunch lid f).nextId = s.nextId := rfl
@[simp] theorem State.modLaunch_snoops (s : State) (lid : Nat) (f : Launch → Launch) : (s.modLaunch lid f).snoops = s.snoops := rfl
@[simp] theorem State.modLaunch_hostReqs (s : State) (lid : Nat) (f : Launch → Launch) : (s.modLaunch lid f).hostReqs = s.hostReqs := rfl
@[simp] theorem State.modLaunch_cmds (s : State) (lid : Nat) (f : Launch → Launch) : (s.modLaunch lid f).cmds = s.cmds := rfl
@[simp] theorem State.modLaunch_lineBufs (s : State) (lid : Nat) (f : Launch → Launch) : (s.modLaunch lid f).lineBufs = s.lineBufs := rfl
@[simp] theorem State.modLaunch_bars (s : State) (lid : Nat) (f : Launch → Launch) : (s.modLaunch lid f).bars = s.bars := rfl
@[simp] theorem State.modLaunch_cards (s : State) (lid : Nat) (f : Launch → Launch) : (s.modLaunch lid f).cards = s.cards := rfl
@[simp] theorem State.modLaunch_slices (s : State) (lid : Nat) (f : Launch → Launch) : (s.modLaunch lid f).slices = s.slices := rfl
@[simp] theorem State.modLaunch_bins (s : State) (lid : Nat) (f : Launch → Launch) : (s.modLaunch lid f).bins = s.bins := rfl
@[simp] theorem State.modLaunch_resvs (s : State) (lid : Nat) (f : Launch → Launch) : (s.modLaunch lid f).resvs = s.resvs := rfl
@[simp] theorem State.modLaunch_cardGen (s : State) (lid : Nat) (f : Launch → Launch) : (s.modLaunch lid f).cardGen = s.cardGen := rfl
@[simp] theorem State.modLaunch_rails (s : State) (lid : Nat) (f : Launch → Launch) : (s.modLaunch lid f).rails = s.rails := rfl
@[simp] theorem State.modLaunch_irqs (s : State) (lid : Nat) (f : Launch → Launch) : (s.modLaunch lid f).irqs = s.irqs := rfl
@[simp] theorem State.modLaunch_engines (s : State) (lid : Nat) (f : Launch → Launch) : (s.modLaunch lid f).engines = s.engines := rfl
@[simp] theorem State.modLaunch_energy (s : State) (lid : Nat) (f : Launch → Launch) : (s.modLaunch lid f).energy = s.energy := rfl
@[simp] theorem State.modLaunch_ereqs (s : State) (lid : Nat) (f : Launch → Launch) : (s.modLaunch lid f).ereqs = s.ereqs := rfl
@[simp] theorem State.modLaunch_bursts (s : State) (lid : Nat) (f : Launch → Launch) : (s.modLaunch lid f).bursts = s.bursts := rfl
@[simp] theorem State.modLaunch_refills (s : State) (lid : Nat) (f : Launch → Launch) : (s.modLaunch lid f).refills = s.refills := rfl
@[simp] theorem State.modLaunch_tele (s : State) (lid : Nat) (f : Launch → Launch) : (s.modLaunch lid f).tele = s.tele := rfl
@[simp] theorem State.modLaunch_droops (s : State) (lid : Nat) (f : Launch → Launch) : (s.modLaunch lid f).droops = s.droops := rfl
@[simp] theorem State.modLaunch_hops (s : State) (lid : Nat) (f : Launch → Launch) : (s.modLaunch lid f).hops = s.hops := rfl
@[simp] theorem State.modLaunch_moves (s : State) (lid : Nat) (f : Launch → Launch) : (s.modLaunch lid f).moves = s.moves := rfl
@[simp] theorem State.modLaunch_ticked (s : State) (lid : Nat) (f : Launch → Launch) : (s.modLaunch lid f).ticked = s.ticked := rfl
@[simp] theorem State.modLaunch_coreCtx (s : State) (lid : Nat) (f : Launch → Launch) : (s.modLaunch lid f).coreCtx = s.coreCtx := rfl
@[simp] theorem State.modLaunch_switches (s : State) (lid : Nat) (f : Launch → Launch) : (s.modLaunch lid f).switches = s.switches := rfl
@[simp] theorem State.modLaunch_cellar (s : State) (lid : Nat) (f : Launch → Launch) : (s.modLaunch lid f).cellar = s.cellar := rfl
@[simp] theorem State.modLaunch_sliced (s : State) (lid : Nat) (f : Launch → Launch) : (s.modLaunch lid f).sliced = s.sliced := rfl
@[simp] theorem State.modLaunch_queues (s : State) (lid : Nat) (f : Launch → Launch) : (s.modLaunch lid f).queues = s.queues := rfl
@[simp] theorem State.modLaunch_bells (s : State) (lid : Nat) (f : Launch → Launch) : (s.modLaunch lid f).bells = s.bells := rfl
@[simp] theorem State.modLaunch_traces (s : State) (lid : Nat) (f : Launch → Launch) : (s.modLaunch lid f).traces = s.traces := rfl
@[simp] theorem State.modLaunch_booted (s : State) (lid : Nat) (f : Launch → Launch) : (s.modLaunch lid f).booted = s.booted := rfl
@[simp] theorem State.modLaunch_marks (s : State) (lid : Nat) (f : Launch → Launch) : (s.modLaunch lid f).marks = s.marks := rfl
@[simp] theorem State.modLaunch_changed (s : State) (lid : Nat) (f : Launch → Launch) : (s.modLaunch lid f).changed = s.changed := rfl
@[simp] theorem State.modLaunch_fresh (s : State) (lid : Nat) (f : Launch → Launch) : (s.modLaunch lid f).fresh = s.fresh := rfl
@[simp] theorem State.modLaunch_reheld (s : State) (lid : Nat) (f : Launch → Launch) : (s.modLaunch lid f).reheld = s.reheld := rfl
@[simp] theorem State.modLaunch_firmware (s : State) (lid : Nat) (f : Launch → Launch) : (s.modLaunch lid f).firmware = s.firmware := rfl
@[simp] theorem State.modLaunch_refused (s : State) (lid : Nat) (f : Launch → Launch) : (s.modLaunch lid f).refused = s.refused := rfl
@[simp] theorem State.modLaunch_attStep (s : State) (lid : Nat) (f : Launch → Launch) : (s.modLaunch lid f).attStep = s.attStep := rfl
@[simp] theorem State.modLaunch_attLow (s : State) (lid : Nat) (f : Launch → Launch) : (s.modLaunch lid f).attLow = s.attLow := rfl
@[simp] theorem State.modLaunch_attReqs (s : State) (lid : Nat) (f : Launch → Launch) : (s.modLaunch lid f).attReqs = s.attReqs := rfl
@[simp] theorem State.modLaunch_wtab (s : State) (lid : Nat) (f : Launch → Launch) : (s.modLaunch lid f).wtab = s.wtab := rfl
@[simp] theorem State.modLaunch_flits (s : State) (lid : Nat) (f : Launch → Launch) : (s.modLaunch lid f).flits = s.flits := rfl
@[simp] theorem State.modLaunch_locked (s : State) (lid : Nat) (f : Launch → Launch) : (s.modLaunch lid f).locked = s.locked := rfl
@[simp] theorem State.modLaunch_clock (s : State) (lid : Nat) (f : Launch → Launch) : (s.modLaunch lid f).clock = s.clock := rfl

/-! ### State.modCtx -/

@[simp] theorem State.modCtx_gt (s : State) (pn c : Nat) (f : Context → Context) : (s.modCtx pn c f).gt = s.gt := rfl
@[simp] theorem State.modCtx_free (s : State) (pn c : Nat) (f : Context → Context) : (s.modCtx pn c f).free = s.free := rfl
@[simp] theorem State.modCtx_issue (s : State) (pn c : Nat) (f : Context → Context) : (s.modCtx pn c f).issue = s.issue := rfl
@[simp] theorem State.modCtx_inputs (s : State) (pn c : Nat) (f : Context → Context) : (s.modCtx pn c f).inputs = s.inputs := rfl
@[simp] theorem State.modCtx_seqNow (s : State) (pn c : Nat) (f : Context → Context) : (s.modCtx pn c f).seqNow = s.seqNow := rfl
@[simp] theorem State.modCtx_stepReq (s : State) (pn c : Nat) (f : Context → Context) : (s.modCtx pn c f).stepReq = s.stepReq := rfl
@[simp] theorem State.modCtx_blocks (s : State) (pn c : Nat) (f : Context → Context) : (s.modCtx pn c f).blocks = s.blocks := rfl
@[simp] theorem State.modCtx_launches (s : State) (pn c : Nat) (f : Context → Context) : (s.modCtx pn c f).launches = s.launches := rfl
@[simp] theorem State.modCtx_csrs (s : State) (pn c : Nat) (f : Context → Context) : (s.modCtx pn c f).csrs = s.csrs := rfl
@[simp] theorem State.modCtx_slotGens (s : State) (pn c : Nat) (f : Context → Context) : (s.modCtx pn c f).slotGens = s.slotGens := rfl
@[simp] theorem State.modCtx_mem (s : State) (pn c : Nat) (f : Context → Context) : (s.modCtx pn c f).mem = s.mem := rfl
@[simp] theorem State.modCtx_badMem (s : State) (pn c : Nat) (f : Context → Context) : (s.modCtx pn c f).badMem = s.badMem := rfl
@[simp] theorem State.modCtx_ops (s : State) (pn c : Nat) (f : Context → Context) : (s.modCtx pn c f).ops = s.ops := rfl
@[simp] theorem State.modCtx_accs (s : State) (pn c : Nat) (f : Context → Context) : (s.modCtx pn c f).accs = s.accs := rfl
@[simp] theorem State.modCtx_copies (s : State) (pn c : Nat) (f : Context → Context) : (s.modCtx pn c f).copies = s.copies := rfl
@[simp] theorem State.modCtx_leases (s : State) (pn c : Nat) (f : Context → Context) : (s.modCtx pn c f).leases = s.leases := rfl
@[simp] theorem State.modCtx_xleases (s : State) (pn c : Nat) (f : Context → Context) : (s.modCtx pn c f).xleases = s.xleases := rfl
@[simp] theorem State.modCtx_tlb (s : State) (pn c : Nat) (f : Context → Context) : (s.modCtx pn c f).tlb = s.tlb := rfl
@[simp] theorem State.modCtx_code (s : State) (pn c : Nat) (f : Context → Context) : (s.modCtx pn c f).code = s.code := rfl
@[simp] theorem State.modCtx_records (s : State) (pn c : Nat) (f : Context → Context) : (s.modCtx pn c f).records = s.records := rfl
@[simp] theorem State.modCtx_nextId (s : State) (pn c : Nat) (f : Context → Context) : (s.modCtx pn c f).nextId = s.nextId := rfl
@[simp] theorem State.modCtx_snoops (s : State) (pn c : Nat) (f : Context → Context) : (s.modCtx pn c f).snoops = s.snoops := rfl
@[simp] theorem State.modCtx_hostReqs (s : State) (pn c : Nat) (f : Context → Context) : (s.modCtx pn c f).hostReqs = s.hostReqs := rfl
@[simp] theorem State.modCtx_cmds (s : State) (pn c : Nat) (f : Context → Context) : (s.modCtx pn c f).cmds = s.cmds := rfl
@[simp] theorem State.modCtx_lineBufs (s : State) (pn c : Nat) (f : Context → Context) : (s.modCtx pn c f).lineBufs = s.lineBufs := rfl
@[simp] theorem State.modCtx_bars (s : State) (pn c : Nat) (f : Context → Context) : (s.modCtx pn c f).bars = s.bars := rfl
@[simp] theorem State.modCtx_cards (s : State) (pn c : Nat) (f : Context → Context) : (s.modCtx pn c f).cards = s.cards := rfl
@[simp] theorem State.modCtx_slices (s : State) (pn c : Nat) (f : Context → Context) : (s.modCtx pn c f).slices = s.slices := rfl
@[simp] theorem State.modCtx_bins (s : State) (pn c : Nat) (f : Context → Context) : (s.modCtx pn c f).bins = s.bins := rfl
@[simp] theorem State.modCtx_resvs (s : State) (pn c : Nat) (f : Context → Context) : (s.modCtx pn c f).resvs = s.resvs := rfl
@[simp] theorem State.modCtx_cardGen (s : State) (pn c : Nat) (f : Context → Context) : (s.modCtx pn c f).cardGen = s.cardGen := rfl
@[simp] theorem State.modCtx_rails (s : State) (pn c : Nat) (f : Context → Context) : (s.modCtx pn c f).rails = s.rails := rfl
@[simp] theorem State.modCtx_irqs (s : State) (pn c : Nat) (f : Context → Context) : (s.modCtx pn c f).irqs = s.irqs := rfl
@[simp] theorem State.modCtx_engines (s : State) (pn c : Nat) (f : Context → Context) : (s.modCtx pn c f).engines = s.engines := rfl
@[simp] theorem State.modCtx_energy (s : State) (pn c : Nat) (f : Context → Context) : (s.modCtx pn c f).energy = s.energy := rfl
@[simp] theorem State.modCtx_ereqs (s : State) (pn c : Nat) (f : Context → Context) : (s.modCtx pn c f).ereqs = s.ereqs := rfl
@[simp] theorem State.modCtx_bursts (s : State) (pn c : Nat) (f : Context → Context) : (s.modCtx pn c f).bursts = s.bursts := rfl
@[simp] theorem State.modCtx_refills (s : State) (pn c : Nat) (f : Context → Context) : (s.modCtx pn c f).refills = s.refills := rfl
@[simp] theorem State.modCtx_tele (s : State) (pn c : Nat) (f : Context → Context) : (s.modCtx pn c f).tele = s.tele := rfl
@[simp] theorem State.modCtx_droops (s : State) (pn c : Nat) (f : Context → Context) : (s.modCtx pn c f).droops = s.droops := rfl
@[simp] theorem State.modCtx_hops (s : State) (pn c : Nat) (f : Context → Context) : (s.modCtx pn c f).hops = s.hops := rfl
@[simp] theorem State.modCtx_moves (s : State) (pn c : Nat) (f : Context → Context) : (s.modCtx pn c f).moves = s.moves := rfl
@[simp] theorem State.modCtx_ticked (s : State) (pn c : Nat) (f : Context → Context) : (s.modCtx pn c f).ticked = s.ticked := rfl
@[simp] theorem State.modCtx_coreCtx (s : State) (pn c : Nat) (f : Context → Context) : (s.modCtx pn c f).coreCtx = s.coreCtx := rfl
@[simp] theorem State.modCtx_switches (s : State) (pn c : Nat) (f : Context → Context) : (s.modCtx pn c f).switches = s.switches := rfl
@[simp] theorem State.modCtx_cellar (s : State) (pn c : Nat) (f : Context → Context) : (s.modCtx pn c f).cellar = s.cellar := rfl
@[simp] theorem State.modCtx_sliced (s : State) (pn c : Nat) (f : Context → Context) : (s.modCtx pn c f).sliced = s.sliced := rfl
@[simp] theorem State.modCtx_queues (s : State) (pn c : Nat) (f : Context → Context) : (s.modCtx pn c f).queues = s.queues := rfl
@[simp] theorem State.modCtx_bells (s : State) (pn c : Nat) (f : Context → Context) : (s.modCtx pn c f).bells = s.bells := rfl
@[simp] theorem State.modCtx_traces (s : State) (pn c : Nat) (f : Context → Context) : (s.modCtx pn c f).traces = s.traces := rfl
@[simp] theorem State.modCtx_booted (s : State) (pn c : Nat) (f : Context → Context) : (s.modCtx pn c f).booted = s.booted := rfl
@[simp] theorem State.modCtx_marks (s : State) (pn c : Nat) (f : Context → Context) : (s.modCtx pn c f).marks = s.marks := rfl
@[simp] theorem State.modCtx_changed (s : State) (pn c : Nat) (f : Context → Context) : (s.modCtx pn c f).changed = s.changed := rfl
@[simp] theorem State.modCtx_fresh (s : State) (pn c : Nat) (f : Context → Context) : (s.modCtx pn c f).fresh = s.fresh := rfl
@[simp] theorem State.modCtx_reheld (s : State) (pn c : Nat) (f : Context → Context) : (s.modCtx pn c f).reheld = s.reheld := rfl
@[simp] theorem State.modCtx_firmware (s : State) (pn c : Nat) (f : Context → Context) : (s.modCtx pn c f).firmware = s.firmware := rfl
@[simp] theorem State.modCtx_refused (s : State) (pn c : Nat) (f : Context → Context) : (s.modCtx pn c f).refused = s.refused := rfl
@[simp] theorem State.modCtx_attStep (s : State) (pn c : Nat) (f : Context → Context) : (s.modCtx pn c f).attStep = s.attStep := rfl
@[simp] theorem State.modCtx_attLow (s : State) (pn c : Nat) (f : Context → Context) : (s.modCtx pn c f).attLow = s.attLow := rfl
@[simp] theorem State.modCtx_attReqs (s : State) (pn c : Nat) (f : Context → Context) : (s.modCtx pn c f).attReqs = s.attReqs := rfl
@[simp] theorem State.modCtx_wtab (s : State) (pn c : Nat) (f : Context → Context) : (s.modCtx pn c f).wtab = s.wtab := rfl
@[simp] theorem State.modCtx_flits (s : State) (pn c : Nat) (f : Context → Context) : (s.modCtx pn c f).flits = s.flits := rfl
@[simp] theorem State.modCtx_locked (s : State) (pn c : Nat) (f : Context → Context) : (s.modCtx pn c f).locked = s.locked := rfl
@[simp] theorem State.modCtx_clock (s : State) (pn c : Nat) (f : Context → Context) : (s.modCtx pn c f).clock = s.clock := rfl

/-! ### State.setCsr -/

@[simp] theorem State.setCsr_gt (s : State) (sc : CsrScope) (i : Nat) (v : Word) : (s.setCsr sc i v).gt = s.gt := rfl
@[simp] theorem State.setCsr_free (s : State) (sc : CsrScope) (i : Nat) (v : Word) : (s.setCsr sc i v).free = s.free := rfl
@[simp] theorem State.setCsr_issue (s : State) (sc : CsrScope) (i : Nat) (v : Word) : (s.setCsr sc i v).issue = s.issue := rfl
@[simp] theorem State.setCsr_inputs (s : State) (sc : CsrScope) (i : Nat) (v : Word) : (s.setCsr sc i v).inputs = s.inputs := rfl
@[simp] theorem State.setCsr_seqNow (s : State) (sc : CsrScope) (i : Nat) (v : Word) : (s.setCsr sc i v).seqNow = s.seqNow := rfl
@[simp] theorem State.setCsr_stepReq (s : State) (sc : CsrScope) (i : Nat) (v : Word) : (s.setCsr sc i v).stepReq = s.stepReq := rfl
@[simp] theorem State.setCsr_blocks (s : State) (sc : CsrScope) (i : Nat) (v : Word) : (s.setCsr sc i v).blocks = s.blocks := rfl
@[simp] theorem State.setCsr_launches (s : State) (sc : CsrScope) (i : Nat) (v : Word) : (s.setCsr sc i v).launches = s.launches := rfl
@[simp] theorem State.setCsr_ctxs (s : State) (sc : CsrScope) (i : Nat) (v : Word) : (s.setCsr sc i v).ctxs = s.ctxs := rfl
@[simp] theorem State.setCsr_slotGens (s : State) (sc : CsrScope) (i : Nat) (v : Word) : (s.setCsr sc i v).slotGens = s.slotGens := rfl
@[simp] theorem State.setCsr_mem (s : State) (sc : CsrScope) (i : Nat) (v : Word) : (s.setCsr sc i v).mem = s.mem := rfl
@[simp] theorem State.setCsr_badMem (s : State) (sc : CsrScope) (i : Nat) (v : Word) : (s.setCsr sc i v).badMem = s.badMem := rfl
@[simp] theorem State.setCsr_ops (s : State) (sc : CsrScope) (i : Nat) (v : Word) : (s.setCsr sc i v).ops = s.ops := rfl
@[simp] theorem State.setCsr_accs (s : State) (sc : CsrScope) (i : Nat) (v : Word) : (s.setCsr sc i v).accs = s.accs := rfl
@[simp] theorem State.setCsr_copies (s : State) (sc : CsrScope) (i : Nat) (v : Word) : (s.setCsr sc i v).copies = s.copies := rfl
@[simp] theorem State.setCsr_leases (s : State) (sc : CsrScope) (i : Nat) (v : Word) : (s.setCsr sc i v).leases = s.leases := rfl
@[simp] theorem State.setCsr_xleases (s : State) (sc : CsrScope) (i : Nat) (v : Word) : (s.setCsr sc i v).xleases = s.xleases := rfl
@[simp] theorem State.setCsr_tlb (s : State) (sc : CsrScope) (i : Nat) (v : Word) : (s.setCsr sc i v).tlb = s.tlb := rfl
@[simp] theorem State.setCsr_code (s : State) (sc : CsrScope) (i : Nat) (v : Word) : (s.setCsr sc i v).code = s.code := rfl
@[simp] theorem State.setCsr_records (s : State) (sc : CsrScope) (i : Nat) (v : Word) : (s.setCsr sc i v).records = s.records := rfl
@[simp] theorem State.setCsr_nextId (s : State) (sc : CsrScope) (i : Nat) (v : Word) : (s.setCsr sc i v).nextId = s.nextId := rfl
@[simp] theorem State.setCsr_snoops (s : State) (sc : CsrScope) (i : Nat) (v : Word) : (s.setCsr sc i v).snoops = s.snoops := rfl
@[simp] theorem State.setCsr_hostReqs (s : State) (sc : CsrScope) (i : Nat) (v : Word) : (s.setCsr sc i v).hostReqs = s.hostReqs := rfl
@[simp] theorem State.setCsr_cmds (s : State) (sc : CsrScope) (i : Nat) (v : Word) : (s.setCsr sc i v).cmds = s.cmds := rfl
@[simp] theorem State.setCsr_lineBufs (s : State) (sc : CsrScope) (i : Nat) (v : Word) : (s.setCsr sc i v).lineBufs = s.lineBufs := rfl
@[simp] theorem State.setCsr_bars (s : State) (sc : CsrScope) (i : Nat) (v : Word) : (s.setCsr sc i v).bars = s.bars := rfl
@[simp] theorem State.setCsr_cards (s : State) (sc : CsrScope) (i : Nat) (v : Word) : (s.setCsr sc i v).cards = s.cards := rfl
@[simp] theorem State.setCsr_slices (s : State) (sc : CsrScope) (i : Nat) (v : Word) : (s.setCsr sc i v).slices = s.slices := rfl
@[simp] theorem State.setCsr_bins (s : State) (sc : CsrScope) (i : Nat) (v : Word) : (s.setCsr sc i v).bins = s.bins := rfl
@[simp] theorem State.setCsr_resvs (s : State) (sc : CsrScope) (i : Nat) (v : Word) : (s.setCsr sc i v).resvs = s.resvs := rfl
@[simp] theorem State.setCsr_cardGen (s : State) (sc : CsrScope) (i : Nat) (v : Word) : (s.setCsr sc i v).cardGen = s.cardGen := rfl
@[simp] theorem State.setCsr_rails (s : State) (sc : CsrScope) (i : Nat) (v : Word) : (s.setCsr sc i v).rails = s.rails := rfl
@[simp] theorem State.setCsr_irqs (s : State) (sc : CsrScope) (i : Nat) (v : Word) : (s.setCsr sc i v).irqs = s.irqs := rfl
@[simp] theorem State.setCsr_engines (s : State) (sc : CsrScope) (i : Nat) (v : Word) : (s.setCsr sc i v).engines = s.engines := rfl
@[simp] theorem State.setCsr_energy (s : State) (sc : CsrScope) (i : Nat) (v : Word) : (s.setCsr sc i v).energy = s.energy := rfl
@[simp] theorem State.setCsr_ereqs (s : State) (sc : CsrScope) (i : Nat) (v : Word) : (s.setCsr sc i v).ereqs = s.ereqs := rfl
@[simp] theorem State.setCsr_bursts (s : State) (sc : CsrScope) (i : Nat) (v : Word) : (s.setCsr sc i v).bursts = s.bursts := rfl
@[simp] theorem State.setCsr_refills (s : State) (sc : CsrScope) (i : Nat) (v : Word) : (s.setCsr sc i v).refills = s.refills := rfl
@[simp] theorem State.setCsr_tele (s : State) (sc : CsrScope) (i : Nat) (v : Word) : (s.setCsr sc i v).tele = s.tele := rfl
@[simp] theorem State.setCsr_droops (s : State) (sc : CsrScope) (i : Nat) (v : Word) : (s.setCsr sc i v).droops = s.droops := rfl
@[simp] theorem State.setCsr_hops (s : State) (sc : CsrScope) (i : Nat) (v : Word) : (s.setCsr sc i v).hops = s.hops := rfl
@[simp] theorem State.setCsr_moves (s : State) (sc : CsrScope) (i : Nat) (v : Word) : (s.setCsr sc i v).moves = s.moves := rfl
@[simp] theorem State.setCsr_ticked (s : State) (sc : CsrScope) (i : Nat) (v : Word) : (s.setCsr sc i v).ticked = s.ticked := rfl
@[simp] theorem State.setCsr_coreCtx (s : State) (sc : CsrScope) (i : Nat) (v : Word) : (s.setCsr sc i v).coreCtx = s.coreCtx := rfl
@[simp] theorem State.setCsr_switches (s : State) (sc : CsrScope) (i : Nat) (v : Word) : (s.setCsr sc i v).switches = s.switches := rfl
@[simp] theorem State.setCsr_cellar (s : State) (sc : CsrScope) (i : Nat) (v : Word) : (s.setCsr sc i v).cellar = s.cellar := rfl
@[simp] theorem State.setCsr_sliced (s : State) (sc : CsrScope) (i : Nat) (v : Word) : (s.setCsr sc i v).sliced = s.sliced := rfl
@[simp] theorem State.setCsr_queues (s : State) (sc : CsrScope) (i : Nat) (v : Word) : (s.setCsr sc i v).queues = s.queues := rfl
@[simp] theorem State.setCsr_bells (s : State) (sc : CsrScope) (i : Nat) (v : Word) : (s.setCsr sc i v).bells = s.bells := rfl
@[simp] theorem State.setCsr_traces (s : State) (sc : CsrScope) (i : Nat) (v : Word) : (s.setCsr sc i v).traces = s.traces := rfl
@[simp] theorem State.setCsr_booted (s : State) (sc : CsrScope) (i : Nat) (v : Word) : (s.setCsr sc i v).booted = s.booted := rfl
@[simp] theorem State.setCsr_marks (s : State) (sc : CsrScope) (i : Nat) (v : Word) : (s.setCsr sc i v).marks = s.marks := rfl
@[simp] theorem State.setCsr_changed (s : State) (sc : CsrScope) (i : Nat) (v : Word) : (s.setCsr sc i v).changed = s.changed := rfl
@[simp] theorem State.setCsr_fresh (s : State) (sc : CsrScope) (i : Nat) (v : Word) : (s.setCsr sc i v).fresh = s.fresh := rfl
@[simp] theorem State.setCsr_reheld (s : State) (sc : CsrScope) (i : Nat) (v : Word) : (s.setCsr sc i v).reheld = s.reheld := rfl
@[simp] theorem State.setCsr_firmware (s : State) (sc : CsrScope) (i : Nat) (v : Word) : (s.setCsr sc i v).firmware = s.firmware := rfl
@[simp] theorem State.setCsr_refused (s : State) (sc : CsrScope) (i : Nat) (v : Word) : (s.setCsr sc i v).refused = s.refused := rfl
@[simp] theorem State.setCsr_attStep (s : State) (sc : CsrScope) (i : Nat) (v : Word) : (s.setCsr sc i v).attStep = s.attStep := rfl
@[simp] theorem State.setCsr_attLow (s : State) (sc : CsrScope) (i : Nat) (v : Word) : (s.setCsr sc i v).attLow = s.attLow := rfl
@[simp] theorem State.setCsr_attReqs (s : State) (sc : CsrScope) (i : Nat) (v : Word) : (s.setCsr sc i v).attReqs = s.attReqs := rfl
@[simp] theorem State.setCsr_wtab (s : State) (sc : CsrScope) (i : Nat) (v : Word) : (s.setCsr sc i v).wtab = s.wtab := rfl
@[simp] theorem State.setCsr_flits (s : State) (sc : CsrScope) (i : Nat) (v : Word) : (s.setCsr sc i v).flits = s.flits := rfl
@[simp] theorem State.setCsr_locked (s : State) (sc : CsrScope) (i : Nat) (v : Word) : (s.setCsr sc i v).locked = s.locked := rfl
@[simp] theorem State.setCsr_clock (s : State) (sc : CsrScope) (i : Nat) (v : Word) : (s.setCsr sc i v).clock = s.clock := rfl

/-! ### State.store -/

@[simp] theorem State.store_gt (s : State) (x n v : Nat) : (s.store x n v).gt = s.gt := rfl
@[simp] theorem State.store_free (s : State) (x n v : Nat) : (s.store x n v).free = s.free := rfl
@[simp] theorem State.store_issue (s : State) (x n v : Nat) : (s.store x n v).issue = s.issue := rfl
@[simp] theorem State.store_inputs (s : State) (x n v : Nat) : (s.store x n v).inputs = s.inputs := rfl
@[simp] theorem State.store_seqNow (s : State) (x n v : Nat) : (s.store x n v).seqNow = s.seqNow := rfl
@[simp] theorem State.store_stepReq (s : State) (x n v : Nat) : (s.store x n v).stepReq = s.stepReq := rfl
@[simp] theorem State.store_blocks (s : State) (x n v : Nat) : (s.store x n v).blocks = s.blocks := rfl
@[simp] theorem State.store_launches (s : State) (x n v : Nat) : (s.store x n v).launches = s.launches := rfl
@[simp] theorem State.store_ctxs (s : State) (x n v : Nat) : (s.store x n v).ctxs = s.ctxs := rfl
@[simp] theorem State.store_csrs (s : State) (x n v : Nat) : (s.store x n v).csrs = s.csrs := rfl
@[simp] theorem State.store_slotGens (s : State) (x n v : Nat) : (s.store x n v).slotGens = s.slotGens := rfl
@[simp] theorem State.store_ops (s : State) (x n v : Nat) : (s.store x n v).ops = s.ops := rfl
@[simp] theorem State.store_accs (s : State) (x n v : Nat) : (s.store x n v).accs = s.accs := rfl
@[simp] theorem State.store_copies (s : State) (x n v : Nat) : (s.store x n v).copies = s.copies := rfl
@[simp] theorem State.store_leases (s : State) (x n v : Nat) : (s.store x n v).leases = s.leases := rfl
@[simp] theorem State.store_xleases (s : State) (x n v : Nat) : (s.store x n v).xleases = s.xleases := rfl
@[simp] theorem State.store_tlb (s : State) (x n v : Nat) : (s.store x n v).tlb = s.tlb := rfl
@[simp] theorem State.store_code (s : State) (x n v : Nat) : (s.store x n v).code = s.code := rfl
@[simp] theorem State.store_records (s : State) (x n v : Nat) : (s.store x n v).records = s.records := rfl
@[simp] theorem State.store_nextId (s : State) (x n v : Nat) : (s.store x n v).nextId = s.nextId := rfl
@[simp] theorem State.store_snoops (s : State) (x n v : Nat) : (s.store x n v).snoops = s.snoops := rfl
@[simp] theorem State.store_hostReqs (s : State) (x n v : Nat) : (s.store x n v).hostReqs = s.hostReqs := rfl
@[simp] theorem State.store_cmds (s : State) (x n v : Nat) : (s.store x n v).cmds = s.cmds := rfl
@[simp] theorem State.store_lineBufs (s : State) (x n v : Nat) : (s.store x n v).lineBufs = s.lineBufs := rfl
@[simp] theorem State.store_bars (s : State) (x n v : Nat) : (s.store x n v).bars = s.bars := rfl
@[simp] theorem State.store_cards (s : State) (x n v : Nat) : (s.store x n v).cards = s.cards := rfl
@[simp] theorem State.store_slices (s : State) (x n v : Nat) : (s.store x n v).slices = s.slices := rfl
@[simp] theorem State.store_bins (s : State) (x n v : Nat) : (s.store x n v).bins = s.bins := rfl
@[simp] theorem State.store_resvs (s : State) (x n v : Nat) : (s.store x n v).resvs = s.resvs := rfl
@[simp] theorem State.store_cardGen (s : State) (x n v : Nat) : (s.store x n v).cardGen = s.cardGen := rfl
@[simp] theorem State.store_rails (s : State) (x n v : Nat) : (s.store x n v).rails = s.rails := rfl
@[simp] theorem State.store_irqs (s : State) (x n v : Nat) : (s.store x n v).irqs = s.irqs := rfl
@[simp] theorem State.store_engines (s : State) (x n v : Nat) : (s.store x n v).engines = s.engines := rfl
@[simp] theorem State.store_energy (s : State) (x n v : Nat) : (s.store x n v).energy = s.energy := rfl
@[simp] theorem State.store_ereqs (s : State) (x n v : Nat) : (s.store x n v).ereqs = s.ereqs := rfl
@[simp] theorem State.store_bursts (s : State) (x n v : Nat) : (s.store x n v).bursts = s.bursts := rfl
@[simp] theorem State.store_refills (s : State) (x n v : Nat) : (s.store x n v).refills = s.refills := rfl
@[simp] theorem State.store_tele (s : State) (x n v : Nat) : (s.store x n v).tele = s.tele := rfl
@[simp] theorem State.store_droops (s : State) (x n v : Nat) : (s.store x n v).droops = s.droops := rfl
@[simp] theorem State.store_hops (s : State) (x n v : Nat) : (s.store x n v).hops = s.hops := rfl
@[simp] theorem State.store_moves (s : State) (x n v : Nat) : (s.store x n v).moves = s.moves := rfl
@[simp] theorem State.store_ticked (s : State) (x n v : Nat) : (s.store x n v).ticked = s.ticked := rfl
@[simp] theorem State.store_coreCtx (s : State) (x n v : Nat) : (s.store x n v).coreCtx = s.coreCtx := rfl
@[simp] theorem State.store_switches (s : State) (x n v : Nat) : (s.store x n v).switches = s.switches := rfl
@[simp] theorem State.store_cellar (s : State) (x n v : Nat) : (s.store x n v).cellar = s.cellar := rfl
@[simp] theorem State.store_sliced (s : State) (x n v : Nat) : (s.store x n v).sliced = s.sliced := rfl
@[simp] theorem State.store_queues (s : State) (x n v : Nat) : (s.store x n v).queues = s.queues := rfl
@[simp] theorem State.store_bells (s : State) (x n v : Nat) : (s.store x n v).bells = s.bells := rfl
@[simp] theorem State.store_traces (s : State) (x n v : Nat) : (s.store x n v).traces = s.traces := rfl
@[simp] theorem State.store_booted (s : State) (x n v : Nat) : (s.store x n v).booted = s.booted := rfl
@[simp] theorem State.store_marks (s : State) (x n v : Nat) : (s.store x n v).marks = s.marks := rfl
@[simp] theorem State.store_changed (s : State) (x n v : Nat) : (s.store x n v).changed = s.changed := rfl
@[simp] theorem State.store_fresh (s : State) (x n v : Nat) : (s.store x n v).fresh = s.fresh := rfl
@[simp] theorem State.store_reheld (s : State) (x n v : Nat) : (s.store x n v).reheld = s.reheld := rfl
@[simp] theorem State.store_firmware (s : State) (x n v : Nat) : (s.store x n v).firmware = s.firmware := rfl
@[simp] theorem State.store_refused (s : State) (x n v : Nat) : (s.store x n v).refused = s.refused := rfl
@[simp] theorem State.store_attStep (s : State) (x n v : Nat) : (s.store x n v).attStep = s.attStep := rfl
@[simp] theorem State.store_attLow (s : State) (x n v : Nat) : (s.store x n v).attLow = s.attLow := rfl
@[simp] theorem State.store_attReqs (s : State) (x n v : Nat) : (s.store x n v).attReqs = s.attReqs := rfl
@[simp] theorem State.store_wtab (s : State) (x n v : Nat) : (s.store x n v).wtab = s.wtab := rfl
@[simp] theorem State.store_flits (s : State) (x n v : Nat) : (s.store x n v).flits = s.flits := rfl
@[simp] theorem State.store_locked (s : State) (x n v : Nat) : (s.store x n v).locked = s.locked := rfl
@[simp] theorem State.store_clock (s : State) (x n v : Nat) : (s.store x n v).clock = s.clock := rfl

/-! ### State.storeCells -/

@[simp] theorem State.storeCells_gt (s : State) (cs : List Host.Cell) : (s.storeCells cs).gt = s.gt := rfl
@[simp] theorem State.storeCells_free (s : State) (cs : List Host.Cell) : (s.storeCells cs).free = s.free := rfl
@[simp] theorem State.storeCells_issue (s : State) (cs : List Host.Cell) : (s.storeCells cs).issue = s.issue := rfl
@[simp] theorem State.storeCells_inputs (s : State) (cs : List Host.Cell) : (s.storeCells cs).inputs = s.inputs := rfl
@[simp] theorem State.storeCells_seqNow (s : State) (cs : List Host.Cell) : (s.storeCells cs).seqNow = s.seqNow := rfl
@[simp] theorem State.storeCells_stepReq (s : State) (cs : List Host.Cell) : (s.storeCells cs).stepReq = s.stepReq := rfl
@[simp] theorem State.storeCells_blocks (s : State) (cs : List Host.Cell) : (s.storeCells cs).blocks = s.blocks := rfl
@[simp] theorem State.storeCells_launches (s : State) (cs : List Host.Cell) : (s.storeCells cs).launches = s.launches := rfl
@[simp] theorem State.storeCells_ctxs (s : State) (cs : List Host.Cell) : (s.storeCells cs).ctxs = s.ctxs := rfl
@[simp] theorem State.storeCells_csrs (s : State) (cs : List Host.Cell) : (s.storeCells cs).csrs = s.csrs := rfl
@[simp] theorem State.storeCells_slotGens (s : State) (cs : List Host.Cell) : (s.storeCells cs).slotGens = s.slotGens := rfl
@[simp] theorem State.storeCells_ops (s : State) (cs : List Host.Cell) : (s.storeCells cs).ops = s.ops := rfl
@[simp] theorem State.storeCells_accs (s : State) (cs : List Host.Cell) : (s.storeCells cs).accs = s.accs := rfl
@[simp] theorem State.storeCells_copies (s : State) (cs : List Host.Cell) : (s.storeCells cs).copies = s.copies := rfl
@[simp] theorem State.storeCells_leases (s : State) (cs : List Host.Cell) : (s.storeCells cs).leases = s.leases := rfl
@[simp] theorem State.storeCells_xleases (s : State) (cs : List Host.Cell) : (s.storeCells cs).xleases = s.xleases := rfl
@[simp] theorem State.storeCells_tlb (s : State) (cs : List Host.Cell) : (s.storeCells cs).tlb = s.tlb := rfl
@[simp] theorem State.storeCells_code (s : State) (cs : List Host.Cell) : (s.storeCells cs).code = s.code := rfl
@[simp] theorem State.storeCells_records (s : State) (cs : List Host.Cell) : (s.storeCells cs).records = s.records := rfl
@[simp] theorem State.storeCells_nextId (s : State) (cs : List Host.Cell) : (s.storeCells cs).nextId = s.nextId := rfl
@[simp] theorem State.storeCells_snoops (s : State) (cs : List Host.Cell) : (s.storeCells cs).snoops = s.snoops := rfl
@[simp] theorem State.storeCells_hostReqs (s : State) (cs : List Host.Cell) : (s.storeCells cs).hostReqs = s.hostReqs := rfl
@[simp] theorem State.storeCells_cmds (s : State) (cs : List Host.Cell) : (s.storeCells cs).cmds = s.cmds := rfl
@[simp] theorem State.storeCells_lineBufs (s : State) (cs : List Host.Cell) : (s.storeCells cs).lineBufs = s.lineBufs := rfl
@[simp] theorem State.storeCells_bars (s : State) (cs : List Host.Cell) : (s.storeCells cs).bars = s.bars := rfl
@[simp] theorem State.storeCells_cards (s : State) (cs : List Host.Cell) : (s.storeCells cs).cards = s.cards := rfl
@[simp] theorem State.storeCells_slices (s : State) (cs : List Host.Cell) : (s.storeCells cs).slices = s.slices := rfl
@[simp] theorem State.storeCells_bins (s : State) (cs : List Host.Cell) : (s.storeCells cs).bins = s.bins := rfl
@[simp] theorem State.storeCells_resvs (s : State) (cs : List Host.Cell) : (s.storeCells cs).resvs = s.resvs := rfl
@[simp] theorem State.storeCells_cardGen (s : State) (cs : List Host.Cell) : (s.storeCells cs).cardGen = s.cardGen := rfl
@[simp] theorem State.storeCells_rails (s : State) (cs : List Host.Cell) : (s.storeCells cs).rails = s.rails := rfl
@[simp] theorem State.storeCells_irqs (s : State) (cs : List Host.Cell) : (s.storeCells cs).irqs = s.irqs := rfl
@[simp] theorem State.storeCells_engines (s : State) (cs : List Host.Cell) : (s.storeCells cs).engines = s.engines := rfl
@[simp] theorem State.storeCells_energy (s : State) (cs : List Host.Cell) : (s.storeCells cs).energy = s.energy := rfl
@[simp] theorem State.storeCells_ereqs (s : State) (cs : List Host.Cell) : (s.storeCells cs).ereqs = s.ereqs := rfl
@[simp] theorem State.storeCells_bursts (s : State) (cs : List Host.Cell) : (s.storeCells cs).bursts = s.bursts := rfl
@[simp] theorem State.storeCells_refills (s : State) (cs : List Host.Cell) : (s.storeCells cs).refills = s.refills := rfl
@[simp] theorem State.storeCells_tele (s : State) (cs : List Host.Cell) : (s.storeCells cs).tele = s.tele := rfl
@[simp] theorem State.storeCells_droops (s : State) (cs : List Host.Cell) : (s.storeCells cs).droops = s.droops := rfl
@[simp] theorem State.storeCells_hops (s : State) (cs : List Host.Cell) : (s.storeCells cs).hops = s.hops := rfl
@[simp] theorem State.storeCells_moves (s : State) (cs : List Host.Cell) : (s.storeCells cs).moves = s.moves := rfl
@[simp] theorem State.storeCells_ticked (s : State) (cs : List Host.Cell) : (s.storeCells cs).ticked = s.ticked := rfl
@[simp] theorem State.storeCells_coreCtx (s : State) (cs : List Host.Cell) : (s.storeCells cs).coreCtx = s.coreCtx := rfl
@[simp] theorem State.storeCells_switches (s : State) (cs : List Host.Cell) : (s.storeCells cs).switches = s.switches := rfl
@[simp] theorem State.storeCells_cellar (s : State) (cs : List Host.Cell) : (s.storeCells cs).cellar = s.cellar := rfl
@[simp] theorem State.storeCells_sliced (s : State) (cs : List Host.Cell) : (s.storeCells cs).sliced = s.sliced := rfl
@[simp] theorem State.storeCells_queues (s : State) (cs : List Host.Cell) : (s.storeCells cs).queues = s.queues := rfl
@[simp] theorem State.storeCells_bells (s : State) (cs : List Host.Cell) : (s.storeCells cs).bells = s.bells := rfl
@[simp] theorem State.storeCells_traces (s : State) (cs : List Host.Cell) : (s.storeCells cs).traces = s.traces := rfl
@[simp] theorem State.storeCells_booted (s : State) (cs : List Host.Cell) : (s.storeCells cs).booted = s.booted := rfl
@[simp] theorem State.storeCells_marks (s : State) (cs : List Host.Cell) : (s.storeCells cs).marks = s.marks := rfl
@[simp] theorem State.storeCells_changed (s : State) (cs : List Host.Cell) : (s.storeCells cs).changed = s.changed := rfl
@[simp] theorem State.storeCells_fresh (s : State) (cs : List Host.Cell) : (s.storeCells cs).fresh = s.fresh := rfl
@[simp] theorem State.storeCells_reheld (s : State) (cs : List Host.Cell) : (s.storeCells cs).reheld = s.reheld := rfl
@[simp] theorem State.storeCells_firmware (s : State) (cs : List Host.Cell) : (s.storeCells cs).firmware = s.firmware := rfl
@[simp] theorem State.storeCells_refused (s : State) (cs : List Host.Cell) : (s.storeCells cs).refused = s.refused := rfl
@[simp] theorem State.storeCells_attStep (s : State) (cs : List Host.Cell) : (s.storeCells cs).attStep = s.attStep := rfl
@[simp] theorem State.storeCells_attLow (s : State) (cs : List Host.Cell) : (s.storeCells cs).attLow = s.attLow := rfl
@[simp] theorem State.storeCells_attReqs (s : State) (cs : List Host.Cell) : (s.storeCells cs).attReqs = s.attReqs := rfl
@[simp] theorem State.storeCells_wtab (s : State) (cs : List Host.Cell) : (s.storeCells cs).wtab = s.wtab := rfl
@[simp] theorem State.storeCells_flits (s : State) (cs : List Host.Cell) : (s.storeCells cs).flits = s.flits := rfl
@[simp] theorem State.storeCells_locked (s : State) (cs : List Host.Cell) : (s.storeCells cs).locked = s.locked := rfl
@[simp] theorem State.storeCells_clock (s : State) (cs : List Host.Cell) : (s.storeCells cs).clock = s.clock := rfl

/-! ### State.closeIssue -/

@[simp] theorem State.closeIssue_gt (s : State) : (s.closeIssue).gt = s.gt := rfl
@[simp] theorem State.closeIssue_free (s : State) : (s.closeIssue).free = s.free := rfl
@[simp] theorem State.closeIssue_inputs (s : State) : (s.closeIssue).inputs = s.inputs := rfl
@[simp] theorem State.closeIssue_seqNow (s : State) : (s.closeIssue).seqNow = s.seqNow := rfl
@[simp] theorem State.closeIssue_stepReq (s : State) : (s.closeIssue).stepReq = s.stepReq := rfl
@[simp] theorem State.closeIssue_blocks (s : State) : (s.closeIssue).blocks = s.blocks := rfl
@[simp] theorem State.closeIssue_launches (s : State) : (s.closeIssue).launches = s.launches := rfl
@[simp] theorem State.closeIssue_ctxs (s : State) : (s.closeIssue).ctxs = s.ctxs := rfl
@[simp] theorem State.closeIssue_csrs (s : State) : (s.closeIssue).csrs = s.csrs := rfl
@[simp] theorem State.closeIssue_slotGens (s : State) : (s.closeIssue).slotGens = s.slotGens := rfl
@[simp] theorem State.closeIssue_mem (s : State) : (s.closeIssue).mem = s.mem := rfl
@[simp] theorem State.closeIssue_badMem (s : State) : (s.closeIssue).badMem = s.badMem := rfl
@[simp] theorem State.closeIssue_ops (s : State) : (s.closeIssue).ops = s.ops := rfl
@[simp] theorem State.closeIssue_accs (s : State) : (s.closeIssue).accs = s.accs := rfl
@[simp] theorem State.closeIssue_copies (s : State) : (s.closeIssue).copies = s.copies := rfl
@[simp] theorem State.closeIssue_leases (s : State) : (s.closeIssue).leases = s.leases := rfl
@[simp] theorem State.closeIssue_xleases (s : State) : (s.closeIssue).xleases = s.xleases := rfl
@[simp] theorem State.closeIssue_tlb (s : State) : (s.closeIssue).tlb = s.tlb := rfl
@[simp] theorem State.closeIssue_code (s : State) : (s.closeIssue).code = s.code := rfl
@[simp] theorem State.closeIssue_records (s : State) : (s.closeIssue).records = s.records := rfl
@[simp] theorem State.closeIssue_nextId (s : State) : (s.closeIssue).nextId = s.nextId := rfl
@[simp] theorem State.closeIssue_snoops (s : State) : (s.closeIssue).snoops = s.snoops := rfl
@[simp] theorem State.closeIssue_hostReqs (s : State) : (s.closeIssue).hostReqs = s.hostReqs := rfl
@[simp] theorem State.closeIssue_cmds (s : State) : (s.closeIssue).cmds = s.cmds := rfl
@[simp] theorem State.closeIssue_lineBufs (s : State) : (s.closeIssue).lineBufs = s.lineBufs := rfl
@[simp] theorem State.closeIssue_bars (s : State) : (s.closeIssue).bars = s.bars := rfl
@[simp] theorem State.closeIssue_cards (s : State) : (s.closeIssue).cards = s.cards := rfl
@[simp] theorem State.closeIssue_slices (s : State) : (s.closeIssue).slices = s.slices := rfl
@[simp] theorem State.closeIssue_bins (s : State) : (s.closeIssue).bins = s.bins := rfl
@[simp] theorem State.closeIssue_resvs (s : State) : (s.closeIssue).resvs = s.resvs := rfl
@[simp] theorem State.closeIssue_cardGen (s : State) : (s.closeIssue).cardGen = s.cardGen := rfl
@[simp] theorem State.closeIssue_rails (s : State) : (s.closeIssue).rails = s.rails := rfl
@[simp] theorem State.closeIssue_irqs (s : State) : (s.closeIssue).irqs = s.irqs := rfl
@[simp] theorem State.closeIssue_engines (s : State) : (s.closeIssue).engines = s.engines := rfl
@[simp] theorem State.closeIssue_energy (s : State) : (s.closeIssue).energy = s.energy := rfl
@[simp] theorem State.closeIssue_ereqs (s : State) : (s.closeIssue).ereqs = s.ereqs := rfl
@[simp] theorem State.closeIssue_bursts (s : State) : (s.closeIssue).bursts = s.bursts := rfl
@[simp] theorem State.closeIssue_refills (s : State) : (s.closeIssue).refills = s.refills := rfl
@[simp] theorem State.closeIssue_tele (s : State) : (s.closeIssue).tele = s.tele := rfl
@[simp] theorem State.closeIssue_droops (s : State) : (s.closeIssue).droops = s.droops := rfl
@[simp] theorem State.closeIssue_hops (s : State) : (s.closeIssue).hops = s.hops := rfl
@[simp] theorem State.closeIssue_moves (s : State) : (s.closeIssue).moves = s.moves := rfl
@[simp] theorem State.closeIssue_ticked (s : State) : (s.closeIssue).ticked = s.ticked := rfl
@[simp] theorem State.closeIssue_coreCtx (s : State) : (s.closeIssue).coreCtx = s.coreCtx := rfl
@[simp] theorem State.closeIssue_switches (s : State) : (s.closeIssue).switches = s.switches := rfl
@[simp] theorem State.closeIssue_cellar (s : State) : (s.closeIssue).cellar = s.cellar := rfl
@[simp] theorem State.closeIssue_sliced (s : State) : (s.closeIssue).sliced = s.sliced := rfl
@[simp] theorem State.closeIssue_queues (s : State) : (s.closeIssue).queues = s.queues := rfl
@[simp] theorem State.closeIssue_bells (s : State) : (s.closeIssue).bells = s.bells := rfl
@[simp] theorem State.closeIssue_traces (s : State) : (s.closeIssue).traces = s.traces := rfl
@[simp] theorem State.closeIssue_booted (s : State) : (s.closeIssue).booted = s.booted := rfl
@[simp] theorem State.closeIssue_marks (s : State) : (s.closeIssue).marks = s.marks := rfl
@[simp] theorem State.closeIssue_changed (s : State) : (s.closeIssue).changed = s.changed := rfl
@[simp] theorem State.closeIssue_fresh (s : State) : (s.closeIssue).fresh = s.fresh := rfl
@[simp] theorem State.closeIssue_reheld (s : State) : (s.closeIssue).reheld = s.reheld := rfl
@[simp] theorem State.closeIssue_firmware (s : State) : (s.closeIssue).firmware = s.firmware := rfl
@[simp] theorem State.closeIssue_refused (s : State) : (s.closeIssue).refused = s.refused := rfl
@[simp] theorem State.closeIssue_attStep (s : State) : (s.closeIssue).attStep = s.attStep := rfl
@[simp] theorem State.closeIssue_attLow (s : State) : (s.closeIssue).attLow = s.attLow := rfl
@[simp] theorem State.closeIssue_attReqs (s : State) : (s.closeIssue).attReqs = s.attReqs := rfl
@[simp] theorem State.closeIssue_wtab (s : State) : (s.closeIssue).wtab = s.wtab := rfl
@[simp] theorem State.closeIssue_flits (s : State) : (s.closeIssue).flits = s.flits := rfl
@[simp] theorem State.closeIssue_locked (s : State) : (s.closeIssue).locked = s.locked := rfl
@[simp] theorem State.closeIssue_clock (s : State) : (s.closeIssue).clock = s.clock := rfl

/-! ### State.raise -/

@[simp] theorem State.raise_gt (s : State) (v : Nat) : (s.raise v).gt = s.gt := rfl
@[simp] theorem State.raise_free (s : State) (v : Nat) : (s.raise v).free = s.free := rfl
@[simp] theorem State.raise_issue (s : State) (v : Nat) : (s.raise v).issue = s.issue := rfl
@[simp] theorem State.raise_inputs (s : State) (v : Nat) : (s.raise v).inputs = s.inputs := rfl
@[simp] theorem State.raise_seqNow (s : State) (v : Nat) : (s.raise v).seqNow = s.seqNow := rfl
@[simp] theorem State.raise_stepReq (s : State) (v : Nat) : (s.raise v).stepReq = s.stepReq := rfl
@[simp] theorem State.raise_blocks (s : State) (v : Nat) : (s.raise v).blocks = s.blocks := rfl
@[simp] theorem State.raise_launches (s : State) (v : Nat) : (s.raise v).launches = s.launches := rfl
@[simp] theorem State.raise_ctxs (s : State) (v : Nat) : (s.raise v).ctxs = s.ctxs := rfl
@[simp] theorem State.raise_csrs (s : State) (v : Nat) : (s.raise v).csrs = s.csrs := rfl
@[simp] theorem State.raise_slotGens (s : State) (v : Nat) : (s.raise v).slotGens = s.slotGens := rfl
@[simp] theorem State.raise_mem (s : State) (v : Nat) : (s.raise v).mem = s.mem := rfl
@[simp] theorem State.raise_badMem (s : State) (v : Nat) : (s.raise v).badMem = s.badMem := rfl
@[simp] theorem State.raise_ops (s : State) (v : Nat) : (s.raise v).ops = s.ops := rfl
@[simp] theorem State.raise_accs (s : State) (v : Nat) : (s.raise v).accs = s.accs := rfl
@[simp] theorem State.raise_copies (s : State) (v : Nat) : (s.raise v).copies = s.copies := rfl
@[simp] theorem State.raise_leases (s : State) (v : Nat) : (s.raise v).leases = s.leases := rfl
@[simp] theorem State.raise_xleases (s : State) (v : Nat) : (s.raise v).xleases = s.xleases := rfl
@[simp] theorem State.raise_tlb (s : State) (v : Nat) : (s.raise v).tlb = s.tlb := rfl
@[simp] theorem State.raise_code (s : State) (v : Nat) : (s.raise v).code = s.code := rfl
@[simp] theorem State.raise_records (s : State) (v : Nat) : (s.raise v).records = s.records := rfl
@[simp] theorem State.raise_nextId (s : State) (v : Nat) : (s.raise v).nextId = s.nextId := rfl
@[simp] theorem State.raise_snoops (s : State) (v : Nat) : (s.raise v).snoops = s.snoops := rfl
@[simp] theorem State.raise_hostReqs (s : State) (v : Nat) : (s.raise v).hostReqs = s.hostReqs := rfl
@[simp] theorem State.raise_cmds (s : State) (v : Nat) : (s.raise v).cmds = s.cmds := rfl
@[simp] theorem State.raise_lineBufs (s : State) (v : Nat) : (s.raise v).lineBufs = s.lineBufs := rfl
@[simp] theorem State.raise_bars (s : State) (v : Nat) : (s.raise v).bars = s.bars := rfl
@[simp] theorem State.raise_cards (s : State) (v : Nat) : (s.raise v).cards = s.cards := rfl
@[simp] theorem State.raise_slices (s : State) (v : Nat) : (s.raise v).slices = s.slices := rfl
@[simp] theorem State.raise_bins (s : State) (v : Nat) : (s.raise v).bins = s.bins := rfl
@[simp] theorem State.raise_resvs (s : State) (v : Nat) : (s.raise v).resvs = s.resvs := rfl
@[simp] theorem State.raise_cardGen (s : State) (v : Nat) : (s.raise v).cardGen = s.cardGen := rfl
@[simp] theorem State.raise_rails (s : State) (v : Nat) : (s.raise v).rails = s.rails := rfl
@[simp] theorem State.raise_engines (s : State) (v : Nat) : (s.raise v).engines = s.engines := rfl
@[simp] theorem State.raise_energy (s : State) (v : Nat) : (s.raise v).energy = s.energy := rfl
@[simp] theorem State.raise_ereqs (s : State) (v : Nat) : (s.raise v).ereqs = s.ereqs := rfl
@[simp] theorem State.raise_bursts (s : State) (v : Nat) : (s.raise v).bursts = s.bursts := rfl
@[simp] theorem State.raise_refills (s : State) (v : Nat) : (s.raise v).refills = s.refills := rfl
@[simp] theorem State.raise_tele (s : State) (v : Nat) : (s.raise v).tele = s.tele := rfl
@[simp] theorem State.raise_droops (s : State) (v : Nat) : (s.raise v).droops = s.droops := rfl
@[simp] theorem State.raise_hops (s : State) (v : Nat) : (s.raise v).hops = s.hops := rfl
@[simp] theorem State.raise_moves (s : State) (v : Nat) : (s.raise v).moves = s.moves := rfl
@[simp] theorem State.raise_ticked (s : State) (v : Nat) : (s.raise v).ticked = s.ticked := rfl
@[simp] theorem State.raise_coreCtx (s : State) (v : Nat) : (s.raise v).coreCtx = s.coreCtx := rfl
@[simp] theorem State.raise_switches (s : State) (v : Nat) : (s.raise v).switches = s.switches := rfl
@[simp] theorem State.raise_cellar (s : State) (v : Nat) : (s.raise v).cellar = s.cellar := rfl
@[simp] theorem State.raise_sliced (s : State) (v : Nat) : (s.raise v).sliced = s.sliced := rfl
@[simp] theorem State.raise_queues (s : State) (v : Nat) : (s.raise v).queues = s.queues := rfl
@[simp] theorem State.raise_bells (s : State) (v : Nat) : (s.raise v).bells = s.bells := rfl
@[simp] theorem State.raise_traces (s : State) (v : Nat) : (s.raise v).traces = s.traces := rfl
@[simp] theorem State.raise_booted (s : State) (v : Nat) : (s.raise v).booted = s.booted := rfl
@[simp] theorem State.raise_marks (s : State) (v : Nat) : (s.raise v).marks = s.marks := rfl
@[simp] theorem State.raise_changed (s : State) (v : Nat) : (s.raise v).changed = s.changed := rfl
@[simp] theorem State.raise_fresh (s : State) (v : Nat) : (s.raise v).fresh = s.fresh := rfl
@[simp] theorem State.raise_reheld (s : State) (v : Nat) : (s.raise v).reheld = s.reheld := rfl
@[simp] theorem State.raise_firmware (s : State) (v : Nat) : (s.raise v).firmware = s.firmware := rfl
@[simp] theorem State.raise_refused (s : State) (v : Nat) : (s.raise v).refused = s.refused := rfl
@[simp] theorem State.raise_attStep (s : State) (v : Nat) : (s.raise v).attStep = s.attStep := rfl
@[simp] theorem State.raise_attLow (s : State) (v : Nat) : (s.raise v).attLow = s.attLow := rfl
@[simp] theorem State.raise_attReqs (s : State) (v : Nat) : (s.raise v).attReqs = s.attReqs := rfl
@[simp] theorem State.raise_wtab (s : State) (v : Nat) : (s.raise v).wtab = s.wtab := rfl
@[simp] theorem State.raise_flits (s : State) (v : Nat) : (s.raise v).flits = s.flits := rfl
@[simp] theorem State.raise_locked (s : State) (v : Nat) : (s.raise v).locked = s.locked := rfl
@[simp] theorem State.raise_clock (s : State) (v : Nat) : (s.raise v).clock = s.clock := rfl

@[simp] theorem State.closeIssue_issue (s : State) : s.closeIssue.issue = none := rfl

end Sys2Proof.Machine
end

