-- ==== Sys2Proof/Laws/Lanes.lean ====
section
/-! SUPPORT. Lanes, blocks and warps: what the accessors read after an update. -/

namespace Sys2Proof.Machine

/-! ### Lanes -/

@[simp] theorem lanesOf_get {α : Type} (f : Lane → α) (l : Lane) : (lanesOf f)[l] = f l := by
  simp [lanesOf, allLanes]

@[simp] theorem lanesOf_getNat {α : Type} (f : Lane → α) (n : Nat) (h : n < 32) : (lanesOf f)[n] = f ⟨n, h⟩ := by
  simp [lanesOf, allLanes]

theorem mem_allLanes (l : Lane) : l ∈ allLanes := by simp [allLanes]

theorem mem_lanesIn (m : Mask) (l : Lane) : l ∈ lanesIn m ↔ inMask m l = true := by
  simp [lanesIn, mem_allLanes]

@[simp] theorem Warp.thread_modThreads (w : Warp) (f : Lane → Thread → Thread) (l : Lane) :
    (w.modThreads f).thread l = f l (w.thread l) := by
  simp [Warp.modThreads, Warp.thread]

/-! ### Blocks and warps -/

theorem find_map_bid (f : Block → Block) (hf : ∀ b, (f b).bid = b.bid) (bid : Nat) (l : List Block) :
    (l.map f).find? (fun b => b.bid == bid) = (l.find? fun b => b.bid == bid).map f := by
  induction l with
  | nil => rfl
  | cons b l ih =>
    simp only [List.map_cons, List.find?_cons, hf]
    split <;> simp [ih]

/-- A block after an update of one block that keeps its number. -/
theorem State.block?_modBlock (s : State) (bid : Nat) (f : Block → Block) (hf : ∀ b, (f b).bid = b.bid) (n : Nat) :
    (s.modBlock bid f).block? n = (s.block? n).map fun b => if n = bid then f b else b := by
  unfold State.modBlock State.block?
  rw [find_map_bid _ (by intro b; split <;> simp [hf])]
  cases h : s.blocks.find? (fun b => b.bid == n) with
  | none => rfl
  | some b =>
    have hb := List.find?_some h
    simp only [beq_iff_eq] at hb
    simp [hb]

theorem State.block?_modWarp (s : State) (bid w : Nat) (f : Warp → Warp) (n : Nat) :
    (s.modWarp bid w f).block? n = (s.block? n).map fun b => if n = bid then b.modWarp w f else b :=
  s.block?_modBlock bid (fun b => b.modWarp w f) (fun _ => rfl) n

theorem State.block?_winWrite (s : State) (bid : Nat) (cs : List Host.Cell) (n : Nat) :
    (s.winWrite bid cs).block? n = (s.block? n).map fun b => if n = bid then b.stored cs else b :=
  s.block?_modBlock bid (fun b => b.stored cs) (fun _ => rfl) n

theorem Block.warp?_modWarp (b : Block) (w i : Nat) (f : Warp → Warp) :
    (b.modWarp w f).warp? i = (b.warp? i).map fun x => if i = w then f x else x := by
  simp only [Block.modWarp, Block.warp?, List.getElem?_modify]
  split <;> simp_all <;> split <;> simp_all

theorem State.warp?_eq (s : State) (bid i : Nat) : s.warp? bid i = (s.block? bid).bind fun b => b.warp? i := by
  unfold State.warp?
  cases s.block? bid <;> rfl

theorem State.warp?_modWarp (s : State) (bid w : Nat) (f : Warp → Warp) (n i : Nat) :
    (s.modWarp bid w f).warp? n i = (s.warp? n i).map fun x => if n = bid ∧ i = w then f x else x := by
  rw [State.warp?_eq, State.warp?_eq, State.block?_modWarp]
  cases s.block? n with
  | none => rfl
  | some b =>
    by_cases h : n = bid
    · simp [h, Block.warp?_modWarp]
    · simp only [Option.map_some, Option.bind_some, h, if_false, false_and]
      cases b.warp? i <;> rfl

theorem State.warp?_winWrite (s : State) (bid : Nat) (cs : List Host.Cell) (n i : Nat) :
    (s.winWrite bid cs).warp? n i = s.warp? n i := by
  rw [State.warp?_eq, State.warp?_eq, State.block?_winWrite]
  cases s.block? n with
  | none => rfl
  | some b => by_cases h : n = bid <;> simp [h, Block.warp?, Block.stored]

@[simp] theorem State.block?_closeIssue (s : State) (n : Nat) : s.closeIssue.block? n = s.block? n := rfl
@[simp] theorem State.warp?_closeIssue (s : State) (n i : Nat) : s.closeIssue.warp? n i = s.warp? n i := rfl

end Sys2Proof.Machine
end

