-- ==== Sys2Proof/Laws/Words.lean ====
section
/-! SUPPORT. What a word does: a word in issue runs, and where nothing hinders it it has its effect and no other. -/

namespace Sys2Proof.Machine

open Sys2Proof

/-- A word in issue runs on its active set. -/
theorem withWord_issuing {s : State} {g : Option PReg} {x : Exec} (h : Issuing s g x) (k : Exec → Result) :
    withWord s g k = k x := by
  obtain ⟨⟨h1, h2, h3, h4, h5⟩, h6⟩ := h
  obtain ⟨xs, xi, xb, xw, xa⟩ := x
  simp only at h1 h2 h3 h4 h5 h6
  subst h1 h5
  simp only [withWord, withIssue, h2, h3, h4, if_neg h6]

/-- A word in issue runs, whatever its active set is. -/
theorem withIssue_issued {s : State} {g : Option PReg} {x : Exec} (h : Issued s g x) (k : Exec → Result) :
    withIssue s g k = k x := by
  obtain ⟨h1, h2, h3, h4, h5⟩ := h
  obtain ⟨xs, xi, xb, xw, xa⟩ := x
  simp only at h1 h2 h3 h4 h5
  subst h1 h5
  simp only [withIssue, h2, h3, h4]

theorem filterMap_eq_nil_of {α β : Type} (f : α → Option β) (l : List α) (h : ∀ a ∈ l, f a = none) : l.filterMap f = [] := by
  induction l with
  | nil => rfl
  | cons a l ih => simp [h a (by simp), ih fun b hb => h b (by simp [hb])]

/-- A word that touches nothing meets no watchpoint. -/
theorem wpHits_nil (x : Exec) : x.wpHits [] = [] := by
  unfold Exec.wpHits
  apply filterMap_eq_nil_of
  simp

theorem bpHits_debugCauses {x : Exec} (h : x.bpHits = []) : x.debugCauses [] = [] := by
  simp only [Exec.debugCauses, h, wpHits_nil, List.filter_nil, List.head?_nil, List.append_nil]

theorem bpHits_debugEvents {x : Exec} (h : x.bpHits = []) : x.debugEvents [] = [] := by
  simp [Exec.debugEvents, h, wpHits_nil]

/-- Registers without an error add no condition. -/
theorem allCauses_sound {x : Exec} (h : x.hardCauses = []) (cs : List (Lane × Cause)) : x.allCauses cs = cs := by
  simp [Exec.allCauses, h]

/-- No condition, nothing that disturbs: the word goes on. -/
theorem orTrap_quiet {x : Exec} (h : Undisturbed x) (k : Result) : x.orTrap [] [] k = k := by
  simp [Exec.orTrap, allCauses_sound h.sound, firstCause, bpHits_debugCauses h.quiet, bpHits_debugEvents h.quiet,
    withEvents]

/-- The lanes' results as `writeLanes` holds them. -/
def outsOf' (x : Exec) (out : Lane → LaneOut) : Vector (Option (Except Cause LaneOut)) 32 :=
  lanesOf fun l => if inMask x.act l then some (.ok (out l)) else none

theorem laneCauses_outs (x : Exec) (out : Lane → LaneOut) : laneCauses (outsOf' x out) = [] := by
  apply filterMap_eq_nil_of
  intro l _
  simp only [outsOf', lanesOf_get]
  split <;> simp_all

/-- A word whose active lanes all read and write without a condition completes. -/
theorem run_completes {α : Type} {x : Exec} {uses : List RegUse} (hu : Unhindered x uses) (rd : LaneRead α)
    (wr : LaneWrite α) (upd : (Lane → Option α) → Warp → Warp) (val : Lane → α) (th : Lane → Thread) (out : Lane → LaneOut)
    (hrd : ∀ l, inMask x.act l = true → rd l ((x.w.thread l).pass x.i.len) = .ok (val l, th l))
    (hwr : ∀ l, inMask x.act l = true →
      wr (fun k => if inMask x.act k then some (val k) else none) l (val l) (th l) = .ok (out l)) :
    x.run uses false rd wr upd =
      .next (x.finish uses (outsOf' x out) (upd fun k => if inMask x.act k then some (val k) else none)) := by
  have hreads : x.readLanes uses false rd = lanesOf fun l => if inMask x.act l then some (.ok (val l, th l)) else none := by
    unfold Exec.readLanes
    congr 1
    funext l
    split
    · next h => simp [hu.regs l h, hrd l h, Exec.ranked]
    · rfl
  have hval : laneVal (x.readLanes uses false rd) = fun k => if inMask x.act k then some (val k) else none := by
    funext k
    simp only [laneVal, hreads, lanesOf_get]
    split <;> simp_all
  have houts : writeLanes (x.readLanes uses false rd) wr = outsOf' x out := by
    unfold writeLanes outsOf'
    congr 1
    funext l
    rw [hval]
    simp only [hreads, lanesOf_get]
    by_cases h : inMask x.act l = true
    · simp only [h, if_true]
      rw [hwr l h]
    · simp [h]
  simp only [Exec.run, hu.free, Bool.false_eq_true, if_false, houts, hval, laneCauses_outs]
  exact orTrap_quiet hu.toUndisturbed _

/-! ### What a finished word has changed -/

theorem foldl_winWrite_rest (ps : List (Nat × List Host.Cell)) (s : State) :
    { ps.foldl (fun s p => s.winWrite p.1 p.2) s with blocks := s.blocks } = s := by
  induction ps generalizing s with
  | nil => rfl
  | cons p ps ih => exact (congrArg (fun t : State => { t with blocks := s.blocks }) (ih (s.winWrite p.1 p.2)))

theorem foldl_winWrite_warp (ps : List (Nat × List Host.Cell)) (s : State) (n i : Nat) :
    (ps.foldl (fun s p => s.winWrite p.1 p.2) s).warp? n i = s.warp? n i := by
  induction ps generalizing s with
  | nil => rfl
  | cons p ps ih => rw [List.foldl_cons, ih, State.warp?_winWrite]

theorem foldl_winWrite_block (ps : List (Nat × List Host.Cell)) (s : State) (n : Nat) (b : Block)
    (h : s.block? n = some b) :
    ∃ b', (ps.foldl (fun s p => s.winWrite p.1 p.2) s).block? n = some b' ∧ b' = { b with win := b'.win, bad := b'.bad } := by
  induction ps generalizing s b with
  | nil => exact ⟨b, h, rfl⟩
  | cons p ps ih =>
    have h' := s.block?_winWrite p.1 p.2 n
    rw [h] at h'
    obtain ⟨b', hb, he⟩ := ih (s.winWrite p.1 p.2) _ h'
    refine ⟨b', hb, ?_⟩
    rw [he]
    dsimp only
    split <;> rfl

/-- The windows after stores depend on the windows before only. -/
theorem foldl_winWrite_win (ps : List (Nat × List Host.Cell)) (s t : State) (n : Nat)
    (h : (s.block? n).map (fun b => (b.win, b.bad)) = (t.block? n).map fun b => (b.win, b.bad)) :
    ((ps.foldl (fun s p => s.winWrite p.1 p.2) s).block? n).map (fun b => (b.win, b.bad)) =
      ((ps.foldl (fun s p => s.winWrite p.1 p.2) t).block? n).map fun b => (b.win, b.bad) := by
  induction ps generalizing s t with
  | nil => exact h
  | cons p ps ih =>
    apply ih
    rw [State.block?_winWrite, State.block?_winWrite]
    cases hs : s.block? n <;> cases ht : t.block? n <;> simp_all
    split <;> simp_all [Block.stored]

/-- All the pushes of a list of lanes, as one list of stores. -/
theorem applyPushes_eq (s : State) (x : Exec) (out : Lane → LaneOut) :
    applyPushes s (outsOf' x out) =
      ((lanesIn x.act).flatMap fun l => (out l).pushes).foldl (fun s p => s.winWrite p.1 p.2) s := by
  unfold applyPushes lanesIn
  induction allLanes generalizing s with
  | nil => rfl
  | cons l ls ih =>
    rw [List.foldl_cons, ih]
    simp only [outsOf', lanesOf_get, List.filter_cons]
    by_cases h : inMask x.act l = true
    · simp [h]
    · simp [h]

theorem pushed_eq (x : Exec) (out : Lane → LaneOut) :
    pushed x out = ((lanesIn x.act).flatMap fun l => (out l).pushes).foldl (fun s p => s.winWrite p.1 p.2) x.s := by
  unfold pushed
  rw [List.foldl_flatMap]

theorem laneAfter_outs (x : Exec) (out : Lane → LaneOut) (l : Lane) :
    (x.outThreads (outsOf' x out))[l] = laneAfter x out l := by
  simp only [Exec.outThreads, outsOf', lanesOf_get, laneAfter]
  by_cases h : inMask x.act l = true <;> simp [h]

theorem settle_eq (w : Warp) : w.settle = { w with stopped := w.settle.stopped } := by
  unfold Warp.settle
  split <;> rfl

theorem cleanHard_eq (w : Warp) (i : Issue) (m : Mask) : w.cleanHard i m = { w with poison := (w.cleanHard i m).poison } := by
  unfold Warp.cleanHard
  split
  · rfl
  · split <;> rfl

/-- Which errors such a word clears depends on the errors alone. -/
theorem cleanHard_poison {v w : Warp} (h : v.poison = w.poison) (i : Issue) (m : Mask) :
    (v.cleanHard i m).poison = (w.cleanHard i m).poison := by
  unfold Warp.cleanHard
  rw [h]
  split
  · exact h
  · split
    · exact h
    · rfl

/-- What a word has changed that leaves its warp as `F` does and stores its pushes. -/
theorem changed_done {s : State} {g : Option PReg} {x : Exec} (h : Issued s g x) (uses : List RegUse)
    (out : Lane → LaneOut) (upd : Warp → Warp) (F : Warp → Warp)
    (hF : F x.w = { upd x.w with
      threads := (F x.w).threads, poison := ((x.w.cleanse x.act uses).cleanHard x.i x.act).poison, stopped := (F x.w).stopped })
    (ht : ∀ l, (F x.w).thread l = laneAfter x out l) :
    WordDone x uses out upd
      (((lanesIn x.act).flatMap fun l => (out l).pushes).foldl (fun s p => s.winWrite p.1 p.2)
        (x.s.modWarp x.i.bid x.i.w F).closeIssue) := by
  obtain ⟨h1, h2, h3, h4, h5⟩ := h
  generalize hps : ((lanesIn x.act).flatMap fun l => (out l).pushes) = ps
  have hw : x.s.warp? x.i.bid x.i.w = some x.w := by rw [State.warp?_eq, h1, h3]; exact h4
  have hs : ∀ n i, (ps.foldl (fun s p => s.winWrite p.1 p.2) (x.s.modWarp x.i.bid x.i.w F).closeIssue).warp? n i =
      (x.s.warp? n i).map fun w => if n = x.i.bid ∧ i = x.i.w then F w else w := by
    intro n i
    rw [foldl_winWrite_warp, State.warp?_closeIssue, State.warp?_modWarp]
  have hrest := foldl_winWrite_rest ps (x.s.modWarp x.i.bid x.i.w F).closeIssue
  have hR : { ps.foldl (fun s p => s.winWrite p.1 p.2) (x.s.modWarp x.i.bid x.i.w F).closeIssue with
      issue := x.s.issue, blocks := x.s.blocks } = x.s :=
    congrArg (fun u : State => { u with issue := x.s.issue, blocks := x.s.blocks }) hrest
  refine ⟨congrArg State.issue hrest, ⟨F x.w, by rw [hs, hw]; simp, ht, hF⟩, ?_, ?_, ?_,
    fun a => congrArg (fun m => memRead m a) (congrArg State.mem hR :), hR⟩
  · intro n i hn
    rw [hs]
    cases x.s.warp? n i with
    | none => rfl
    | some w =>
      have : ¬(n = x.i.bid ∧ i = x.i.w) := fun hc => hn (by rw [hc.1, hc.2])
      simp [this]
  · intro n b hb
    have hb' := State.block?_modWarp x.s x.i.bid x.i.w F n
    rw [hb, Option.map_some, ← State.block?_closeIssue] at hb'
    obtain ⟨b', hq, he⟩ := foldl_winWrite_block ps _ n _ hb'
    refine ⟨b', hq, ?_⟩
    rw [he]
    split <;> rfl
  · intro n
    rw [pushed_eq, hps]
    apply foldl_winWrite_win
    rw [State.block?_closeIssue, State.block?_modWarp]
    cases x.s.block? n with
    | none => rfl
    | some b => simp only [Option.map_some]; split <;> rfl

/-- What a completed word has changed. -/
theorem finish_done {s : State} {g : Option PReg} {x : Exec} (h : Issued s g x) (uses : List RegUse)
    (out : Lane → LaneOut) (upd : Warp → Warp)
    (hupd : ∀ w v, (upd { w with threads := v }) = { upd w with threads := v } ∧ (upd w).poison = w.poison) :
    WordDone x uses out upd (x.finish uses (outsOf' x out) upd) := by
  have e := (hupd x.w (x.outThreads (outsOf' x out))).1
  have hp := (hupd x.w x.w.threads).2
  unfold Exec.finish
  rw [applyPushes_eq]
  refine changed_done h uses out upd _ ?_ ?_
  · have hq := cleanHard_poison (v := Warp.cleanse { upd x.w with threads := x.outThreads (outsOf' x out) } x.act uses)
      (w := x.w.cleanse x.act uses) (by simp only [Warp.cleanse, hp]) x.i x.act
    rw [settle_eq, cleanHard_eq, e, hq]
    rfl
  · intro l
    rw [settle_eq, cleanHard_eq, e]
    exact laneAfter_outs x out l

/-- What a word that only changes its warp leaves. -/
theorem commit_done {s : State} {g : Option PReg} {x : Exec} (h : Issued s g x) (f : Warp → Warp) :
    WarpDone x f (x.commit f) := by
  obtain ⟨h1, h2, h3, h4, h5⟩ := h
  have hw : x.s.warp? x.i.bid x.i.w = some x.w := by rw [State.warp?_eq, h1, h3]; exact h4
  have hs : ∀ n i, (x.commit f).warp? n i = (x.s.warp? n i).map fun w =>
      if n = x.i.bid ∧ i = x.i.w then ((f (w.pass x.i.lanes x.i.len)).cleanHard x.i x.act).settle else w := by
    intro n i
    unfold Exec.commit
    rw [State.warp?_closeIssue, State.warp?_modWarp]
  refine ⟨rfl, by rw [hs, hw]; simp, ?_, ?_, fun _ => rfl, rfl⟩
  · intro n i hn
    rw [hs]
    cases x.s.warp? n i with
    | none => rfl
    | some w =>
      have : ¬(n = x.i.bid ∧ i = x.i.w) := fun hc => hn (by rw [hc.1, hc.2])
      simp [this]
  · intro n b hb
    unfold Exec.commit
    rw [State.block?_closeIssue, State.block?_modWarp, hb]
    refine ⟨_, rfl, ?_⟩
    split <;> rfl

/-- A word that reads, writes and changes its warp completes, and has changed nothing else. -/
theorem run_done {α : Type} {s : State} {g : Option PReg} {x : Exec} (h : Issuing s g x) {uses : List RegUse}
    (hu : Unhindered x uses) (rd : LaneRead α) (wr : LaneWrite α) (upd : (Lane → Option α) → Warp → Warp) (val : Lane → α)
    (th : Lane → Thread) (out : Lane → LaneOut)
    (hrd : ∀ l, inMask x.act l = true → rd l ((x.w.thread l).pass x.i.len) = .ok (val l, th l))
    (hwr : ∀ l, inMask x.act l = true →
      wr (fun k => if inMask x.act k then some (val k) else none) l (val l) (th l) = .ok (out l))
    (hupd : ∀ vals w v, (upd vals { w with threads := v }) = { upd vals w with threads := v } ∧ (upd vals w).poison = w.poison) :
    ∃ t, x.run uses false rd wr upd = .next t ∧
      WordDone x uses out (upd fun k => if inMask x.act k then some (val k) else none) t :=
  ⟨_, run_completes hu rd wr upd val th out hrd hwr, finish_done h.toIssued uses out _ (hupd _)⟩

end Sys2Proof.Machine
end

