-- ==== Sys2Proof/Laws/Forms.lean ====
section
/-! SUPPORT. The common shapes of register words: what each leaves where nothing hinders it. -/

namespace Sys2Proof.Machine

open Sys2Proof

/-- A word whose lanes do not depend on each other. -/
theorem run_lane {α : Type} {s : State} {g : Option PReg} {x : Exec} (h : Issuing s g x) {uses : List RegUse}
    (hu : Unhindered x uses) (rd : LaneRead α) (f : Lane → α → Thread → Except Cause LaneOut) (out : Lane → LaneOut)
    (ho : ∀ l, inMask x.act l = true →
      (match rd l (past x l) with | .error c => Except.error c | .ok (u, t) => f l u t) = Except.ok (out l)) :
    ∃ t, x.run uses false rd (fun _ l u t => f l u t) keepWarp = .next t ∧ WordDone x uses out id t := by
  have hex : ∀ l, inMask x.act l = true → ∃ p, rd l (past x l) = .ok p ∧ f l p.1 p.2 = .ok (out l) := by
    intro l hl
    have := ho l hl
    split at this
    · cases this
    · next u t e => exact ⟨(u, t), e, this⟩
  have hin : Nonempty (α × Thread) := by
    obtain ⟨k, hk⟩ : ∃ k, k ∈ lanesIn x.act := by
      apply List.exists_mem_of_ne_nil
      intro hn
      apply h.busy
      have hall : ∀ l : Lane, x.act.getLsbD l.val = false := by
        intro l
        have : l ∉ lanesIn x.act := by simp [hn]
        rw [mem_lanesIn] at this
        simpa [inMask] using this
      apply BitVec.eq_of_getLsbD_eq
      intro i hi
      simpa using hall ⟨i, hi⟩
    exact ⟨(hex k ((mem_lanesIn _ _).1 hk)).choose⟩
  classical
  let p : Lane → α × Thread := fun l =>
    if hl : inMask x.act l = true then (hex l hl).choose else Classical.choice hin
  have hp : ∀ l, inMask x.act l = true → rd l (past x l) = .ok (p l) ∧ f l (p l).1 (p l).2 = .ok (out l) := by
    intro l hl
    simp only [p, hl, dite_true]
    exact (hex l hl).choose_spec
  exact run_done h hu rd (fun _ l u t => f l u t) keepWarp (fun l => (p l).1) (fun l => (p l).2) out
    (fun l hl => (hp l hl).1) (fun l hl => (hp l hl).2) (fun _ _ _ => ⟨rfl, rfl⟩)

/-- d ← f a. -/
theorem unaryWord_done {s : State} {g : PReg} {d a : VReg} {x : Exec} {out : Lane → LaneOut}
    (f : Issue → Word → Word × Flags) (h : Issuing s (some g) x) (hu : Unhindered x [src1 a, dst1 d])
    (ho : ∀ l, inMask x.act l = true → unaryLane x d a (f x.i) l = .ok (out l)) :
    ∃ t, unaryWord s g d a f = .next t ∧ WordDone x [src1 a, dst1 d] out id t := by
  unfold unaryWord
  rw [withWord_issuing h]
  refine run_lane h hu (x.rd1 a) (fun _ u t => x.put1 (t.flag (f x.i u).2) d (f x.i u).1) out fun l hl => ?_
  rw [← ho l hl]
  unfold unaryLane Exec.rd1
  cases x.get1 (past x l) a <;> rfl

/-- d ← f a b. -/
theorem binaryWord_done {s : State} {g : PReg} {d a b : VReg} {x : Exec} {out : Lane → LaneOut}
    (f : Issue → Word → Word → Word × Flags) (h : Issuing s (some g) x) (hu : Unhindered x [src1 a, src1 b, dst1 d])
    (ho : ∀ l, inMask x.act l = true → binaryLane x d a b (f x.i) l = .ok (out l)) :
    ∃ t, binaryWord s g d a b f = .next t ∧ WordDone x [src1 a, src1 b, dst1 d] out id t := by
  unfold binaryWord
  rw [withWord_issuing h]
  refine run_lane h hu (x.rd11 a b) (fun _ u t => x.put1 (t.flag (f x.i u.1 u.2).2) d (f x.i u.1 u.2).1) out fun l hl => ?_
  rw [← ho l hl]
  unfold binaryLane Exec.rd11
  cases x.get1 (past x l) a with
  | error c => rfl
  | ok p => simp only; cases x.get1 p.2 b <;> rfl

/-- d ← f a b d. -/
theorem ternaryWord_done {s : State} {g : PReg} {d a b : VReg} {x : Exec} (val : Lane → Word × Word) (th : Lane → Thread)
    (f : Issue → Word → Word → Word → Word × Flags) (h : Issuing s (some g) x)
    (hu : Unhindered x [src1 a, src1 b, third1 d])
    (hr : ∀ l, inMask x.act l = true → readTwo x a b l = .ok (val l, th l)) :
    ∃ t, ternaryWord s g d a b f = .next t ∧ WordDone x [src1 a, src1 b, third1 d] (fun l =>
      plainOut (((th l).flag (f x.i (val l).1 (val l).2 ((th l).reg d)).2).setReg d
        (f x.i (val l).1 (val l).2 ((th l).reg d)).1)) id t := by
  unfold ternaryWord
  rw [withWord_issuing h]
  exact run_done h hu (x.rd11 a b) _ keepWarp val th _ hr (fun _ _ => rfl) (fun _ _ _ => ⟨rfl, rfl⟩)

/-- Pairs: d ← f a b. -/
theorem binaryPair_done {s : State} {g : PReg} {d a b : VReg} {x : Exec} (f : Issue → DWord → DWord → DWord × Flags)
    (h : Issuing s (some g) x) (hu : Unhindered x [src2 a, src2 b, dst2 d]) :
    ∃ t, binaryPair s g d a b f = .next t ∧ WordDone x [src2 a, src2 b, dst2 d] (fun l =>
      plainOut (((past x l).flag (f x.i ((past x l).get2 a) ((past x l).get2 b)).2).put2 d
        (f x.i ((past x l).get2 a) ((past x l).get2 b)).1)) id t := by
  unfold binaryPair
  rw [withWord_issuing h]
  exact run_done h hu _ _ keepWarp (fun l => ((past x l).get2 a, (past x l).get2 b)) (past x) _ (fun _ _ => rfl)
    (fun _ _ => rfl) (fun _ _ _ => ⟨rfl, rfl⟩)

/-- Pairs: d ← f a b d. -/
theorem ternaryPair_done {s : State} {g : PReg} {d a b : VReg} {x : Exec}
    (f : Issue → DWord → DWord → DWord → DWord × Flags) (h : Issuing s (some g) x)
    (hu : Unhindered x [src2 a, src2 b, third2 d]) :
    ∃ t, ternaryPair s g d a b f = .next t ∧ WordDone x [src2 a, src2 b, third2 d] (fun l =>
      plainOut (((past x l).flag (f x.i ((past x l).get2 a) ((past x l).get2 b) ((past x l).get2 d)).2).put2 d
        (f x.i ((past x l).get2 a) ((past x l).get2 b) ((past x l).get2 d)).1)) id t := by
  unfold ternaryPair
  rw [withWord_issuing h]
  exact run_done h hu _ _ keepWarp (fun l => ((past x l).get2 a, (past x l).get2 b)) (past x) _ (fun _ _ => rfl)
    (fun _ _ => rfl) (fun _ _ _ => ⟨rfl, rfl⟩)

/-- A word that names no register. -/
theorem plainWord_done {s : State} {g : Option PReg} {x : Exec} (upd : Exec → Lane → Thread → Thread) (h : Issuing s g x)
    (hu : Unhindered x []) :
    ∃ t, plainWord s g upd = .next t ∧ WordDone x [] (fun l => plainOut (upd x l (past x l))) id t := by
  unfold plainWord
  rw [withWord_issuing h]
  exact run_done h hu _ _ keepWarp (fun _ => ()) (past x) _ (fun _ _ => rfl) (fun _ _ => rfl) (fun _ _ _ => ⟨rfl, rfl⟩)

/-- A conversion. -/
theorem cvtWord_done {s : State} {g : PReg} {d a : VReg} {sd sa : Shape} {x : Exec} {out : Lane → LaneOut}
    (f : Issue → DWord → DWord × Flags) (h : Issuing s (some g) x) (hu : Unhindered x [useOf sa a .src, useOf sd d .dst])
    (ho : ∀ l, inMask x.act l = true → convertLane x sd sa d a (f x.i) l = .ok (out l)) :
    ∃ t, cvtWord s g d a sd sa f = .next t ∧ WordDone x [useOf sa a .src, useOf sd d .dst] out id t := by
  unfold cvtWord
  rw [withWord_issuing h]
  refine run_lane h hu (x.getShape sa a) (fun _ u t => x.putShape sd (t.flag (f x.i u).2) d (f x.i u).1) out fun l hl => ?_
  rw [← ho l hl]
  unfold convertLane
  cases x.getShape sa a l (past x l) <;> rfl

end Sys2Proof.Machine
end

