-- ==== Sys2Proof/Laws/Accesses.lean ====
section
/-! SUPPORT. What a memory word does: its accesses go in flight, and nothing else changes. -/

namespace Sys2Proof.Machine

open Sys2Proof

theorem filterMap_act {α β : Type} (m : Mask) (f : Lane → α) (k : Lane → α → Option β) (g : Lane → β)
    (h : ∀ l, inMask m l = true → k l (f l) = some (g l)) :
    (allLanes.filterMap fun l => if inMask m l then k l (f l) else none) = (lanesIn m).map g := by
  unfold lanesIn
  induction allLanes with
  | nil => rfl
  | cons l ls ih =>
    simp only [List.filterMap_cons, List.filter_cons]
    by_cases hl : inMask m l = true
    · simp [hl, h l hl, ih]
    · simp [hl, ih]

/-- States that differ in nothing but the TLBs and the picks made for them. -/
def sameButTlb (s t : State) : Prop := t = { s with tlb := t.tlb, free := t.free }

theorem sameButTlb.trans {s t u : State} (h : sameButTlb s t) (k : sameButTlb t u) : sameButTlb s u := by
  unfold sameButTlb at *
  rw [k, h]

theorem drawPick_tlb (s : State) (n : Nat) : sameButTlb s (s.drawPick n).2 := by
  unfold sameButTlb State.drawPick
  split <;> rfl

/-- A TLB that gives up a leaf changes nothing but the TLBs. -/
theorem trimTlb_tlb (s : State) (p : TlbPlace) : sameButTlb s (s.trimTlb p) := by
  unfold State.trimTlb
  dsimp only
  split
  · rfl
  · generalize hd : s.drawPick _ = d
    have h : sameButTlb s d.2 := by rw [← hd]; exact drawPick_tlb s _
    split
    · exact h.trans rfl
    · exact h

/-- A TLB that takes a leaf changes nothing but the TLBs. -/
theorem holdLeaf_tlb (s : State) (pn ctx va : Nat) (leaf : Nat × Nat) (p : TlbPlace) :
    sameButTlb s (s.holdLeaf pn ctx va leaf p) := by
  unfold State.holdLeaf
  split
  · rfl
  · exact (trimTlb_tlb s p).trans rfl

theorem keepLeaf_tlb (s : State) (core : Option Nat) (pn ctx va : Nat) : sameButTlb s (s.keepLeaf core pn ctx va) := by
  unfold State.keepLeaf
  split
  · exact (holdLeaf_tlb ..).trans (holdLeaf_tlb ..)
  · rfl

theorem foldl_keepLeaf (ts : List Touch) (core : Option Nat) (pn ctx : Nat) (s : State) :
    sameButTlb s (ts.foldl (fun s t => s.keepLeaf core pn ctx t.va) s) := by
  induction ts generalizing s with
  | nil => rfl
  | cons t ts ih => exact (keepLeaf_tlb s core pn ctx t.va).trans (ih _)

/-- No watchpoint, no condition, nothing that disturbs: the word goes on. -/
theorem orTrap_unwatched {x : Exec} (h : Undisturbed x) (hw : Unwatched x) (ts : List Touch) (k : Result) :
    x.orTrap [] ts k = k := by
  simp [Exec.orTrap, allCauses_sound h.sound, firstCause, Exec.debugCauses, Exec.debugEvents, h.quiet, hw ts, withEvents]

/-- A memory word whose active lanes all may access. -/
theorem memRun_done {s : State} {g : Option PReg} {x : Exec} {uses : List RegUse} (h : Issuing s g x)
    (hu : Unhindered x uses) (hw : Unwatched x) (isLoad counted : Bool)
    (hc : counted = true → x.w.counterFull isLoad = false) (lane : Lane → Thread → Except Cause MemOut)
    (now : List Draft → State → State) (o : Lane → MemOut)
    (hl : ∀ l, inMask x.act l = true → lane l (past x l) = .ok (o l)) :
    ∃ u, x.memRun uses isLoad counted lane now =
        .next (now ((lanesIn x.act).flatMap fun l => (o l).drafts) u) ∧
      AccessesIssued x uses (fun l => ⟨(o l).t, (o l).pushes⟩) isLoad counted
        ((lanesIn x.act).flatMap fun l => (o l).drafts) u := by
  have hc' : ¬ (counted = true ∧ x.w.counterFull isLoad = true) := by
    rintro ⟨h1, h2⟩
    rw [hc h1] at h2; cases h2
  have houts : x.memLanes uses lane = lanesOf fun l => if inMask x.act l then some (.ok (o l)) else none := by
    unfold Exec.memLanes
    congr 1
    funext l
    by_cases ha : inMask x.act l = true
    · simp only [ha, if_true, hu.regs l ha]
      have hl' : lane l ((x.w.thread l).pass x.i.len) = .ok (o l) := hl l ha
      rw [hl']
      rfl
    · simp [ha]
  have hcause : errList (x.memLanes uses lane) = [] := by
    rw [houts]
    apply filterMap_eq_nil_of
    intro l _
    simp only [lanesOf_get]
    split <;> simp_all
  have hok : okList (x.memLanes uses lane) = (lanesIn x.act).map fun l => (l, o l) := by
    rw [houts, ← filterMap_act x.act o (fun l p => some (l, p)) (fun l => (l, o l)) (fun _ _ => rfl)]
    unfold okList
    congr 1
    funext l
    simp only [lanesOf_get]
    by_cases ha : inMask x.act l = true <;> simp [ha]
  have hth : ∀ l t, memThread (x.memLanes uses lane) l t = if inMask x.act l then (o l).t else t := by
    intro l t
    rw [houts]
    simp only [memThread, lanesOf_get]
    by_cases ha : inMask x.act l = true <;> simp [ha]
  unfold Exec.memRun
  simp only [hu.free, Bool.false_eq_true, if_false, if_neg hc', hcause, hok, orTrap_unwatched hu.toUndisturbed hw,
    List.flatMap_map]
  refine ⟨_, rfl, ?_⟩
  generalize hds : ((lanesIn x.act).flatMap fun l => (o l).drafts) = ds
  generalize hts : ((lanesIn x.act).flatMap fun l => (o l).touch) = ts
  refine ⟨((lanesIn x.act).flatMap fun l => (o l).pushes).foldl (fun s p => s.winWrite p.1 p.2)
    (x.commit fun w => (if counted = true then Warp.countUp isLoad (w.modThreads (memThread (x.memLanes uses lane)))
      else w.modThreads (memThread (x.memLanes uses lane))).cleanse x.act uses), ?_, ?_⟩
  · refine changed_done h.toIssued uses (fun l => ⟨(o l).t, (o l).pushes⟩) _ _ ?_ ?_
    · simp only
      rw [settle_eq, cleanHard_eq, cleanHard_poison (w := x.w.cleanse x.act uses) (by cases counted <;> cases isLoad <;> rfl)]
      cases counted <;> cases isLoad <;> rfl
    · intro l
      simp only
      rw [settle_eq, cleanHard_eq]
      have : ∀ w : Warp, (if counted = true then w.countUp isLoad else w).threads = w.threads := by
        intro w; cases counted <;> cases isLoad <;> rfl
      simp only [Warp.thread, Warp.cleanse, this, laneAfter]
      have hmt : ∀ (w : Warp) (f : Lane → Thread → Thread), (w.modThreads f).threads[l] = f l (w.threads[l]) :=
        fun w f => Warp.thread_modThreads w f l
      rw [hmt, hth]
      by_cases ha : inMask x.act l = true
      · simp [ha]
      · have : (x.w.pass x.i.lanes x.i.len).threads[l] =
            if inMask x.i.lanes l then (x.w.threads[l]).pass x.i.len else x.w.threads[l] := hmt x.w _
        simp [ha, this]
  · by_cases hd : ds = []
    · simp only [hd, List.isEmpty_nil, if_true]
      exact foldl_keepLeaf ..
    · have : ds.isEmpty = false := by cases ds <;> simp_all
      simp only [hd, this, Bool.false_eq_true, if_false]
      exact foldl_keepLeaf ..

end Sys2Proof.Machine
end

