-- ==== Sys2Proof/Laws/Checked.lean ====
section
/-! SUPPORT. Words that name a capability or wait: what each of their shared operations does where nothing hinders the
word. -/

namespace Sys2Proof.Machine

open Sys2Proof

/-- A capability word goes on with what its capability gives. -/
theorem capRun_ok {α : Type} {x : Exec} {uses : List RegUse} (hu : Unhindered x uses) {cap : Except Cause α} {a : α}
    (hc : cap = .ok a) (k : α → Result) : x.capRun uses cap k = k a := by
  have hr : x.regCauses (fun _ => uses) = [] := by
    apply filterMap_eq_nil_of
    intro l hl
    rw [hu.regs l ((mem_lanesIn _ _).1 hl)]
    rfl
  simp [Exec.capRun, Exec.capRanked, Exec.capRest, hu.free, hr, hc]

/-- A capability word that acts once goes on with what its capability gives. -/
theorem capOnceRun_ok {α : Type} {x : Exec} {uses : List RegUse} (hu : UnhinderedOnce x uses) {cap : Except Cause α} {a : α}
    (hc : cap = .ok a) {more : α → List (Lane × Cause)} (hm : more a = []) (k : α → Result) :
    x.capOnceRun uses cap more k = k a := by
  simp [Exec.capOnceRun, Exec.capOnce, Exec.capRest, hu.free, hu.regs, hc, hm, inLaneOrder, sortBy]

/-- The results of the active lanes, listed or by lane. -/
theorem outsOf_act (x : Exec) (o : Lane → LaneOut) : outsOf ((lanesIn x.act).map fun l => (l, o l)) = outsOf' x o := by
  unfold outsOf outsOf'
  congr 1
  funext l
  have : ∀ ls : List Lane, (ls.map fun l => (l, o l)).find? (fun w => w.1 == l) = if l ∈ ls then some (l, o l) else none := by
    intro ls
    induction ls with
    | nil => rfl
    | cons k ls ih =>
      rw [List.map_cons, List.find?_cons, ih]
      by_cases h : k = l
      · simp [h]
      · have h' : ¬ l = k := fun e => h e.symm
        have hk : (k == l) = false := by simp [h]
        simp [hk, h']
  rw [this]
  by_cases h : inMask x.act l = true
  · simp [h, (mem_lanesIn x.act l).2 h]
  · have : l ∉ lanesIn x.act := fun hm => h ((mem_lanesIn _ _).1 hm)
    simp [h, this]

/-- A word that writes its lanes and then does more. -/
theorem writeAll_done {s : State} {g : Option PReg} {x : Exec} (h : Issued s g x) {uses : List RegUse}
    (hb : Undisturbed x) (f : Lane → Thread → Except Cause LaneOut) (then' : State → State) (out : Lane → LaneOut)
    (hf : ∀ l, inMask x.act l = true → f l (past x l) = .ok (out l)) :
    ∃ u, x.writeAll uses f then' = .next (then' u) ∧ WordDone x uses out id u := by
  have ho : (lanesOf fun l =>
      if inMask x.act l then some (x.ranked uses (x.w.thread l) (f l ((x.w.thread l).pass x.i.len))) else none) =
      outsOf' x out := by
    unfold outsOf'
    congr 1
    funext l
    by_cases ha : inMask x.act l = true
    · simp only [ha, if_true]
      have hl : f l ((x.w.thread l).pass x.i.len) = .ok (out l) := hf l ha
      rw [hl]
      rfl
    · simp [ha]
  refine ⟨x.finish uses (outsOf' x out) id, ?_, finish_done h uses out id fun _ _ => ⟨rfl, rfl⟩⟩
  simp only [Exec.writeAll, ho, laneCauses_outs]
  exact orTrap_quiet hb _

/-- A class check that lets the word go on. -/
theorem checked_go {x y : Exec} {g : Option PReg} {t : Target} {may met : Bool} (hp : Passed x g t may met y)
    (hb : Undisturbed x) (hw : Unwatched x) (c : Option Cap) (ts : List Touch) (k : Exec → Result) :
    x.checked c t may met [] ts k = k y := by
  obtain ⟨⟨s', h1, h2⟩, _⟩ := hp
  have hd : x.debugCauses ts = [] := by simp [Exec.debugCauses, hb.quiet, hw ts]
  have he : x.debugEvents ts = [] := by simp [Exec.debugEvents, hb.quiet, hw ts]
  simp [Exec.checked, allCauses_sound hb.sound, h1, hd, he, withEvents, h2]

/-- The lanes of a checked word, finished over the state the check left. -/
theorem over_done {y : Exec} {g : Option PReg} (h : Issued y.s g y) (uses : List RegUse) (out : Lane → LaneOut) :
    WordDone y uses out id (y.finish uses (outsOf ((lanesIn y.act).map fun l => (l, out l))) id) := by
  rw [outsOf_act]
  exact finish_done h uses out id fun _ _ => ⟨rfl, rfl⟩

end Sys2Proof.Machine
end

