-- ==== Sys2Proof/Laws/Memory.lean ====
section
/-! SUPPORT. Memory as a list of cells in canonical form: every operation keeps the form, a read gives what was written last, and
equal memories are equal lists. -/

namespace Sys2Proof.Machine

/-- The canonical form, with a bound below every location. -/
def aboveWf (lo : Nat) : List Host.Cell → Prop
  | [] => True
  | (a, b) :: rest => lo ≤ a ∧ b ≠ defaultByte ∧ aboveWf (a + 1) rest

theorem aboveWf_le {lo lo' : Nat} (h : lo ≤ lo') : ∀ m : List Host.Cell, aboveWf lo' m → aboveWf lo m
  | [], _ => trivial
  | _ :: _, hm => ⟨Nat.le_trans h hm.1, hm.2⟩

theorem memWf_iff : ∀ m : List Host.Cell, memWf m = true ↔ aboveWf 0 m
  | [] => by simp [memWf, aboveWf]
  | [(a, b)] => by simp [memWf, aboveWf]
  | (a, b) :: (a', b') :: rest => by
    have ih := memWf_iff ((a', b') :: rest)
    simp only [memWf, Bool.and_eq_true, bne_iff_ne, ne_eq, decide_eq_true_eq, ih, aboveWf, Nat.zero_le, true_and,
      Nat.succ_le_iff, and_assoc]

theorem memWrite_above {lo x : Nat} {v : Byte} (hx : lo ≤ x) :
    ∀ m : List Host.Cell, aboveWf lo m → aboveWf lo (memWrite m x v)
  | [], _ => by
    unfold memWrite cellOf
    split
    · trivial
    · exact ⟨hx, by assumption, trivial⟩
  | (a, b) :: rest, h => by
    unfold memWrite
    split
    · rename_i heq
      subst heq
      unfold cellOf
      split
      · exact aboveWf_le (Nat.le_succ_of_le hx) rest h.2.2
      · exact ⟨hx, by assumption, h.2.2⟩
    · split
      · rename_i _ hlt
        unfold cellOf
        split
        · exact h
        · exact ⟨hx, by assumption, hlt, h.2⟩
      · rename_i hne hge
        exact ⟨h.1, h.2.1, memWrite_above (by omega) rest h.2.2⟩

/-- A write keeps the canonical form. -/
theorem memWrite_wf {m : List Host.Cell} {x : Nat} {v : Byte} (h : memWf m = true) : memWf (memWrite m x v) = true :=
  (memWf_iff _).mpr (memWrite_above (Nat.zero_le x) m ((memWf_iff m).mp h))

/-- Several writes keep the canonical form. -/
theorem memWriteAll_wf : ∀ (cs : List Host.Cell) {m : List Host.Cell}, memWf m = true → memWf (memWriteAll m cs) = true
  | [], _, h => h
  | (_, _) :: rest, _, h => memWriteAll_wf rest (memWrite_wf h)

theorem filter_above {p : Host.Cell → Bool} : ∀ {lo : Nat} {m : List Host.Cell}, aboveWf lo m → aboveWf lo (m.filter p)
  | _, [], _ => trivial
  | lo, c :: rest, h => by
    rw [List.filter_cons]
    split
    · exact ⟨h.1, h.2.1, filter_above h.2.2⟩
    · exact aboveWf_le (Nat.le_succ_of_le h.1) _ (filter_above h.2.2)

/-- Dropping cells keeps the canonical form: a region that becomes zero (R396, R417). -/
theorem filter_wf {p : Host.Cell → Bool} {m : List Host.Cell} (h : memWf m = true) : memWf (m.filter p) = true :=
  (memWf_iff _).mpr (filter_above ((memWf_iff m).mp h))

/-- Memory has the canonical form at reset. -/
theorem reset_memWf : memWf State.reset.mem = true := rfl

theorem memRead_below {x : Nat} : ∀ {lo : Nat} {m : List Host.Cell}, aboveWf lo m → x < lo → memRead m x = defaultByte
  | _, [], _, _ => rfl
  | lo, (a, b) :: rest, h, hx => by
    unfold memRead
    have := h.1
    rw [if_neg (by omega), if_pos (by omega)]

theorem memRead_cellOf {x y : Nat} {v : Byte} {lo : Nat} {m : List Host.Cell} (h : aboveWf lo m) (hx : x < lo) :
    memRead (cellOf x v ++ m) y = if y = x then v else memRead m y := by
  unfold cellOf
  split
  · rename_i hv
    rw [List.nil_append]
    split
    · rename_i hy; rw [hy, memRead_below h hx, hv]
    · rfl
  · rw [List.singleton_append]
    show (if x = y then v else if y < x then defaultByte else memRead m y) = _
    by_cases hy : y = x
    · rw [if_pos hy.symm, if_pos hy]
    · rw [if_neg (Ne.symm hy), if_neg hy]
      split
      · rw [memRead_below h (by omega)]
      · rfl

theorem memRead_memWrite_above {x y : Nat} {v : Byte} : ∀ {lo : Nat} {m : List Host.Cell}, aboveWf lo m →
    memRead (memWrite m x v) y = if y = x then v else memRead m y
  | _, [], _ => by
    have := memRead_cellOf (x := x) (y := y) (v := v) (lo := x + 1) (m := []) trivial (Nat.lt_succ_self x)
    rwa [List.append_nil] at this
  | lo, (a, b) :: rest, h => by
    unfold memWrite
    split
    · rename_i heq
      subst heq
      rw [memRead_cellOf h.2.2 (Nat.lt_succ_self a)]
      split
      · rfl
      · rename_i hy
        show _ = (if a = y then b else if y < a then defaultByte else memRead rest y)
        rw [if_neg (Ne.symm hy)]
        split
        · rw [memRead_below h.2.2 (by omega)]
        · rfl
    · split
      · rename_i _ hlt
        exact memRead_cellOf (lo := a) (m := (a, b) :: rest) ⟨Nat.le_refl a, h.2⟩ hlt
      · rename_i hne hge
        show (if a = y then b else if y < a then defaultByte else memRead (memWrite rest x v) y) =
          if y = x then v else (if a = y then b else if y < a then defaultByte else memRead rest y)
        rw [memRead_memWrite_above h.2.2]
        by_cases hy : y = x
        · subst hy
          rw [if_neg hne, if_neg hge, if_pos rfl, if_pos rfl]
        · rw [if_neg hy, if_neg hy]

/-- A read after a write: the written value there, every other byte as before. -/
theorem memRead_memWrite {m : List Host.Cell} (h : memWf m = true) (x y : Nat) (v : Byte) :
    memRead (memWrite m x v) y = if y = x then v else memRead m y := memRead_memWrite_above ((memWf_iff m).mp h)

/-- A read of a location that none of several writes touches. -/
theorem memRead_memWriteAll_other : ∀ (cs : List Host.Cell) {m : List Host.Cell} {y : Nat}, memWf m = true →
    (∀ c ∈ cs, c.1 ≠ y) → memRead (memWriteAll m cs) y = memRead m y
  | [], _, _, _, _ => rfl
  | (x, v) :: rest, m, y, h, hc => by
    show memRead (memWriteAll (memWrite m x v) rest) y = _
    rw [memRead_memWriteAll_other rest (memWrite_wf h) (fun c hc' => hc c (List.mem_cons_of_mem _ hc')), memRead_memWrite h,
      if_neg (Ne.symm (hc _ List.mem_cons_self))]

/-- The last of several writes to a location counts. -/
theorem memRead_memWriteAll_last (cs : List Host.Cell) (x : Nat) (v : Byte) {m : List Host.Cell} (h : memWf m = true) :
    memRead (memWriteAll m (cs ++ [(x, v)])) x = v := by
  induction cs generalizing m with
  | nil => exact (memRead_memWrite h x x v).trans (if_pos rfl)
  | cons c rest ih => exact ih (memWrite_wf h)

/-- Equal memories are equal data. -/
theorem memWf_ext {m n : List Host.Cell} (hm : memWf m = true) (hn : memWf n = true)
    (h : ∀ a, memRead m a = memRead n a) : m = n := by
  have key : ∀ (m n : List Host.Cell) (lo : Nat), aboveWf lo m → aboveWf lo n → (∀ a, memRead m a = memRead n a) → m = n := by
    intro m
    induction m with
    | nil =>
      intro n lo _ hn h
      cases n with
      | nil => rfl
      | cons c rest =>
        have := h c.1
        obtain ⟨a, b⟩ := c
        simp only [memRead, if_true] at this
        exact absurd this.symm hn.2.1
    | cons c rest ih =>
      intro n lo hm hn h
      obtain ⟨a, b⟩ := c
      cases n with
      | nil =>
        have := h a
        simp only [memRead, if_true] at this
        exact absurd this hm.2.1
      | cons c' rest' =>
        obtain ⟨a', b'⟩ := c'
        have ha : a = a' := by
          rcases Nat.lt_trichotomy a a' with hlt | he | hgt
          · have := h a
            simp only [memRead, if_true] at this
            rw [if_neg (by omega), if_pos hlt] at this
            exact absurd this hm.2.1
          · exact he
          · have := h a'
            simp only [memRead, if_true] at this
            rw [if_neg (by omega), if_pos hgt] at this
            exact absurd this.symm hn.2.1
        subst ha
        have hb : b = b' := by
          have := h a
          simpa only [memRead, if_true] using this
        subst hb
        congr 1
        apply ih rest' (a + 1) hm.2.2 hn.2.2
        intro y
        rcases Nat.lt_or_ge a y with hy | hy
        · have := h y
          simp only [memRead] at this
          rw [if_neg (by omega), if_neg (by omega), if_neg (by omega), if_neg (by omega)] at this
          exact this
        · rw [memRead_below hm.2.2 (by omega), memRead_below hn.2.2 (by omega)]
  exact key m n 0 ((memWf_iff m).mp hm) ((memWf_iff n).mp hn) h

/-- What a store leaves: the form, and every byte it does not name. -/
theorem storeCells_mem (s : State) (cs : List Host.Cell) (h : memWf s.mem = true) :
    memWf (s.storeCells cs).mem = true ∧ ∀ a, (∀ c ∈ cs, c.1 ≠ a) → memRead (s.storeCells cs).mem a = memRead s.mem a :=
  ⟨memWriteAll_wf cs h, fun _ ha => memRead_memWriteAll_other cs h ha⟩

end Sys2Proof.Machine
end

