-- ==== Sys2Proof/Laws/Waits.lean ====
section
/-! SUPPORT. What class checks and flag waits leave alone (spec/12_progress_classes.md, R248 to R250;
spec/19_host_coupling.md, R357). -/

namespace Sys2Proof.Laws

open Sys2Proof.Machine

theorem settleLocks_idle {s : State} (hs : s.blocks.flatMap Block.stoppingGroups = [])
    (hg : s.blocks.flatMap Block.sleepGroups = []) : s.settleLocks = s := by
  simp [State.settleLocks, hs, hg, pokeLocks]

/-- A check against a target of the class or above changes nothing while no lane sleeps. -/
theorem waitCheck_idle {s : State} {b : Block} {t : Target} (may met : Bool) (hr : s.retiredT t = false)
    (hc : b.cls ≤ s.classT t) (hs : s.blocks.flatMap Block.stoppingGroups = [])
    (hg : s.blocks.flatMap Block.sleepGroups = []) : s.waitCheck b t may met = .ok s := by
  simp [State.waitCheck, State.checkClass, hr, hc, recheck, settleLocks_idle hs hg]

theorem arrive_none {s : State} {r : BarRef} (h : (s.barOf r).arrived ≤ (s.barOf r).x) : s.arrive r 0 = some s := by
  simp [State.arrive, Nat.not_lt.mpr h]

end Sys2Proof.Laws
end

