-- ==== Sys2Proof/Tests/Slice0.lean ====
section
/-! SUPPORT. Tests: what is ill-formed, words written out bit by bit, one step on small states, and for each statement a
state and operands that meet its hypotheses. -/

namespace Sys2Proof.Tests

open Sys2Proof Sys2Proof.Machine

set_option Elab.async false

/-! ### Small states -/

/-- Page tables of context 0 of partition 0: VA 2^30 is device address 0, VA 3 × 2^29 host address 0, VA 2^31 host address 0
over PCIe (R343, R344). -/
def pages : List Host.Cell :=
  memWriteAll [] (cellsAt 0x10000 8 0x20001 ++ cellsAt 0x20000 8 0x30001 ++ cellsAt 0x30010 8 0x73 ++ cellsAt 0x30018 8 0x273 ++
    cellsAt 0x30020 8 0x473)

def ctxWith (caps : List (Nat × CapEntry)) : Context where
  pn := 0
  ctx := 0
  valid := true
  susp := false
  ptroot := 0x10000
  save := 0
  savesz := 0
  caps := caps
  frozen := false

/-- A launch of one block, in no group. -/
def launch9 : Launch where
  lid := 9
  pn := 0
  ctx := 0
  die := 0
  queue := 0
  packetAddr := 0x40000
  guarded := false
  entry := 0x40200000
  start := 0
  args := []
  unif := []
  lmtab := 0
  sptab := 0
  ordbase := 0
  ecarea := 0x40300000
  done := 0
  nblk := 1
  spcount := 0
  groups := []
  core0 := 0
  ncore := 4
  localKb := 64
  cls := 1
  warps := 1
  regs8 := 16
  flags := 0
  prodg := 0
  prodw := 0
  feedg := 0
  ordsz := 0
  kern := 3
  bartab := []
  fault := none
  state := .ready
  order := 1
  readyGt := 0
  endGt := 0
  late := []
  retiredBlks := []
  ords := []
  card := none
  wct := 0

def threadWith (regs : List Word) : Thread := newThread 0x40200000 (regsOf regs)
def warpWith (regs : List Word) (level : Nat) : Warp := freshWarp (Vector.replicate 32 (threadWith regs)) [] 128 level

/-- Block 1 of launch 9, on core 0. -/
def blockWith (w : Warp) : Block where
  bid := 1
  kind := .task
  pn := 0
  ctx := 0
  launch := 9
  blk := 0
  core := 0
  lcore := 0
  cls := 1
  life := .running
  resid := 0
  stopFor := none
  deadline := 0
  marked := false
  warps := [w]
  win := []
  full := []
  bad := []
  lm := 65536
  grps := []
  seq := newSequencer
  eng := newEngineCtx
  rail := none
  order := 1
  card := none
  frozen := false
  begun := true
  stash := []

/-- Warp 0 of block 1 issues a word at its PC for every lane. -/
def issue1 : Issue := ⟨1, 0, ~~~0, 0x40200000, 0, none⟩

/-- The machine with one block. -/
def stateWith (b : Block) (caps : List (Nat × CapEntry)) : State :=
  { State.reset with
    gt := 1000
    issue := some issue1
    blocks := [b]
    launches := [launch9]
    ctxs := [ctxWith caps]
    mem := pages
    nextId := 100
    coreCtx := [(0, 0)]
    booted := true }

/-- The word in issue of a block's warp. -/
def opened (s : State) (b : Block) (w : Warp) (g : Option PReg) : Exec := ⟨s, issue1, b, w, activeMask issue1 w g⟩

def isOk {ε α : Type} (r : Except ε α) : Bool :=
  match r with
  | .ok _ => true
  | .error _ => false

/-- What a lane finds, where it goes on. -/
def got {ε α : Type} (r : Except ε α) (h : isOk r = true) : α :=
  match r, h with
  | .ok a, _ => a

theorem ok_got {ε α : Type} {r : Except ε α} (h : isOk r = true) : r = .ok (got r h) := by
  cases r with
  | ok a => rfl
  | error c => exact absurd h (by simp [isOk])

theorem outs_of {α : Type} {m : Mask} {f : Lane → Except Cause α} (h : ∀ l, isOk (f l) = true) :
    ∃ out : Lane → α, ∀ l, inMask m l = true → f l = .ok (out l) :=
  ⟨fun l => got (f l) (h l), fun l _ => ok_got (h l)⟩

theorem pairs_of {α β : Type} {m : Mask} {f : Lane → Except Cause (α × β)} (h : ∀ l, isOk (f l) = true) :
    ∃ (v : Lane → α) (t : Lane → β), ∀ l, inMask m l = true → f l = .ok (v l, t l) :=
  ⟨fun l => (got (f l) (h l)).1, fun l => (got (f l) (h l)).2, fun l _ => ok_got (h l)⟩

theorem unwatched_of {x : Exec} (h : ∀ k, k < 4 → (x.s.csr (.ctx x.b.pn x.b.ctx) (0x0630 + k)).toNat / 2 ^ 31 = 0) :
    Unwatched x := by
  intro ts
  simp only [Exec.wpHits, List.filterMap_eq_nil_iff, List.mem_range]
  intro k hk
  rw [if_neg]
  intro hc
  rw [h k hk] at hc
  exact absurd hc.1 (by decide)

/-- Unhindered, as one check. -/
def isFree (x : Exec) (uses : List RegUse) : Bool :=
  !x.interlocked uses && (allLanes.all fun l => !inMask x.act l || (x.regCause uses false l).isNone) && x.bpHits.isEmpty &&
    x.hardCauses.isEmpty

theorem mem_allLanes : ∀ l : Lane, l ∈ allLanes := by decide

theorem free_of {x : Exec} {uses : List RegUse} (h : isFree x uses = true) : Unhindered x uses := by
  simp only [isFree, Bool.and_eq_true, Bool.not_eq_true', List.all_eq_true, Bool.or_eq_true, Option.isNone_iff_eq_none,
    List.isEmpty_iff] at h
  refine ⟨⟨h.1.2, h.2⟩, h.1.1.1, fun l hl => ?_⟩
  rcases h.1.1.2 l (mem_allLanes l) with h' | h'
  · rw [hl] at h'; exact absurd h' (by decide)
  · exact h'

/-- The same of a word that acts once. -/
def isFreeOnce (x : Exec) (uses : List RegUse) : Bool :=
  !x.onceLocked uses && (x.onceCauses uses false).isEmpty && x.bpHits.isEmpty && x.hardCauses.isEmpty

theorem once_of {x : Exec} {uses : List RegUse} (h : isFreeOnce x uses = true) : UnhinderedOnce x uses := by
  simp only [isFreeOnce, Bool.and_eq_true, Bool.not_eq_true', List.isEmpty_iff] at h
  exact ⟨⟨h.1.2, h.2⟩, h.1.1.1, h.1.1.2⟩

/-- Registers of every lane: v0:v1 the address 2^30 + 2^20, v2 to v5 small numbers. -/
def regs0 : List Word := [0x40100000, 0, 7, 0, 3, 0, 0x40100010, 0, 1, 0]
def warp0 : Warp := warpWith regs0 0
def block0 : Block := blockWith warp0
def state0 : State := stateWith block0 []
def exec0 : Exec := opened state0 block0 warp0 (some 7)

theorem issuing0 : Issuing state0 (some 7) exec0 := ⟨⟨rfl, rfl, rfl, rfl, rfl⟩, by decide +kernel⟩
theorem unwatched0 : Unwatched exec0 := unwatched_of (by decide +kernel)

/-- A stream bound to port 0 of every lane: two words at offset 32 of the window, the next one at 36. -/
def stream0 (out : Bool) : Stream := ⟨32, 4, 2, 4, out, 1⟩
def warpS (out : Bool) (pos : Word) : Warp :=
  freshWarp (Vector.replicate 32 ((threadWith regs0).setPort 0 (some { stream0 out with pos := pos }))) [] 128 0
def blockS (out : Bool) (pos : Word) : Block := { blockWith (warpS out pos) with win := cellsAt 36 1 9 }
def execS (out : Bool) (pos : Word) : Exec :=
  opened (stateWith (blockS out pos) []) (blockS out pos) (warpS out pos) (some 7)

theorem witness_OperandForms :
    (threadWith regs0).boundPort (4 : VReg).toNat = none ∧
    (let t := (warpS true 1).thread 0; t.boundPort (124 : VReg).toNat = some (stream0 true) ∧ (stream0 true).out = true) ∧
    (let t := (warpS false 2).thread 0; t.boundPort (124 : VReg).toNat = some { stream0 false with pos := 2 }) ∧
    (stream0 false).pos ≠ (stream0 false).count ∧
    (execS false 1).s.checkLocal (execS false 1).b 36 4 = .ok (1, 36) ∧
    ((stream0 false).base + (stream0 false).pos * (stream0 false).stride).toNat = 36 :=
  ⟨by decide +kernel, by decide +kernel, by decide +kernel, by decide +kernel, rfl, by decide +kernel⟩

theorem witness_UnaryWords : ∃ p ∈ unaryWords, Issuing state0 (some 7) exec0 ∧ Unhindered exec0 [src1 4, dst1 12] ∧
    ∃ out : Lane → LaneOut, ∀ l, inMask exec0.act l = true → unaryLane exec0 12 4 (p.2 exec0.i) l = .ok (out l) :=
  ⟨_, List.mem_cons_self, issuing0, free_of (by decide +kernel), outs_of (by decide +kernel)⟩

theorem witness_BinaryWords : ∃ p ∈ binaryWords, Issuing state0 (some 7) exec0 ∧
    Unhindered exec0 [src1 4, src1 8, dst1 12] ∧
    ∃ out : Lane → LaneOut, ∀ l, inMask exec0.act l = true → binaryLane exec0 12 4 8 (p.2 exec0.i) l = .ok (out l) :=
  ⟨_, List.mem_cons_self, issuing0, free_of (by decide +kernel), outs_of (by decide +kernel)⟩

theorem witness_TernaryWords : Issuing state0 (some 7) exec0 ∧ Unhindered exec0 [src1 4, src1 8, third1 12] ∧
    ∃ (v : Lane → Word × Word) (th : Lane → Thread), ∀ l, inMask exec0.act l = true → readTwo exec0 4 8 l = .ok (v l, th l) :=
  ⟨issuing0, free_of (by decide +kernel), pairs_of (by decide +kernel)⟩

theorem witness_PairWords : Issuing state0 (some 7) exec0 ∧ Unhindered exec0 [src2 4, src2 8, dst2 12] ∧
    Unhindered exec0 [src2 4, src2 8, third2 12] ∧ Unhindered exec0 [src1 4, src1 8, third2 12] ∧
    (∃ (v : Lane → Word × Word) (th : Lane → Thread), ∀ l, inMask exec0.act l = true → readTwo exec0 4 8 l = .ok (v l, th l)) ∧
    Unhindered exec0 [src2 4, src1 8, dst2 12] ∧
    ∃ (v : Lane → Word) (th : Lane → Thread), ∀ l, inMask exec0.act l = true → exec0.get1 (past exec0 l) 8 = .ok (v l, th l) :=
  ⟨issuing0, free_of (by decide +kernel), free_of (by decide +kernel),
    free_of (by decide +kernel), pairs_of (by decide +kernel),
    free_of (by decide +kernel), pairs_of (by decide +kernel)⟩

theorem witness_ImmediateWords : Issuing state0 (some 7) exec0 ∧ Unhindered exec0 [src1 4, dst1 12] ∧
    (∃ p ∈ immWords, ∃ out : Lane → LaneOut, ∀ l, inMask exec0.act l = true →
      unaryLane exec0 12 4 (fun u => (p.2 u (BitVec.ofInt 32 (exec0.i.imm (127 : BitVec 7) false)), {})) l = .ok (out l)) ∧
    (∃ out : Lane → LaneOut, ∀ l, inMask exec0.act l = true →
      unaryLane exec0 12 4 (fun u => (u + BitVec.ofInt 32 (exec0.i.imm (256 : BitVec 9) true), {})) l = .ok (out l)) ∧
    Unhindered exec0 [dst1 12] ∧ ∃ out : Lane → LaneOut, ∀ l, inMask exec0.act l = true →
      exec0.put1 (past exec0 l) 12 (BitVec.ofInt 32 (exec0.i.imm (0x8000 : BitVec 16) true)) = .ok (out l) :=
  ⟨issuing0, free_of (by decide +kernel), ⟨_, List.mem_cons_self, outs_of (by decide +kernel)⟩,
    outs_of (by decide +kernel), free_of (by decide +kernel), outs_of (by decide +kernel)⟩

theorem witness_ConversionWords : Issuing state0 (some 7) exec0 ∧
    Unhindered exec0 [useOf (fShape .f32) 4 .src, useOf (fShape .f64) 12 .dst] ∧
    (∃ out : Lane → LaneOut, ∀ l, inMask exec0.act l = true → convertLane exec0 (fShape .f64) (fShape .f32) 12 4
      (fun u => onDWord (fpCvt (fmtOf .f32) (fmtOf .f64) { exec0.i.fpMode with mode := exec0.i.fpMode.mode }
        (u.toNat % 2 ^ (fmtOf .f32).width))) l = .ok (out l)) ∧
    Unhindered exec0 [useOf (fShape .f32) 4 .src, useOf (iShape .i32) 12 .dst] ∧
    (∃ out : Lane → LaneOut, ∀ l, inMask exec0.act l = true → convertLane exec0 (iShape .i32) (fShape .f32) 12 4
      (fun u => let q := fpToInt (fmtOf .f32) RMode.rtz .i32 (u.toNat % 2 ^ (fmtOf .f32).width); (BitVec.ofInt 64 q.1, q.2)) l =
        .ok (out l)) ∧
    Unhindered exec0 [useOf (iShape .i64) 4 .src, useOf (fShape .f16) 12 .dst] ∧
    (∃ out : Lane → LaneOut, ∀ l, inMask exec0.act l = true → convertLane exec0 (fShape .f16) (iShape .i64) 12 4
      (fun u => onDWord (intToFp (fmtOf .f16) RMode.rne (iValue .i64 u))) l = .ok (out l)) :=
  ⟨issuing0, free_of (by decide +kernel), outs_of (by decide +kernel),
    free_of (by decide +kernel), outs_of (by decide +kernel),
    free_of (by decide +kernel), outs_of (by decide +kernel)⟩

theorem witness_CompareWords : Issuing state0 (some 7) exec0 ∧ Unhindered exec0 [src1 4, src1 8] ∧
    (∃ (v : Lane → Word × Word) (th : Lane → Thread), ∀ l, inMask exec0.act l = true → readTwo exec0 4 8 l = .ok (v l, th l)) ∧ Unhindered exec0 [src1 4] ∧
    ∃ (v : Lane → Word) (th : Lane → Thread), ∀ l, inMask exec0.act l = true → exec0.get1 (past exec0 l) 4 = .ok (v l, th l) :=
  ⟨issuing0, free_of (by decide +kernel), pairs_of (by decide +kernel),
    free_of (by decide +kernel), pairs_of (by decide +kernel)⟩

theorem witness_PredicateWords : Issuing state0 (some 7) exec0 ∧ Unhindered exec0 [] ∧
    Unhindered exec0 [src1 4, src1 8, dst1 12] ∧
    (∃ (v : Lane → Word × Word) (th : Lane → Thread), ∀ l, inMask exec0.act l = true → readTwo exec0 4 8 l = .ok (v l, th l)) ∧
    (∃ out : Lane → LaneOut, ∀ l, inMask exec0.act l = true → exec0.put1 (past exec0 l) 12
      (if (past exec0 l).pred exec0.i.selector.1 != exec0.i.selector.2 then 3 else 1) = .ok (out l)) ∧
    Unhindered exec0 [dst1 12] ∧ (∃ out : Lane → LaneOut, ∀ l, inMask exec0.act l = true →
      exec0.put1 (past exec0 l) 12 ((1#1 ++ (past exec0 l).p).setWidth 32) = .ok (out l)) ∧ Unhindered exec0 [src1 4] ∧
    ∃ (v : Lane → Word) (th : Lane → Thread), ∀ l, inMask exec0.act l = true → exec0.get1 (past exec0 l) 4 = .ok (v l, th l) :=
  ⟨issuing0, free_of (by decide +kernel), free_of (by decide +kernel),
    pairs_of (by decide +kernel), outs_of (by decide +kernel), free_of (by decide +kernel),
    outs_of (by decide +kernel), free_of (by decide +kernel), pairs_of (by decide +kernel)⟩

theorem witness_UniformWords : Issuing state0 (some 7) exec0 ∧ Unhindered exec0 [dst1 12] ∧
    (∃ out : Lane → LaneOut, ∀ l, inMask exec0.act l = true →
      exec0.put1 (past exec0 l) 12 (if (0 : WReg) = 0 then 0 else exec0.w.w[(0 : WReg).toNat]) = .ok (out l)) ∧
    Unhindered exec0 [src1 4] ∧ (∃ (v : Lane → Word) (th : Lane → Thread), ∀ l, inMask exec0.act l = true → exec0.get1 (past exec0 l) 4 = .ok (v l, th l)) ∧
    hiLane exec0.act = some 31 ∧ Unhindered exec0 [] :=
  ⟨issuing0, free_of (by decide +kernel), outs_of (by decide +kernel),
    free_of (by decide +kernel), pairs_of (by decide +kernel), by decide +kernel,
    free_of (by decide +kernel)⟩

/-! ### Control -/

/-- The word in issue at partition level. -/
def warp1 : Warp := warpWith regs0 1
def block1 : Block := blockWith warp1
def state1 : State := stateWith block1 []
def exec1 (g : Option PReg) : Exec := opened state1 block1 warp1 g

/-- An unguarded word of the block at task level. -/
def execU : Exec := opened state0 block0 warp0 none
theorem issuingU : Issuing state0 none execU := ⟨⟨rfl, rfl, rfl, rfl, rfl⟩, by decide +kernel⟩
theorem unwatchedU : Unwatched execU := unwatched_of (by decide +kernel)

theorem witness_SpecialRegisters : Issuing state0 none execU ∧ Unhindered execU [dst1 12] ∧ Unhindered execU [dst2 12] ∧
    Unhindered execU [src1 4] ∧
    (∃ val : Lane → Word, (∀ l, ∃ p ∈ specialValues execU l, p.1 = (19 : BitVec 7).toNat ∧ p.2 = val l) ∧
      ∃ out : Lane → LaneOut, ∀ l, inMask execU.act l = true → execU.put1 (past execU l) 12 (val l) = .ok (out l)) ∧
    (∃ (v : Lane → Word) (th : Lane → Thread), ∀ l, inMask execU.act l = true → execU.get1 (past execU l) 4 = .ok (v l, th l)) ∧
    20 ≤ (20 : BitVec 7).toNat :=
  ⟨issuingU, free_of (by decide +kernel), free_of (by decide +kernel),
    free_of (by decide +kernel),
    ⟨fun _ => 0, fun l => ⟨(19, 0), by revert l; decide +kernel, rfl, rfl⟩, outs_of (by decide +kernel)⟩,
    pairs_of (by decide +kernel), by decide⟩

theorem witness_ReadTime : Issuing state0 none execU ∧ Unhindered execU [src2 4, dst2 12] :=
  ⟨issuingU, free_of (by decide +kernel)⟩

theorem witness_Branches : Issuing state0 (some 7) exec0 ∧ Unhindered exec0 [] ∧ Unhindered exec0 [src2 0] ∧
    (∀ l, inMask exec0.act l = true →
      ((past exec0 l).get2 0 + BitVec.ofInt 64 (4 * exec0.i.imm (5 : BitVec 12) false)).extractLsb' 0 2 = 0) ∧
    Unhindered exec0 [third1 0] ∧ exec0.himmMisuse = false ∧
    ∀ l, inMask exec0.act l = true → ((past exec0 l).reg 0).extractLsb' 0 2 = 0 :=
  ⟨issuing0, free_of (by decide +kernel), free_of (by decide +kernel),
    by decide +kernel, free_of (by decide +kernel), by decide +kernel, by decide +kernel⟩

theorem witness_Calls : Issuing state0 (some 7) exec0 ∧ Unhindered exec0 [linkUse] ∧
    (let tgt := exec0.i.wordPc + BitVec.ofInt 64 (4 * exec0.i.imm (0x7FFFFF : BitVec 23) true)
     tgt.extractLsb' 0 2 = 0 ∧ tgt.extractLsb' 32 32 = exec0.i.wordPc.extractLsb' 32 32) ∧ Unhindered exec0 [src2 0, linkUse] ∧
    (let tgt := fun l => (past exec0 l).get2 0 + BitVec.ofInt 64 (4 * exec0.i.imm (5 : BitVec 12) false)
     ∀ l, inMask exec0.act l = true → (tgt l).extractLsb' 0 2 = 0 ∧
      (tgt l).extractLsb' 32 32 = exec0.i.wordPc.extractLsb' 32 32) :=
  ⟨issuing0, free_of (by decide +kernel), by decide +kernel, free_of (by decide +kernel), by decide +kernel⟩

theorem witness_SafePoints : Issuing state0 (some 7) exec0 ∧ exec0.bpHits = [] ∧ exec0.himmMisuse = false ∧
    warp0.stop ≠ .asked ∧ warp0.note = none ∧ { warp0 with stop := .asked }.stop = .asked :=
  ⟨issuing0, by decide +kernel, by decide +kernel, by decide +kernel, by decide +kernel, rfl⟩

/-- A handler warp of quad 0 runs. -/
def blockH : Block := { block1 with kind := .handler 0 0 none }
def execH : Exec := opened (stateWith blockH []) blockH warp1 (some 7)

theorem witness_Exits : Issuing state1 (some 7) (exec1 (some 7)) ∧ (exec1 (some 7)).bpHits = [] ∧
    (exec1 (some 7)).himmMisuse = false ∧ (exec1 (some 7)).portPending = false ∧ (exec1 (some 7)).w.level ≠ 0 ∧
    (∀ core quad r, (exec1 (some 7)).b.kind ≠ .handler core quad r) ∧ Issuing (stateWith blockH []) (some 7) execH ∧
    execH.bpHits = [] ∧ execH.himmMisuse = false ∧ execH.w.level ≠ 0 ∧ execH.b.kind = .handler 0 0 none ∧
    inMask 0x80000000 31 = true :=
  ⟨⟨⟨rfl, rfl, rfl, rfl, rfl⟩, by decide +kernel⟩, by decide +kernel, by decide +kernel, by decide +kernel, by decide +kernel, fun _ _ _ h => (by cases h),
    ⟨⟨rfl, rfl, rfl, rfl, rfl⟩, by decide +kernel⟩, by decide +kernel, by decide +kernel, by decide +kernel, rfl, by decide⟩

theorem witness_MaskWords : Issuing state0 (some 7) exec0 ∧ exec0.bpHits = [] ∧ (11 : MReg).toNat = (11 : Fin 12).val :=
  ⟨issuing0, by decide +kernel, rfl⟩

theorem witness_MaskMoves : Issuing state0 (some 7) exec0 ∧ (0 : MReg).toNat = (0 : Fin 12).val ∧ Unhindered exec0 [dst1 12] ∧
    (∃ out : Lane → LaneOut, ∀ l, inMask exec0.act l = true → exec0.put1 (past exec0 l) 12 (exec0.w.mask 0) = .ok (out l)) ∧
    (∃ out : Lane → LaneOut, ∀ l, inMask exec0.act l = true → exec0.put1 (past exec0 l) 12 exec0.act = .ok (out l)) ∧
    Unhindered exec0 [src1 4] ∧ (∀ l, inMask exec0.act l = true → exec0.get1 (past exec0 l) 4 = .ok ((past exec0 l).reg 4, past exec0 l)) ∧
    hiLane exec0.act = some 31 :=
  ⟨issuing0, rfl, free_of (by decide +kernel), outs_of (by decide +kernel), outs_of (by decide +kernel),
    free_of (by decide +kernel),
    fun l _ => by unfold Exec.get1; rw [show (past exec0 l).boundPort (4 : VReg).toNat = none from rfl], by decide +kernel⟩

theorem witness_MaskRange : Issuing state0 (some 7) exec0 ∧ 12 ≤ (12 : MReg).toNat ∧
    (∀ l, exec0.regCause [dst1 12] false l = none) ∧ ∀ l, exec0.regCause [src1 12] false l = none :=
  ⟨issuing0, by decide, by decide +kernel, by decide +kernel⟩

/-! ### Lanes -/

theorem witness_Shuffles : ∃ p ∈ shuffleWords, Issuing state0 (some 7) exec0 ∧ Unhindered exec0 [src1 4, src1 8, dst1 12] ∧
    (∀ l, inMask exec0.act l = true → readTwo exec0 4 8 l = .ok (((past exec0 l).reg 4, (past exec0 l).reg 8), past exec0 l)) ∧
    ∀ l, inMask exec0.act l = true → ∃ v out, exec0.put1 (past exec0 l) 12 v = .ok out ∧
      (∀ k : Lane, p.2 l.val ((past exec0 l).reg 8).toNat = some k.val → inMask exec0.act k = true → v = (past exec0 k).reg 4) ∧
      ((∀ k : Lane, p.2 l.val ((past exec0 l).reg 8).toNat = some k.val → inMask exec0.act k = false) → v = (past exec0 l).reg 4) := by
  have hp : ∀ l, isOk (exec0.put1 (past exec0 l) 12 3) = true := by decide +kernel
  refine ⟨_, List.mem_cons_self, issuing0, free_of (by decide +kernel), fun l _ => ?_, fun l _ => ⟨3, got _ (hp l), ok_got (hp l), ?_, ?_⟩⟩
  · unfold readTwo Exec.get1
    rw [show (past exec0 l).boundPort (4 : VReg).toNat = none from rfl]
    exact congrArg Except.ok rfl
  · revert l; decide +kernel
  · revert l; decide +kernel

theorem witness_Votes : Issuing state0 (some 7) exec0 ∧ Unhindered exec0 [] ∧ Unhindered exec0 [dst1 12] ∧
    (∀ l, inMask exec0.act l = (inMask exec0.act l && ((exec0.w.thread l).pred 7 != false))) ∧
    ∃ out : Lane → LaneOut, ∀ l, inMask exec0.act l = true → exec0.put1 (past exec0 l) 12 exec0.act = .ok (out l) :=
  ⟨issuing0, free_of (by decide +kernel), free_of (by decide +kernel), by decide +kernel, outs_of (by decide +kernel)⟩

theorem witness_Matches : Issuing state0 (some 7) exec0 ∧ Unhindered exec0 [useOf Shape.pair 4 .src, dst1 12] ∧
    (∃ (val : Lane → DWord) (th : Lane → Thread), ∀ l, inMask exec0.act l = true →
      exec0.getShape .pair 4 l (past exec0 l) = .ok (val l, th l)) ∧
    (∀ k, inMask exec0.act k = (inMask exec0.act k && (past exec0 k).get2 4 == (past exec0 0).get2 4)) ∧
    ∃ out : Lane → LaneOut, ∀ l, inMask exec0.act l = true → exec0.put1 (past exec0 l) 12 exec0.act = .ok (out l) :=
  ⟨issuing0, free_of (by decide +kernel), pairs_of (by decide +kernel), by decide +kernel, outs_of (by decide +kernel)⟩

theorem witness_Reductions : Issuing state0 (some 7) exec0 ∧ Unhindered exec0 [src1 4, dst1 12] ∧
    (∃ (v : Lane → Word) (th : Lane → Thread), ∀ l, inMask exec0.act l = true → exec0.get1 (past exec0 l) 4 = .ok (v l, th l)) ∧
    ∃ out : Lane → LaneOut, ∀ l, inMask exec0.act l = true →
      exec0.put1 ((past exec0 l).flag (reduxValue exec0.i.fpMode.mode .iadd (allLanes.map fun _ => some 3)).2) 12
        (reduxValue exec0.i.fpMode.mode .iadd (allLanes.map fun _ => some 3)).1 = .ok (out l) :=
  ⟨issuing0, free_of (by decide +kernel), pairs_of (by decide +kernel), outs_of (by decide +kernel)⟩

theorem witness_IntegerReductions : ∃ p ∈ reduxFolds, (fun (_ : Lane) => some (p.2 1 2)) 31 = some 3 :=
  ⟨_, List.mem_cons_self, by decide⟩

theorem witness_BlockFormats : Issuing state0 (some 7) exec0 ∧ Unhindered exec0 [src1 4, dst2 12] ∧
    (∃ (v : Lane → Word) (th : Lane → Thread), ∀ l, inMask exec0.act l = true → exec0.get1 (past exec0 l) 4 = .ok (v l, th l)) ∧
    ((bxQuantise (bxK .bx4) (List.replicate 16 (some 0x3F800000))).codes[15]?).isSome = true ∧ Unhindered exec0 [src1 4, dst1 12] ∧
    (∃ out : Lane → LaneOut, ∀ l, inMask exec0.act l = true → exec0.put1 (past exec0 l) 12 0 = .ok (out l)) ∧
    Unhindered exec0 [src2 4, dst1 12] :=
  ⟨issuing0, free_of (by decide +kernel), pairs_of (by decide +kernel), by decide +kernel, free_of (by decide +kernel),
    outs_of (by decide +kernel), free_of (by decide +kernel)⟩

/-- A stream descriptor at offset 64 of the window: two words from offset 32 on, in steps of 4, to be read. -/
def blockD (w : Warp) : Block := { blockWith w with win := memWriteAll [] (cellsAt 64 4 32 ++ cellsAt 68 4 4 ++ cellsAt 72 4 2) }
def warpD : Warp := warpWith [64, 0, 1] 0
def execD : Exec := opened (stateWith (blockD warpD) []) (blockD warpD) warpD none
/-- The same block with port 0 of every lane bound. -/
def execB : Exec := opened (stateWith (blockD (warpS false 1)) []) (blockD (warpS false 1)) (warpS false 1) none

theorem witness_StreamPorts : Issuing (stateWith (blockD warpD) []) none execD ∧
    execD.interlocked [dst1 (124 + (3 : BitVec 2).setWidth 7)] = false ∧ Unhindered execD [src1 0] ∧
    (∀ l, inMask execD.act l = true → (execD.w.thread l).bound (0 : VReg).toNat = false ∧ portOf (past execD l) 3 = none ∧
      Describes execD ((past execD l).reg 0).toNat { stream0 false with pos := 0 }) ∧
    Issuing (stateWith (blockD (warpS false 1)) []) none execB ∧ execB.interlocked [dst1 (124 + (0 : BitVec 2).setWidth 7)] = false ∧
    Unhindered execB [] ∧ Unhindered execB [dst1 12] ∧ Unhindered execB [src1 2] ∧
    (∀ l, inMask execB.act l = true → portOf (past execB l) 0 = some (stream0 false) ∧
      (execB.w.thread l).bound (12 : VReg).toNat = false ∧ (execB.w.thread l).bound (8 : VReg).toNat = false ∧
      ((past execB l).reg 8).toNat ≤ (stream0 false).count.toNat) ∧ Unhindered execB [src1 8] := by
  refine ⟨⟨⟨rfl, rfl, rfl, rfl, rfl⟩, by decide +kernel⟩, by decide +kernel, free_of (by decide +kernel), ?_,
    ⟨⟨rfl, rfl, rfl, rfl, rfl⟩, by decide +kernel⟩, by decide +kernel, free_of (by decide +kernel), free_of (by decide +kernel),
    free_of (by decide +kernel), by decide +kernel, free_of (by decide +kernel)⟩
  unfold Describes
  decide +kernel

/-! ### Memory -/

/-- A warp whose lanes hold registers of their own. -/
def warpOf (f : Lane → List Word) (level : Nat) : Warp := freshWarp (Vector.ofFn fun l => threadWith (f l)) [] 128 level

/-- Every lane its own place in memory, 16 bytes apart, in v0:v1 and v6:v7; a local address of its own in v2, in the own
window for even lanes and on slot 1 of the cluster for odd ones. -/
def regsM (l : Lane) : List Word :=
  [0x40100000 + 16 * BitVec.ofNat 32 l.val, 0, BitVec.ofNat 32 (16 * l.val + (if l.val % 2 = 0 then 0 else 2 ^ 20 + 2 ^ 18)),
    5, BitVec.ofNat 32 l.val, 0, 0x40100010, 0, 1, 2, 0, 0]
def warpM : Warp := warpOf regsM 0
def blockM : Block := { blockWith warpM with win := memWriteAll [] (cellsAt 0 4 9 ++ cellsAt 64 4 0x01020304), full := [0, 4] }
/-- The block on slot 1 of the same cluster. -/
def block2 : Block := { blockWith warp0 with bid := 2, blk := 1, core := 1 }
def launchM : Launch := { launch9 with flags := 1, nblk := 4, groups := [⟨0, 1, 1, 1⟩] }
def stateM : State := { stateWith blockM [] with blocks := [blockM, block2], launches := [launchM] }
def execM : Exec := opened stateM blockM warpM (some 7)
theorem issuingM : Issuing stateM (some 7) execM := ⟨⟨rfl, rfl, rfl, rfl, rfl⟩, by decide +kernel⟩
theorem unwatchedM : Unwatched execM := unwatched_of (by decide +kernel)

/-- What a lane finds where it goes on, else `d`. -/
def gotD {ε α : Type} (r : Except ε α) (d : α) : α :=
  match r with
  | .ok a => a
  | .error _ => d

theorem ok_gotD {ε α : Type} {r : Except ε α} (d : α) (h : isOk r = true) : r = .ok (gotD r d) := by
  cases r with
  | ok a => rfl
  | error c => exact absurd h (by simp [isOk])

theorem both_of {α β : Type} {m : Mask} {f : Lane → Except Cause α} {g : Lane → Except Cause β}
    (h : ∀ l, isOk (f l) = true) (k : ∀ l, isOk (g l) = true) :
    ∃ (a : Lane → α) (p : Lane → β), ∀ l, inMask m l = true → f l = .ok (a l) ∧ g l = .ok (p l) :=
  ⟨fun l => got (f l) (h l), fun l => got (g l) (k l), fun l _ => ⟨ok_got (h l), ok_got (k l)⟩⟩

theorem ok_unit {r : Except Cause Unit} (h : isOk r = true) : r = .ok () := by
  cases r with
  | ok a => rfl
  | error c => exact absurd h (by simp [isOk])

theorem dst_of {α : Type} {m : Mask} {f : Lane → Except Cause Unit} {g : Lane → Except Cause α}
    (h : ∀ l, isOk (f l) = true) (k : ∀ l, isOk (g l) = true) :
    ∃ p : Lane → α, ∀ l, inMask m l = true → f l = .ok () ∧ g l = .ok (p l) :=
  ⟨fun l => got (g l) (k l), fun l _ => ⟨ok_unit (h l), ok_got (k l)⟩⟩

theorem data_of {x : Exec} {z : Size} {d : VReg} {g : Lane → Except Cause Xlat}
    (h : ∀ l, isOk (readData x (past x l) z d) = true) (k : ∀ l, isOk (g l) = true) :
    ∃ (p : Lane → Xlat) (v : Lane → Nat) (th : Lane → Thread), ∀ l, inMask x.act l = true →
      readData x (past x l) z d = .ok (v l, th l) ∧ g l = .ok (p l) :=
  ⟨fun l => got _ (k l), fun l => (got _ (h l)).1, fun l => (got _ (h l)).2, fun l _ => ⟨ok_got (h l), ok_got (k l)⟩⟩

theorem witness_Loads : Issuing stateM (some 7) execM ∧ Unhindered execM [src2 0, ⟨sizeShape .b128, 12, .dst⟩] ∧
    Unwatched execM ∧ execM.w.ldc < 15 ∧
    (∃ p : Lane → Xlat, ∀ l, inMask execM.act l = true → checkDst execM (past execM l) 12 = .ok () ∧
      checkGlobal execM (addressOf execM 0 (31 : BitVec 5) (sizeBytes .b128) l) (sizeBytes .b128) .read = .ok (p l)) ∧
    acqScope execM .sys = some .sys :=
  ⟨issuingM, free_of (by decide +kernel), unwatchedM, by decide +kernel,
    dst_of (by decide +kernel) (by decide +kernel), by decide +kernel⟩

theorem released_of {x : Exec} (sc : Scope) (hs : x.w.stc = 0) (hl : x.w.ldc = 0) (ht : x.w.wct.toNat ≤ x.s.gt)
    (ha : x.s.accs = []) : Released x sc := by
  refine ⟨?_, hl, fun a h => by rw [ha] at h; cases h⟩
  unfold StoresDone
  split
  · intro _ _ _ _ _ a h; rw [ha] at h; cases h
  · exact ⟨hs, ht⟩

theorem witness_Stores : Issuing stateM (some 7) execM ∧ Unhindered execM [src2 0, ⟨sizeShape .b16, 4, .src⟩] ∧
    Unwatched execM ∧ execM.w.stc < 15 ∧
    (∃ (p : Lane → Xlat) (v : Lane → Nat) (th : Lane → Thread), ∀ l, inMask execM.act l = true →
      readData execM (past execM l) .b16 4 = .ok (v l, th l) ∧
      checkGlobal execM (addressOf execM 0 (0 : BitVec 5) (sizeBytes .b16) l) (sizeBytes .b16) .write = .ok (p l)) ∧
    acqScope execM .dev = some .dev ∧ Released execM .dev ∧
    ∃ d d' : Draft, [d][0]? = some d ∧ (dropOverwritten [d])[0]? = some d' :=
  ⟨issuingM, free_of (by decide +kernel), unwatchedM, by decide +kernel,
    data_of (by decide +kernel) (by decide +kernel), by decide +kernel,
    released_of .dev (by decide +kernel) (by decide +kernel) (by decide +kernel) rfl,
    { lane := 0, kind := .store .l2, loc := 0, mt := 0, size := 4 }, _, rfl, rfl⟩

/-- Ranges of 128 bytes. -/
def regsR (l : Lane) : List Word := [0x40100000 + 128 * BitVec.ofNat 32 l.val, 0]
def warpR : Warp := warpOf regsR 0
def stateR : State :=
  { stateWith (blockWith warpR) [] with
    copies := [⟨.l1 0, 0x4000, 0, 0, List.replicate 64 1, 2000, [], [], []⟩,
      ⟨.l1 1, 0x4000, 0, 0, List.replicate 64 1, 2000, [], [], []⟩] }
def execR : Exec := opened stateR (blockWith warpR) warpR (some 7)

theorem witness_Hinted : Issuing stateR (some 7) execR ∧ Unhindered execR [src2 0] ∧ Unwatched execR ∧
    (∀ l, inMask execR.act l = true → (addressOf execR 0 (0 : BitVec 5) (extentBytes 0) l).toNat % extentBytes 0 = 0 ∧
      execR.peerPref (addressOf execR 0 (0 : BitVec 5) (extentBytes 0) l).toNat = .ok ()) ∧
    (∀ l k q, inMask execR.act l = true → k < extentBytes 0 / 64 → stateR.translate (some execR.b.core) execR.b.pn execR.b.ctx
      ((addressOf execR 0 (0 : BitVec 5) (extentBytes 0) l).toNat + 64 * k) .read = .ok q → q.mt = 0) ∧
    (∀ c ∈ stateR.copies, ∀ d ∈ c.dirty, d = false) ∧ execR.w.stc < 15 ∧
    (∃ p : Lane → Xlat, ∀ l, inMask execR.act l = true →
        checkGlobal execR (addressOf execR 0 (0 : BitVec 5) (extentBytes 0) l) (extentBytes 0) .write = .ok (p l) ∧ (p l).mt ≠ 2) ∧
    ∃ p : Lane → Xlat, ∀ l, inMask execR.act l = true →
        checkGlobal execR (addressOf execR 0 (0 : BitVec 5) (extentBytes 0) l) (extentBytes 0) .drop = .ok (p l) := by
  have hw : ∀ l, isOk (checkGlobal execR (addressOf execR 0 (0 : BitVec 5) (extentBytes 0) l) (extentBytes 0) .write) = true := by
    decide +kernel
  have hm : ∀ l, ∀ k < 2, (gotD (stateR.translate (some execR.b.core) execR.b.pn execR.b.ctx
      ((addressOf execR 0 (0 : BitVec 5) (extentBytes 0) l).toNat + 64 * k) .read) ⟨0, 0, 0⟩).mt = 0 := by decide +kernel
  have hp : ∀ l, isOk (execR.peerPref (addressOf execR 0 (0 : BitVec 5) (extentBytes 0) l).toNat) = true := by decide +kernel
  have ha : ∀ l, (addressOf execR 0 (0 : BitVec 5) (extentBytes 0) l).toNat % extentBytes 0 = 0 := by decide +kernel
  exact ⟨⟨⟨rfl, rfl, rfl, rfl, rfl⟩, by decide +kernel⟩, free_of (by decide +kernel), unwatched_of (by decide +kernel),
    fun l _ => ⟨ha l, ok_unit (hp l)⟩, fun l k q _ hk h => by have := hm l k hk; rw [h] at this; exact this, by decide +kernel, by decide +kernel, ⟨fun l => gotD (checkGlobal execR (addressOf execR 0 (0 : BitVec 5) (extentBytes 0) l) (extentBytes 0) .write) ⟨0, 0, 0⟩,
      fun l _ => ⟨ok_gotD _ (hw l), by revert l; decide +kernel⟩⟩,
    outs_of (by decide +kernel)⟩

theorem locals_of {x : Exec} {b : VReg} {o : BitVec 5} {z : Size} (h : ∀ l, isOk (localAt x (past x l) b o z) = true) :
    ∃ (at' : Lane → Nat × Nat) (th : Lane → Thread), ∀ l, inMask x.act l = true →
      localAt x (past x l) b o z = .ok (th l, at' l) :=
  ⟨fun l => (got _ (h l)).2, fun l => (got _ (h l)).1, fun l _ => ok_got (h l)⟩

/-- Where lane `l` of the warp finds its local address. -/
def atM (l : Lane) : Nat × Nat := (if l.val % 2 = 0 then 1 else 2, 16 * l.val)

theorem localM : ∀ l, localAt execM (past execM l) 2 (0 : BitVec 5) .b32 = .ok (past execM l, atM l) := by
  intro l
  unfold localAt Exec.get1
  rw [show (past execM l).boundPort (2 : VReg).toNat = none from by revert l; decide +kernel]
  have h : ∀ l : Lane, (match execM.s.checkLocal execM.b (laddr execM ((past execM l).reg 2) (0 : BitVec 5) (sizeBytes .b32))
      (sizeBytes .b32) with | .ok r => r == atM l | .error _ => false) = true := by decide +kernel
  have := h l
  dsimp only
  revert this
  generalize execM.s.checkLocal execM.b (laddr execM ((past execM l).reg 2) (0 : BitVec 5) (sizeBytes .b32))
    (sizeBytes .b32) = r
  cases r with
  | error c => intro k; exact absurd k (by simp)
  | ok r => intro k; rw [beq_iff_eq.mp k]

theorem witness_LocalWords : Issuing stateM (some 7) execM ∧ Unwatched execM ∧ localHold execM 2 (0 : BitVec 5) .b32 true = false ∧
    (∀ l, inMask execM.act l = true → localAt execM (past execM l) 2 (0 : BitVec 5) .b32 = .ok (past execM l, atM l)) ∧
    (lanesIn execM.act).any (fun l => (atM l).1 != execM.b.bid) = true ∧
    Unhindered execM [src1 2, ⟨sizeShape .b32, 12, .dst⟩] ∧ execM.w.ldc < 15 ∧
    (∃ out : Lane → LaneOut, ∀ l, inMask execM.act l = true →
      (((atM l).1 != execM.b.bid) = false →
        stateM.winBad (atM l).1 (atM l).2 (sizeBytes .b32) = false ∧
          putData execM (past execM l) .b32 12 (stateM.winRead (atM l).1 (atM l).2 (sizeBytes .b32)) = .ok (out l)) ∧
      (((atM l).1 != execM.b.bid) = true → checkDst execM (past execM l) 12 = .ok () ∧ out l = plainOut (past execM l))) ∧
    Unhindered execM [src1 2, ⟨sizeShape .b32, 4, .src⟩] ∧ execM.w.stc < 15 ∧
    ∃ (v : Lane → Nat) (th : Lane → Thread), ∀ l, inMask execM.act l = true →
      readData execM (past execM l) .b32 4 = .ok (v l, th l) := by
  have hp : ∀ l, isOk (putData execM (past execM l) .b32 12 (stateM.winRead (atM l).1 (atM l).2 (sizeBytes .b32))) = true := by
    decide +kernel
  have hd : ∀ l, isOk (checkDst execM (past execM l) 12) = true := by decide +kernel
  have hb : ∀ l, stateM.winBad (atM l).1 (atM l).2 (sizeBytes .b32) = false := by decide +kernel
  refine ⟨issuingM, unwatchedM, by decide +kernel, fun l _ => localM l, by decide +kernel, free_of (by decide +kernel), by decide +kernel,
    ⟨fun l => if (atM l).1 != execM.b.bid then plainOut (past execM l) else got _ (hp l), fun l _ => ⟨fun h => ?_, fun h => ?_⟩⟩,
    free_of (by decide +kernel), by decide +kernel, pairs_of (by decide +kernel)⟩
  · refine ⟨hb l, ?_⟩; simp only [h]; exact ok_got (hp l)
  · exact ⟨ok_unit (hd l), if_pos h⟩

theorem ready_of {x : Exec} {op : AtomOp} {d a : VReg} (h : ∀ l, isOk (checkDst x (past x l) d) = true)
    (k : ∀ l, isOk (checkGlobal x ((past x l).get2 a) op.bytes .readWrite) = true)
    (hp : ∀ l, pcieCause x op ((past x l).get2 a) (got _ (k l)) = none) :
    ∃ p : Lane → Xlat, ∀ l, inMask x.act l = true → checkDst x (past x l) d = .ok () ∧
      checkGlobal x ((past x l).get2 a) op.bytes .readWrite = .ok (p l) ∧ pcieCause x op ((past x l).get2 a) (p l) = none :=
  ⟨fun l => got _ (k l), fun l _ => ⟨ok_unit (h l), ok_got (k l), hp l⟩⟩

theorem witness_Atomics : Issuing stateM (some 7) execM ∧ Unwatched execM ∧ execM.w.stc < 15 ∧
    Unhindered execM [src2 0, src1 4, dst1 12] ∧
    (∀ l, inMask execM.act l = true → execM.get1 (past execM l) 4 = .ok ((past execM l).reg 4, past execM l)) ∧
    (∀ op ∈ [AtomOp.add, .fadd, .cas32], ∃ p : Lane → Xlat, ∀ l, inMask execM.act l = true →
      checkDst execM (past execM l) 12 = .ok () ∧ checkGlobal execM ((past execM l).get2 0) op.bytes .readWrite = .ok (p l) ∧
      pcieCause execM op ((past execM l).get2 0) (p l) = none) ∧
    execM.ordered.isNone = true ∧ Unhindered execM [src2 0, src2 4, dst1 12] ∧ Unhindered execM [src2 0, src4 4, dst2 12] ∧
    Unhindered execM [src2 0, ⟨.oct, 8, .src⟩, dst4 16] ∧
    (∃ p : Lane → Xlat, ∀ l, inMask execM.act l = true →
      checkDst execM (past execM l) 16 = .ok () ∧
      checkGlobal execM ((past execM l).get2 0) (AtomOp.bytes .cas128) .readWrite = .ok (p l) ∧
      pcieCause execM .cas128 ((past execM l).get2 0) (p l) = none) := by
  refine ⟨issuingM, unwatchedM, by decide +kernel, free_of (by decide +kernel), fun l _ => ?_, fun op hop => ?_,
    by decide +kernel, free_of (by decide +kernel), free_of (by decide +kernel), free_of (by decide +kernel),
    ready_of (by decide +kernel) (by decide +kernel) (by decide +kernel)⟩
  · unfold Exec.get1
    rw [show (past execM l).boundPort (4 : VReg).toNat = none from by revert l; decide +kernel]
  · have h4 : op.bytes = 4 := by
      simp only [List.mem_cons, List.not_mem_nil, or_false] at hop
      rcases hop with rfl | rfl | rfl <;> rfl
    have hk : ∀ l, isOk (checkGlobal execM ((past execM l).get2 0) 4 .readWrite) = true := by decide +kernel
    have hm : ∀ l, (gotD (checkGlobal execM ((past execM l).get2 0) 4 .readWrite) ⟨0, 0, 0⟩).mt = 0 := by decide +kernel
    have hd : ∀ l, isOk (checkDst execM (past execM l) 12) = true := by decide +kernel
    refine ⟨fun l => gotD (checkGlobal execM ((past execM l).get2 0) 4 .readWrite) ⟨0, 0, 0⟩, fun l _ => ⟨ok_unit (hd l), ?_, ?_⟩⟩
    · rw [h4]; exact ok_gotD _ (hk l)
    · unfold pcieCause; rw [hm l]; rfl

theorem witness_AtomicValues : ∃ q ∈ atomValues, q.1 = .add ∧ q.2 3 4 = 7 := ⟨_, List.mem_cons_self, rfl, by decide⟩

/-- A launch with ordered atomics. -/
def launchO : Launch := { launchM with flags := 2, ordsz := 1024, ordbase := 0x40400000 }
def stateO : State := { stateM with launches := [launchO] }
def execO : Exec := opened stateO blockM warpM (some 7)

theorem witness_OrderedAtomics : ∃ q ∈ fatomWords, q.2 = .fadd ∧ Issuing stateO (some 7) execO ∧
    Unhindered execO [src2 0, src1 4, ⟨.one, 12, .named⟩] ∧ Unwatched execO ∧ execO.w.stc < 15 ∧ execO.ordered = some launchO ∧
    ((launchO.ords.filter fun e => e.blk == execO.b.blk).length + (lanesIn execO.act).length) * 16 ≤ launchO.ordsz ∧
    (∀ k < (lanesIn execO.act).length, ∃ r, stateO.translate (some execO.b.core) execO.b.pn execO.b.ctx
      (launchO.ordbase.toNat + launchO.ordsz * execO.b.blk +
        16 * ((launchO.ords.filter fun e => e.blk == execO.b.blk).length + k)) .write = .ok r) ∧
    ∃ (p : Lane → Xlat) (v : Lane → Word) (th : Lane → Thread), ∀ l, inMask execO.act l = true →
      execO.get1 (past execO l) 4 = .ok (v l, th l) ∧
      checkGlobal execO ((past execO l).get2 0) 4 .readWrite = .ok (p l) ∧
      pcieCause execO .fadd ((past execO l).get2 0) (p l) = none := by
  have hv : ∀ l, isOk (execO.get1 (past execO l) 4) = true := by decide +kernel
  have ht : ∀ k < (lanesIn execO.act).length, isOk (stateO.translate (some execO.b.core) execO.b.pn execO.b.ctx
      (launchO.ordbase.toNat + launchO.ordsz * execO.b.blk +
        16 * ((launchO.ords.filter fun e => e.blk == execO.b.blk).length + k)) .write) = true := by decide +kernel
  have hk : ∀ l, isOk (checkGlobal execO ((past execO l).get2 0) 4 .readWrite) = true := by decide +kernel
  refine ⟨_, List.mem_cons_self, rfl, ⟨⟨rfl, rfl, rfl, rfl, rfl⟩, by decide +kernel⟩, free_of (by decide +kernel),
    unwatched_of (by decide +kernel), by decide +kernel, by decide +kernel, by decide +kernel, fun k hk => ⟨_, ok_got (ht k hk)⟩,
    fun l => gotD (checkGlobal execO ((past execO l).get2 0) 4 .readWrite) ⟨0, 0, 0⟩, fun l => (got _ (hv l)).1,
    fun l => (got _ (hv l)).2, fun l _ => ⟨ok_got (hv l), ok_gotD _ (hk l), ?_⟩⟩
  revert l; decide +kernel

/-- Capabilities: 1 a CARD, 2 the block, 3 a QUEUE, 4 a LOCK of group 0, 5 a RING, 6 group 0. -/
def capOf (t : Nat) (ep aux : DWord) : CapEntry :=
  { type := t, perms := 31, pclass := 3, allow := 0xFFFFFFFF, endpoint := ep, aux := aux, card := 0 }
def caps0 : List (Nat × CapEntry) :=
  [(1, capOf capCard 0x40000200 0), (2, capOf capBlock 3 0), (3, capOf capQueue 0x40000100 0),
    (4, capOf capLock 0x40000180 3), (5, capOf capRing 0x40000140 0), (6, capOf capGroup 3 0)]
def stateC : State := { stateM with ctxs := [ctxWith caps0] }
def execC : Exec := opened stateC blockM warpM (some 7)
theorem issuingC : Issuing stateC (some 7) execC := ⟨⟨rfl, rfl, rfl, rfl, rfl⟩, by decide +kernel⟩
theorem unwatchedC : Unwatched execC := unwatched_of (by decide +kernel)

theorem witness_ContinuationAtomics : Issuing stateC (some 7) execC ∧ Unhindered execC [src2 0, src2 8, dst1 9] ∧
    Unwatched execC ∧ execC.w.stc < 15 ∧
    (let e := capOf capCard 0x40000200 0
     stateC.capEntry execC.b.pn execC.b.ctx (1 : Cap).toNat = some e ∧ e.type = capCard ∧
      e.perms &&& permLaunch = permLaunch) ∧
    ∃ p : Lane → Xlat, ∀ l, inMask execC.act l = true →
      checkGlobal execC ((past execC l).get2 0) 4 .readWrite = .ok (p l) ∧ (p l).mt = 0 := by
  have hk : ∀ l, isOk (checkGlobal execC ((past execC l).get2 0) 4 .readWrite) = true := by decide +kernel
  exact ⟨issuingC, free_of (by decide +kernel), unwatchedC, by decide +kernel, by decide +kernel,
    fun l => gotD (checkGlobal execC ((past execC l).get2 0) 4 .readWrite) ⟨0, 0, 0⟩,
    fun l _ => ⟨ok_gotD _ (hk l), by revert l; decide +kernel⟩⟩

/-- A warp with a load and a store in flight. -/
def warpF : Warp := { warp0 with ldc := 1, stc := 15 }
def execF : Exec := opened (stateWith (blockWith warpF) []) (blockWith warpF) warpF none

theorem witness_Fences : Issuing state0 none execU ∧ Undisturbed execU ∧ Released execU .sys ∧
    Issuing (stateWith (blockWith warpF) []) none execF ∧ Undisturbed execF ∧
    ¬ StoresDone execF .dev ∧ ¬ LoadsDone execF ∧ ¬ execF.w.ldc ≤ (0 : BitVec 4).toNat ∧ execF.w.stc ≤ (15 : BitVec 4).toNat :=
  ⟨issuingU, ⟨by decide +kernel, by decide +kernel⟩, released_of .sys (by decide +kernel) (by decide +kernel) (by decide +kernel) rfl,
    ⟨⟨rfl, rfl, rfl, rfl, rfl⟩, by decide +kernel⟩, ⟨by decide +kernel, by decide +kernel⟩,
    fun h => absurd h.1 (by decide +kernel), fun h => absurd h.1 (by decide +kernel), by decide +kernel, by decide +kernel⟩

/-- A load of v4 is in flight for every lane. -/
def stateI : State :=
  { state0 with accs := allLanes.map fun l => ⟨200 + l.val, 199, 1, 0, l.val, .load .l2 false false, 0x100, 0, 0, 4, 0x40000100, [],
      some (4, 1), none, false, []⟩ }
def execI : Exec := opened stateI block0 warp0 (some 7)

theorem witness_Waiting : Issued state0 none execU ∧ (∃ p ∈ unaryWords, p.1 7 0 0 = .iabs 7 0 0) ∧
    Issuing stateI (some 7) execI ∧ execI.interlocked [src1 4, dst1 12] = true ∧
    Issuing (stateWith (blockWith { warp0 with ldc := 15 }) []) (some 7)
      (opened (stateWith (blockWith { warp0 with ldc := 15 }) []) (blockWith { warp0 with ldc := 15 }) { warp0 with ldc := 15 } (some 7)) :=
  ⟨issuingU.toIssued, ⟨_, List.mem_cons_self, rfl⟩, ⟨⟨rfl, rfl, rfl, rfl, rfl⟩, by decide +kernel⟩, by decide +kernel,
    ⟨⟨rfl, rfl, rfl, rfl, rfl⟩, by decide +kernel⟩⟩

/-! ### Synchronisation -/

/-- Nobody sleeps. -/
def noSleepers (s : State) : Bool :=
  (s.blocks.flatMap Block.stoppingGroups).isEmpty && (s.blocks.flatMap Block.sleepGroups).isEmpty

theorem passed_of {x : Exec} {g : Option PReg} {t : Target} (may met : Bool)
    (h : (!x.s.retiredT t && decide (x.b.cls ≤ x.s.classT t) && noSleepers x.s) = true)
    (ho : x.inState x.s = x) (hi : Issued x.s g x) : Passed x g t may met x := by
  simp only [noSleepers, Bool.and_eq_true, Bool.not_eq_true', decide_eq_true_eq, List.isEmpty_iff] at h
  exact ⟨⟨x.s, Laws.waitCheck_idle may met h.1.1 h.1.2 h.2.1 h.2.2, ho.symm⟩, hi⟩

/-- Reading at the home leaves the word in issue. -/
theorem readAtHome_kept (x : Exec) (w : Lane → Watch) (s : State) :
    (readAtHome x w s).issue = s.issue ∧ (readAtHome x w s).blocks = s.blocks := by
  unfold readAtHome
  generalize lanesIn x.act = ls
  induction ls generalizing s with
  | nil => exact ⟨rfl, rfl⟩
  | cons l ls ih =>
    rw [List.foldl_cons]
    obtain ⟨h, k⟩ := ih ((s.readHome x.b.core (w l).p.loc 4).keepLeaf (some x.b.core) x.b.pn x.b.ctx (w l).va)
    rw [h, k]
    have e := Machine.keepLeaf_tlb (s.readHome x.b.core (w l).p.loc 4) (some x.b.core) x.b.pn x.b.ctx (w l).va
    unfold sameButTlb at e
    rw [e]
    exact ⟨rfl, rfl⟩

theorem issued_inState {x : Exec} {s : State} {g : Option PReg} (h : Issued x.s g x) (hi : s.issue = x.s.issue)
    (hb : s.blocks = x.s.blocks) : Issued (x.inState s).s g (x.inState s) := by
  have e : s.block? x.i.bid = some x.b := by rw [← h.block]; unfold State.block?; rw [hb]
  have eb : (x.inState s).b = x.b := by unfold Exec.inState; simp [e]
  have ew : (x.inState s).w = x.w := by unfold Exec.inState; simp [e, h.warp]
  exact ⟨rfl, hi.trans h.issue, by rw [eb]; exact e, by rw [eb, ew]; exact h.warp, by rw [ew]; exact h.act⟩

theorem val_of {ε α : Type} [DecidableEq α] {r : Except ε α} {a : α}
    (h : (match r with | .ok b => decide (b = a) | .error _ => false) = true) : r = .ok a := by
  cases r with
  | error c => exact absurd h (by simp)
  | ok b => rw [of_decide_eq_true h]

/-- A queue of 32 places at 0x100 with two elements, and lock words: free at 0x180, held by a writer at 0x188, by a reader
at 0x190. -/
def memS : List Host.Cell :=
  memWriteAll pages (cellsAt 0x100 8 0x40001000 ++ cellsAt 0x108 8 5 ++ cellsAt 0x118 8 2 ++ cellsAt 0x1000 8 77 ++
    cellsAt 0x1010 8 78 ++ cellsAt 0x188 8 (2 ^ 63) ++ cellsAt 0x190 8 1)
def stateY : State :=
  { stateC with
    mem := memS
    ctxs := [ctxWith (caps0 ++ [(7, capOf capLock 0x40000188 3), (8, capOf capLock 0x40000190 3)])] }
def execY : Exec := opened stateY blockM warpM (some 7)
theorem issuingY : Issuing stateY (some 7) execY := ⟨⟨rfl, rfl, rfl, rfl, rfl⟩, by decide +kernel⟩
theorem unwatchedY : Unwatched execY := unwatched_of (by decide +kernel)
theorem overY : execY.inState execY.s = execY := rfl

theorem witness_FullEmptyLoads : Issuing stateM (some 7) execM ∧ Unhindered execM [src1 2, ⟨sizeShape .b32, 12, .dst⟩] ∧
    Unwatched execM ∧
    localHold execM 2 (0 : BitVec 5) .b32 false = false ∧
    (∀ l, inMask execM.act l = true → localAt execM (past execM l) 2 (0 : BitVec 5) .b32 = .ok (past execM l, atM l) ∧
      ((atM l).1 ≠ execM.b.bid → execM.w.ldc < 15)) ∧
    Passed execM (some 7) (feeder execM) false
      ((lanesIn execM.act).all fun l => granuleFull stateM (atM l).1 (atM l).2) execM ∧
    (∃ l, inMask execM.act l = true ∧ granuleFull stateM (atM l).1 (atM l).2 = true) ∧
    (∃ l, inMask execM.act l = true ∧ granuleFull stateM (atM l).1 (atM l).2 = false) ∧
    ∃ out : Lane → LaneOut, ∀ l, inMask execM.act l = true →
      (granuleFull stateM (atM l).1 (atM l).2 = true →
        stateM.winBad (atM l).1 (atM l).2 (sizeBytes .b32) = false ∧
          putData execM (past execM l) .b32 12 (stateM.winRead (atM l).1 (atM l).2 (sizeBytes .b32)) = .ok (out l)) ∧
      (granuleFull stateM (atM l).1 (atM l).2 = false → checkDst execM (past execM l) 12 = .ok () ∧
        out l = plainOut (execM.putToSleep l (execM.sleepOn (past execM l)
          (.full (atM l).1 (atM l).2 (sizeBytes .b32) 12 true) (some (feeder execM)) 64 false))) := by
  have hp : ∀ l, isOk (putData execM (past execM l) .b32 12 (stateM.winRead (atM l).1 (atM l).2 (sizeBytes .b32))) = true := by
    decide +kernel
  have hd : ∀ l, isOk (checkDst execM (past execM l) 12) = true := by decide +kernel
  have hb : ∀ l, stateM.winBad (atM l).1 (atM l).2 (sizeBytes .b32) = false := by decide +kernel
  refine ⟨issuingM, free_of (by decide +kernel), unwatchedM, by decide +kernel,
    fun l _ => ⟨localM l, fun _ => by decide +kernel⟩,
    passed_of _ _ (by decide +kernel) rfl issuingM.toIssued, ⟨0, by decide +kernel⟩, ⟨1, by decide +kernel⟩,
    fun l => if granuleFull stateM (atM l).1 (atM l).2 then got _ (hp l) else
      plainOut (execM.putToSleep l (execM.sleepOn (past execM l) (.full (atM l).1 (atM l).2 (sizeBytes .b32) 12 true)
        (some (feeder execM)) 64 false)), fun l _ => ⟨fun h => ?_, fun h => ⟨ok_unit (hd l), ?_⟩⟩⟩
  · refine ⟨hb l, ?_⟩; simp only [h]; exact ok_got (hp l)
  · simp only [h]; rfl

theorem witness_Locks : Issuing stateY (some 7) execY ∧ Unhindered execY [] ∧ Unwatched execY ∧
    (let e := capOf capLock 0x40000180 3
     execY.cap 4 [capLock] (execY.lockWait 4) (permAll (permWait ||| permRecv)) = .ok (e, 0x180, .lock 9 0) ∧
     execY.mustHold 0x180 8 true = false ∧ lockFree true (stateY.load 0x180 8) = true ∧
     Passed execY (some 7) (.lock 9 0) (permAll permPromote e.perms && !execY.i.noPromote) true execY) ∧
    (let e := capOf capLock 0x40000190 3
     execY.cap 8 [capLock] (execY.lockWait 8) (permAll (permWait ||| permRecv)) = .ok (e, 0x190, .lock 9 0) ∧
     execY.mustHold 0x190 8 true = false ∧ lockFree true (stateY.load 0x190 8) = false ∧
     Passed execY (some 7) (.lock 9 0) (permAll permPromote e.perms && !execY.i.noPromote) false execY) :=
  ⟨issuingY, free_of (by decide +kernel), unwatchedY,
    ⟨val_of (by decide +kernel), by decide +kernel, by decide +kernel, passed_of _ _ (by decide +kernel) overY issuingY.toIssued⟩,
    ⟨val_of (by decide +kernel), by decide +kernel, by decide +kernel, passed_of _ _ (by decide +kernel) overY issuingY.toIssued⟩⟩

theorem witness_LockConditions : (2 ^ 24 - 1 < 2 ^ 64) ∧ lockFree false (2 ^ 24 - 2) = true ∧ lockFree false (2 ^ 24 - 1) = false ∧
    lockFree true (2 ^ 24) = true ∧ lockFree true 1 = false := by decide

theorem witness_Unlocks : Issuing stateY (some 7) execY ∧ Unhindered execY [] ∧ Unhindered execY [dst1 12] ∧ Unwatched execY ∧ Released execY .dev ∧
    (let e := capOf capLock 0x40000190 3
     execY.cap 8 [capLock] (execY.lockObj 8) (permAll permSend) = .ok (e, 0x190) ∧ execY.mustHold 0x190 8 true = false ∧
     stateY.load 0x190 8 % 2 ^ 24 ≠ 0 ∧
     ¬ (lockWh (stateY.load 0x190 8) = true ∧ lockOwner (stateY.load 0x190 8) = execY.b.blk % 2 ^ 24)) ∧
    (let e := capOf capLock 0x40000188 3
     execY.cap 7 [capLock] (execY.lockObj 7) (permAll permSend) = .ok (e, 0x188) ∧ execY.mustHold 0x188 8 true = false ∧
     stateY.load 0x188 8 % 2 ^ 24 = 0 ∧ lockWh (stateY.load 0x188 8) = true ∧
     lockOwner (stateY.load 0x188 8) = execY.b.blk % 2 ^ 24) ∧
    (let e := capOf capLock 0x40000180 3
     execY.cap 4 [capLock] (execY.lockObj 4) (permAll permRecv) = .ok (e, 0x180) ∧ execY.mustHold 0x180 8 true = false ∧
     ∃ out : Lane → LaneOut, ∀ l, inMask execY.act l = true →
       execY.put1 (past execY l) 12 (if lockFree true (stateY.load 0x180 8) then 1 else 0) = .ok (out l)) :=
  ⟨issuingY, free_of (by decide +kernel), free_of (by decide +kernel), unwatchedY,
    released_of _ (by decide +kernel) (by decide +kernel) (by decide +kernel) rfl,
    ⟨val_of (by decide +kernel), by decide +kernel, by decide +kernel, by decide +kernel⟩,
    ⟨val_of (by decide +kernel), by decide +kernel, by decide +kernel, by decide +kernel, by decide +kernel⟩,
    ⟨val_of (by decide +kernel), by decide +kernel, outs_of (by decide +kernel)⟩⟩

/-- What lane `l` of the warp watches: its own word of memory, against 5. -/
def watchY (l : Lane) : Watch := gotW (watchLane execY 0 3 l)
where
  gotW (r : Except Cause Watch) : Watch := match r with | .ok w => w | .error _ => ⟨threadWith [], ⟨0, 0, 0⟩, 0, 0⟩

theorem watched : ∀ l, watchLane execY 0 3 l = .ok (watchY l) := by
  have h : ∀ l, isOk (watchLane execY 0 3 l) = true := by decide +kernel
  intro l
  unfold watchY
  have := h l
  revert this
  cases watchLane execY 0 3 l with
  | ok w => intro _; rfl
  | error c => intro k; exact absurd k (by simp [isOk])

theorem issued_home : Issued (execY.inState (readAtHome execY watchY execY.s)).s (some 7) (execY.inState (readAtHome execY watchY execY.s)) :=
  issued_inState issuingY.toIssued (readAtHome_kept ..).1 (readAtHome_kept ..).2

theorem witness_FlagWaits : Issuing stateY (some 7) execY ∧ Unhindered execY [src2 0, src1 3] ∧ Unwatched execY ∧
    (let e := capOf capBlock 3 0
     execY.cap 2 targetTypes (execY.target 2) (permAll permWait) = .ok (e, .block 9 0) ∧
     (∀ l, inMask execY.act l = true → watchLane execY 0 3 l = .ok (watchY l) ∧
       execY.mustHold (watchY l).p.loc 4 false = false) ∧
     (∀ k : WaitCond, Passed execY (some 7) (.block 9 0) (permAll permPromote e.perms && !false)
       ((lanesIn execY.act).any fun l => meets stateY k (watchY l)) execY) ∧
     Issued (execY.inState (readAtHome execY watchY execY.s)).s (some 7) (execY.inState (readAtHome execY watchY execY.s))) := by
  have hk : ∀ l, execY.mustHold (watchY l).p.loc 4 false = false := by decide +kernel
  refine ⟨issuingY, free_of (by decide +kernel), unwatchedY, val_of (by decide +kernel), fun l _ => ⟨watched l, hk l⟩,
    fun k => passed_of _ _ (by decide +kernel) overY issuingY.toIssued, issued_home⟩

theorem witness_Polls : Unhindered execY [src2 0, ⟨.pair, 12, .dst⟩, src1 3] ∧
    (∀ l, inMask execY.act l = true → (execY.inState (readAtHome execY watchY execY.s)).s.reachable (watchY l).p.loc = true) ∧
    stateY.reachable (⟨threadWith [], ⟨2 ^ 52, 1, 0⟩, 0, 0⟩ : Watch).p.loc = false := by
  exact ⟨free_of (by decide +kernel), by decide +kernel, by decide +kernel⟩

theorem witness_BarrierArrivals : Issuing stateY (some 7) execY ∧ hiLane execY.act = some 31 ∧
    UnhinderedOnce execY [src2 10, dst1 12] ∧ UnhinderedOnce execY [src2 8, dst2 12] ∧ Released execY (barScope (.group 9 0)) ∧
    (let e := capOf capGroup 3 0
     execY.cap 6 [capGroup, capBlock] (execY.target 6) (permAll permSend) = .ok (e, .group 9 0) ∧
     execY.cap 6 [capGroup, capBlock] (execY.target 6) (permAny (permSend ||| permWait)) = .ok (e, .group 9 0)) ∧
    (let r := barRefOf (.group 9 0) ((execY.w.lane2 31 10).toNat % 16)
     (stateY.barOf r).arrived + 1 ≤ (stateY.barOf r).x ∧ ∃ out : Lane → LaneOut, ∀ l, inMask execY.act l = true →
       execY.put1 (past execY l) 12 (stateY.barOf r).phase = .ok (out l)) ∧
    (let v := execY.w.lane2 31 8
     let r := barRefOf (.group 9 0) (v.toNat % 16)
     (stateY.barOf r).x < (stateY.barOf r).arrived + v.toNat / 2 ^ 32) :=
  ⟨issuingY, by decide +kernel, once_of (by decide +kernel), once_of (by decide +kernel), released_of _ (by decide +kernel) (by decide +kernel) (by decide +kernel) rfl,
    ⟨val_of (by decide +kernel), val_of (by decide +kernel)⟩, ⟨by decide +kernel, outs_of (by decide +kernel)⟩, by decide +kernel⟩

theorem some_getD {α : Type} {o : Option α} (d : α) (h : o.isSome = true) : o = some (o.getD d) := by
  cases o with
  | some a => rfl
  | none => exact absurd h (by simp)

theorem witness_BarrierPhases : (∃ t, stateY.arrive (.group 9 0 1) 1 = some t) ∧ 0 < 1 ∧
    ∃ t, ({ stateY with launches := [{ launchM with groups := [⟨0, 1, 1, 2⟩] }] } : State).arrive (.group 9 0 1) 1 = some t :=
  ⟨⟨_, some_getD stateY (by decide +kernel)⟩, by decide, ⟨_, some_getD stateY (by decide +kernel)⟩⟩

/-- The state once group 0 has arrived at barrier 0. -/
def stateA : State := (stateY.arrive (.group 9 0 0) 1).getD stateY

theorem witness_BarrierWaits : Issuing stateY (some 7) execY ∧ UnhinderedOnce execY [src2 10, dst1 12] ∧
    UnhinderedOnce execY [src2 8, dst1 12] ∧ Unwatched execY ∧ hiLane execY.act = some 31 ∧
    (let e := capOf capGroup 3 0
     execY.cap 6 [capGroup, capBlock] (execY.target 6) (permAll permWait) = .ok (e, .group 9 0) ∧
     execY.cap 6 [capGroup, capBlock] (execY.target 6) (permAll (permSend ||| permWait)) = .ok (e, .group 9 0)) ∧
    (∀ met, Passed execY (some 7) (.group 9 0) true met execY) ∧
    laneCauses (barLanes execY 12 (.group 9 0) 6 true (.group 9 0 0) false fun _ => 0) = [] ∧
    laneCauses (barLanes execY 12 (.group 9 0) 6 true (.group 9 0 1) false fun _ => 2) = [] ∧
    (stateY.barOf (.group 9 0 0)).phase = 0 ∧ (stateY.barOf (.group 9 0 1)).phase ≠ 2 ∧
    (∃ out : Lane → LaneOut, ∀ l, inMask execY.act l = true →
      execY.put1 (past execY l) 12 (stateY.barOf (.group 9 0 1)).status = .ok (out l)) ∧
    (∀ l, inMask execY.act l = true → (execY.w.thread l).kept = none) ∧ Released execY (barScope (.group 9 0)) ∧
    stateY.arrive (.group 9 0 0) 0 = some stateY ∧ stateY.arrive (.group 9 0 0) 1 = some stateA ∧
    Issued stateA (some 7) (execY.inState stateA) ∧ (stateA.barOf (.group 9 0 0)).phase ≠ (stateY.barOf (.group 9 0 0)).phase ∧
    ∃ out : Lane → LaneOut, ∀ l, inMask (execY.inState stateA).act l = true →
      (execY.inState stateA).put1 (past (execY.inState stateA) l) 12 (stateA.barOf (.group 9 0 0)).status = .ok (out l) := by
  exact ⟨issuingY, once_of (by decide +kernel), once_of (by decide +kernel), unwatchedY, by decide +kernel,
    ⟨val_of (by decide +kernel), val_of (by decide +kernel)⟩, fun met => passed_of _ _ (by decide +kernel) overY issuingY.toIssued,
    by decide +kernel, by decide +kernel, by decide +kernel, by decide +kernel, outs_of (by decide +kernel), by decide +kernel,
    released_of _ (by decide +kernel) (by decide +kernel) (by decide +kernel) rfl, Laws.arrive_none (by decide +kernel),
    by unfold stateA; exact some_getD _ (by decide +kernel), ⟨rfl, rfl, rfl, rfl, rfl⟩, by decide +kernel,
    outs_of (by decide +kernel)⟩

def noQueue : CapEntry × QueueHdr × List Nat := (capOf 0 0 0, ⟨0, 0, 0, 0, 0⟩, [])
/-- What an enqueue or a dequeue of the warp finds of the queue of capability 3. -/
def queueOf (n : Need) (first count : QueueHdr → Nat) (perm : BitVec 5 → Bool) : Except Cause (CapEntry × QueueHdr × List Nat) :=
  execY.cap 3 [capQueue] (execY.queueObj 3 n first count) perm
def enqY := queueOf .readWrite (·.tail) (fun q => min (lanesIn execY.act).length (q.cap - q.len)) (permAll permSend)
def deqY := queueOf .readWrite (·.head) (fun q => min (lanesIn execY.act).length q.len) (permAll (permRecv ||| permWait))
def lenY := queueOf .read (·.head) (fun _ => 0) (permAny (permSend ||| permRecv))

theorem witness_Enqueues : Issuing stateY (some 7) execY ∧ Unhindered execY [⟨.pair, 0, .src⟩, dst1 12] ∧
    Unhindered execY [⟨.quad, 0, .src⟩, dst1 12] ∧ Unwatched execY ∧
    ∃ (e : CapEntry) (q : QueueHdr) (slots : List Nat) (out : Lane → LaneOut), enqY = .ok (e, q, slots) ∧
      (e.allow = 0xFFFFFFFF ∨ (lanesIn execY.act).length ≤ e.allow.toNat) ∧ execY.mustHold q.loc 32 true = false ∧
      (∀ l ∈ slots, execY.mustHold l 16 true = false) ∧ slots.length = 30 ∧
      ∀ l, inMask execY.act l = true →
        execY.put1 (past execY l) 12 (if ((lanesIn execY.act).take slots.length).contains l then 1 else 0) = .ok (out l) := by
  have hp : ∀ l, isOk (execY.put1 (past execY l) 12
    (if ((lanesIn execY.act).take (gotD enqY noQueue).2.2.length).contains l then 1 else 0)) = true := by decide +kernel
  exact ⟨issuingY, free_of (by decide +kernel), free_of (by decide +kernel), unwatchedY, (gotD enqY noQueue).1, (gotD enqY noQueue).2.1,
    (gotD enqY noQueue).2.2, fun l => got _ (hp l), ok_gotD noQueue (by decide +kernel), by decide +kernel, by decide +kernel,
    by decide +kernel, by decide +kernel, fun l _ => ok_got (hp l)⟩

theorem witness_Dequeues : Issuing stateY (some 7) execY ∧ Unhindered execY [⟨.pair, 12, .dst⟩] ∧
    Unhindered execY [⟨.quad, 12, .dst⟩, src2 8] ∧ Unwatched execY ∧
    (∃ (e : CapEntry) (q : QueueHdr) (slots : List Nat), deqY = .ok (e, q, slots) ∧ execY.mustHold q.loc 32 true = false ∧
      (∀ l ∈ slots, execY.mustHold l 16 false = false ∧ stateY.badAt l 16 = false) ∧ (readyElems stateY slots).length = 2 ∧
      Passed execY (some 7) (.queue e.pclass) (permAll permPromote e.perms)
        (decide ((lanesIn execY.act).length ≤ (readyElems stateY slots).length)) execY) ∧
    Unhindered execY [dst1 12] ∧
    ∃ (e : CapEntry) (q : QueueHdr) (slots : List Nat) (out : Lane → LaneOut), lenY = .ok (e, q, slots) ∧
      execY.mustHold q.loc 32 false = false ∧ q.len = 2 ∧ ∀ l, inMask execY.act l = true →
        execY.put1 (past execY l) 12 (BitVec.ofNat 32 (min q.len (2 ^ 32 - 1))) = .ok (out l) := by
  have hp : ∀ l, isOk (execY.put1 (past execY l) 12
    (BitVec.ofNat 32 (min (gotD lenY noQueue).2.1.len (2 ^ 32 - 1)))) = true := by decide +kernel
  exact ⟨issuingY, free_of (by decide +kernel), free_of (by decide +kernel), unwatchedY,
    ⟨(gotD deqY noQueue).1, (gotD deqY noQueue).2.1, (gotD deqY noQueue).2.2, ok_gotD noQueue (by decide +kernel),
      by decide +kernel, by decide +kernel, by decide +kernel, passed_of _ _ (by decide +kernel) overY issuingY.toIssued⟩,
    free_of (by decide +kernel), (gotD lenY noQueue).1, (gotD lenY noQueue).2.1, (gotD lenY noQueue).2.2,
    fun l => got _ (hp l), ok_gotD noQueue (by decide +kernel), by decide +kernel, by decide +kernel, fun l _ => ok_got (hp l)⟩

/-- The block at RESIDENT, its feeder a group of EVENTUAL blocks, and capabilities of such targets without PROMOTE. -/
def blockLow : Block := { blockM with cls := 3 }
def capsLow : List (Nat × CapEntry) :=
  (caps0 ++ [(8, capOf capBlock 0x100000003 0)]).map fun (p : Nat × CapEntry) => (p.1, { p.2 with perms := 31 &&& ~~~permPromote, pclass := 1 })
def stateLow : State :=
  { stateY with blocks := [blockLow, block2], launches := [{ launchM with flags := 5, groups := [⟨0, 4, 1, 1⟩] }], ctxs := [ctxWith capsLow] }
def execLow : Exec := opened stateLow blockLow warpM (some 7)
theorem issuingLow : Issuing stateLow (some 7) execLow := ⟨⟨rfl, rfl, rfl, rfl, rfl⟩, by decide +kernel⟩

theorem error_of {ε α : Type} [DecidableEq ε] {r : Except ε α} {c : ε}
    (h : (match r with | .error k => decide (k = c) | .ok _ => false) = true) : r = .error c := by
  cases r with
  | ok a => exact absurd h (by simp)
  | error k => rw [of_decide_eq_true h]

def watchLow (l : Lane) : Watch := gotD (watchLane execLow 0 3 l) ⟨threadWith [], ⟨0, 0, 0⟩, 0, 0⟩
def lockLow := execLow.cap 4 [capLock] (execLow.lockWait 4) (permAll (permWait ||| permRecv))
def flagLow := execLow.cap 8 targetTypes (execLow.target 8) (permAll permWait)
def barLow (m : BitVec 5) := execLow.cap 6 [capGroup, capBlock] (execLow.target 6) (permAll m)
def deqLow := execLow.cap 3 [capQueue]
  (execLow.queueObj 3 .readWrite (·.head) fun q => min (lanesIn execLow.act).length q.len) (permAll (permRecv ||| permWait))

theorem localLow : ∀ l, localAt execLow (past execLow l) 2 (0 : BitVec 5) .b32 = .ok (past execLow l, atM l) := by
  intro l
  have h : ∀ l : Lane, (match localAt execLow (past execLow l) 2 (0 : BitVec 5) .b32 with
    | .ok r => decide (r.2 = atM l) | .error _ => false) = true := by decide +kernel
  have hp : (past execLow l).boundPort (2 : VReg).toNat = none := by revert l; decide +kernel
  have := h l
  revert this
  unfold localAt Exec.get1
  rw [hp]
  dsimp only
  generalize execLow.s.checkLocal execLow.b (laddr execLow ((past execLow l).reg 2) (0 : BitVec 5) (sizeBytes .b32))
    (sizeBytes .b32) = r
  cases r with
  | error c => intro k; exact absurd k (by simp)
  | ok r => intro k; rw [← of_decide_eq_true k]

theorem witness_FailedChecks : Issuing stateLow (some 7) execLow ∧ lowLane execLow.act = some 0 ∧
    Unhindered execLow [] ∧
    (∃ (e : CapEntry) (loc : Nat), lockLow = .ok (e, loc, .lock 9 0) ∧ execLow.mustHold loc 8 true = false ∧
      ∀ write, stateLow.waitCheck blockLow (.lock 9 0) (permAll permPromote e.perms && !execLow.i.noPromote)
        (lockFree write (stateLow.load loc 8)) = .error 1) ∧
    (Unhindered execLow [src2 0, ⟨.pair, 12, .dst⟩, src1 3] ∧ Unhindered execLow [src2 0, src1 3] ∧
      (∃ e : CapEntry, flagLow = .ok (e, .block 9 1) ∧
        ∀ np met, stateLow.waitCheck blockLow (.block 9 1) (permAll permPromote e.perms && !np) met = .error 1) ∧
      ∀ l, inMask execLow.act l = true → watchLane execLow 0 3 l = .ok (watchLow l) ∧
        execLow.mustHold (watchLow l).p.loc 4 false = false) ∧
    (UnhinderedOnce execLow [src2 10, dst1 12] ∧ hiLane execLow.act = some 31 ∧
      (∀ m ∈ [permWait, permSend ||| permWait], ∃ e : CapEntry, barLow m = .ok (e, .group 9 0) ∧
        ∀ met, stateLow.waitCheck blockLow (.group 9 0) (permAll permPromote e.perms) met = .error 1) ∧
      laneCauses (barLanes execLow 12 (.group 9 0) 6 false (.group 9 0 0) false fun _ => 0) = [] ∧
      (∀ l, inMask execLow.act l = true → (execLow.w.thread l).kept = none) ∧ Released execLow (barScope (.group 9 0))) ∧
    (Unhindered execLow [⟨.pair, 12, .dst⟩] ∧ Unhindered execLow [⟨.quad, 12, .dst⟩, src2 8] ∧
      ∃ (e : CapEntry) (q : QueueHdr) (slots : List Nat), deqLow = .ok (e, q, slots) ∧ execLow.mustHold q.loc 32 true = false ∧
        (∀ l ∈ slots, execLow.mustHold l 16 false = false ∧ stateLow.badAt l 16 = false) ∧
        stateLow.waitCheck blockLow (.queue e.pclass) (permAll permPromote e.perms)
          (decide ((lanesIn execLow.act).length ≤ (readyElems stateLow slots).length)) = .error 1) ∧
    (Unhindered execLow [src1 2, ⟨sizeShape .b32, 12, .dst⟩] ∧ localHold execLow 2 (0 : BitVec 5) .b32 false = false ∧
      (∀ l, inMask execLow.act l = true → localAt execLow (past execLow l) 2 (0 : BitVec 5) .b32 = .ok (past execLow l, atM l) ∧
        ((atM l).1 ≠ execLow.b.bid → execLow.w.ldc < 15) ∧
        (granuleFull stateLow (atM l).1 (atM l).2 = true → stateLow.winBad (atM l).1 (atM l).2 (sizeBytes .b32) = false ∧
          ∃ out, putData execLow (past execLow l) .b32 12 (stateLow.winRead (atM l).1 (atM l).2 (sizeBytes .b32)) = .ok out) ∧
        (granuleFull stateLow (atM l).1 (atM l).2 = false → checkDst execLow (past execLow l) 12 = .ok ())) ∧
      ∀ met, stateLow.waitCheck blockLow (feeder execLow) false met = .error 1) ∧
    (stateLow.retiredT (.block 8 0) = true ∧ stateLow.retiredT (.block 9 1) = false ∧
      stateLow.checkClass (.block 9 1) 3 false = .error 1 ∧ ({ stateLow with launches := [{ launchM with localKb := 10000 }] } : State).checkClass (.block 9 2) 3 true = .error 2) := by
  have hw : ∀ l, isOk (watchLane execLow 0 3 l) = true := by decide +kernel
  have hk : ∀ l, execLow.mustHold (watchLow l).p.loc 4 false = false := by decide +kernel
  have hp : ∀ l, isOk (putData execLow (past execLow l) .b32 12 (stateLow.winRead (atM l).1 (atM l).2 (sizeBytes .b32))) = true := by
    decide +kernel
  have hd : ∀ l, isOk (checkDst execLow (past execLow l) 12) = true := by decide +kernel
  have hb : ∀ l, stateLow.winBad (atM l).1 (atM l).2 (sizeBytes .b32) = false := by decide +kernel
  have hg : ∀ m ∈ [permWait, permSend ||| permWait], barLow m = .ok ((gotD (barLow m) (capOf 0 0 0, .self 0)).1, .group 9 0) := by
    intro m hm
    simp only [List.mem_cons, List.not_mem_nil, or_false] at hm
    rcases hm with rfl | rfl <;> exact val_of (by decide +kernel)
  refine ⟨issuingLow, by decide +kernel, free_of (by decide +kernel),
    ⟨(gotD lockLow (capOf 0 0 0, 0, .self 0)).1, (gotD lockLow (capOf 0 0 0, 0, .self 0)).2.1, val_of (by decide +kernel), by decide +kernel,
      fun write => error_of (by revert write; decide +kernel)⟩,
    ⟨free_of (by decide +kernel), free_of (by decide +kernel),
      ⟨(gotD flagLow (capOf 0 0 0, .self 0)).1, val_of (by decide +kernel),
        fun np met => error_of (by revert np met; decide +kernel)⟩, fun l _ => ⟨ok_gotD _ (hw l), hk l⟩⟩,
    ⟨once_of (by decide +kernel), by decide +kernel, fun m hm => ⟨_, hg m hm, fun met => error_of ?_⟩, by decide +kernel,
      by decide +kernel, released_of _ (by decide +kernel) (by decide +kernel) (by decide +kernel) rfl⟩,
    ⟨free_of (by decide +kernel), free_of (by decide +kernel), (gotD deqLow noQueue).1, (gotD deqLow noQueue).2.1,
      (gotD deqLow noQueue).2.2, ok_gotD noQueue (by decide +kernel), by decide +kernel, by decide +kernel,
      error_of (by decide +kernel)⟩,
    ⟨free_of (by decide +kernel), by decide +kernel, fun l _ => ⟨localLow l, fun _ => by decide +kernel,
      fun _ => ⟨hb l, _, ok_got (hp l)⟩, fun _ => ok_unit (hd l)⟩, fun met => error_of (by revert met; decide +kernel)⟩,
    by decide +kernel, by decide +kernel, error_of (by decide +kernel), error_of (by decide +kernel)⟩
  simp only [List.mem_cons, List.not_mem_nil, or_false] at hm
  rcases hm with rfl | rfl <;> revert met <;> decide +kernel

/-! ### Traps -/

theorem witness_SoftwareTraps : Issuing state0 (some 7) exec0 ∧ lowLane exec0.act = some 0 ∧ exec0.hardCauses = [] :=
  ⟨issuing0, by decide +kernel, by decide +kernel⟩

/-- A word without an instruction, as an issue with a hint before it. -/
def issueH : Issue := { issue1 with hint := some 0xFC400000 }
def execI1 : Exec := ⟨{ state0 with issue := some issueH }, issueH, block0, warp0, activeMask issueH warp0 (some 7)⟩
/-- Predicate 1 is clear in every lane: no lane is active. -/
def execN : Exec := opened state0 block0 warp0 (some 1)

theorem witness_IllegalWords : guardedMajor (majorOf (0x07800000 : Word)).toNat = true ∧
    guardField (0x07800000 : Word) = 7 ∧ Issued state0 (some 7) exec0 ∧ exec0.i.misuse = false ∧
    lowLane exec0.act = some 0 ∧ (guardField (0x04800000 : Word) = 1 ∧ Issued state0 (some 1) execN ∧ execN.act = 0 ∧ execN.hardCauses = []) ∧
    majorOf (0x07800000 : Word) ≠ 0x3F ∧ Issued { state0 with issue := some issueH } (some 7) execI1 ∧
    { issueH with word := 0xFC400000 }.misuse = true ∧ lowLane execI1.i.lanes = some 0 :=
  ⟨by decide, by decide, issuing0.toIssued, by decide +kernel, by decide +kernel,
    ⟨by decide, ⟨rfl, rfl, rfl, rfl, rfl⟩, by decide +kernel, by decide +kernel⟩, by decide, ⟨rfl, rfl, rfl, rfl, rfl⟩, by decide, by decide +kernel⟩

theorem witness_Hints : ∃ s : State, ∃ x : Exec, Issued s none x ∧ lowLane x.act = some 0 ∧ x.i.hint ≠ none ∧
    Issued state0 none execU ∧ lowLane execU.act = some 0 ∧ execU.i.hint = none :=
  ⟨{ state0 with issue := some issueH }, ⟨{ state0 with issue := some issueH }, issueH, block0, warp0, activeMask issueH warp0 none⟩,
    ⟨rfl, rfl, rfl, rfl, rfl⟩, by decide +kernel, by decide, issuingU.toIssued, by decide +kernel, rfl⟩

theorem witness_TrapEntry : Issued state0 (some 7) exec0 ∧ exec0.b.kind = .task ∧ Untriggered state0 exec0.b.pn exec0.b.ctx ∧
    state0.handlerOn exec0.b.pn = false ∧
    (state0.setCsr (.part 0) 0x03D4 1).handlerOn 0 = true :=
  ⟨issuing0.toIssued, rfl, by unfold Untriggered; decide +kernel, by decide +kernel, by decide +kernel⟩

theorem witness_TrapPriority :
    firstCause [(3, { code := .memPerm }), (5, { code := .priv }), (9, { code := .priv })] = some ((5 : Lane), { code := .priv }) ∧
    firstCause (exec0.allCauses [(3, { code := .bkpt }), (5, { code := .bkpt })]) = some ((3 : Lane), { code := .bkpt }) := by
  decide +kernel

/-- Registers beyond the allocation: 8 registers a thread. -/
def warpA : Warp := { warp0 with alloc := 8 }
def execA : Exec := opened (stateWith (blockWith warpA) []) (blockWith warpA) warpA (some 7)

theorem witness_RegisterTraps : (∃ p ∈ pairWords, p.1 7 0 0 0 = .iadd64 7 0 0 0) ∧
    Issuing (stateWith (blockWith warpA) []) (some 7) execA ∧ execA.interlocked [src2 4, src2 6, dst2 5] = false ∧
    execA.interlocked [src2 4, src2 6, dst2 8] = false ∧ lowLane execA.act = some 0 ∧ (5 : VReg).toNat % 2 = 1 ∧
    (8 : VReg).toNat % 2 = 0 ∧ execA.w.alloc ≤ (8 : VReg).toNat ∧ (∀ l, (execA.w.thread l).bound (8 : VReg).toNat = false) ∧
    execA.interlocked [src2 4, ⟨sizeShape .b64, 5, .dst⟩] = false ∧ execA.w.ldc < 15 ∧
    execA.interlocked [src2 4, ⟨sizeShape .b128, 6, .src⟩] = false ∧ execA.w.stc < 15 ∧ (6 : VReg).toNat % 4 ≠ 0 :=
  ⟨⟨_, List.mem_cons_self, rfl⟩, ⟨⟨rfl, rfl, rfl, rfl, rfl⟩, by decide +kernel⟩, by decide +kernel, by decide +kernel,
    by decide +kernel, by decide, by decide, by decide, by decide +kernel, by decide +kernel, by decide, by decide +kernel,
    by decide, by decide⟩

theorem witness_PrivilegeTraps : Issuing state0 none execU ∧ lowLane execU.act = some 0 ∧ execU.w.level = 0 ∧
    execU.interlocked [src1 4, src1 8, dst1 12] = false ∧ execU.interlocked [src1 4, src1 8, src1 12] = false ∧
    execU.onceLocked [src1 4, src1 8, dst1 12] = false ∧ execU.onceLocked [src1 4] = false ∧
    execU.onceLocked [src1 4, src1 8] = false ∧ (4 : VReg).toNat % 2 = 0 ∧ execU.onceLocked [src2 4, src1 8] = false ∧
    execU.onceLocked [src2 4, src1 8, dst1 12] = false ∧ csrRow (0x0100 : BitVec 14).toNat ≠ none ∧
    execU.onceLocked [dst1 12] = false ∧ execU.onceLocked [src1 12] = false ∧ execU.w.level < 2 ∧
    execU.onceLocked [src1 4, dst1 12] = false ∧ execU.interlocked [src1 4] = false ∧ (19 : BitVec 7).toNat < 20 ∧
    (19 : BitVec 7) ≠ 13 ∧ Issuing state0 (some 7) exec0 ∧ lowLane exec0.act = some 0 ∧ exec0.himmMisuse = false ∧
    exec0.w.level = 0 :=
  ⟨issuingU, by decide +kernel, rfl, by decide +kernel, by decide +kernel, by decide +kernel, by decide +kernel, by decide +kernel,
    by decide, by decide +kernel, by decide +kernel, by decide, by decide +kernel, by decide +kernel, by decide,
    by decide +kernel, by decide +kernel, by decide, by decide, issuing0, by decide +kernel, by decide +kernel, rfl⟩

/-! ### System words -/

/-- Of a warp at a level above: v0 a handle of block 2, v1 a selector (v2 of lane 3), v2 a value, v3 mode 2 of RESW,
v4:v5 an address, v6 mode 1 of TLBINV, v7 a quiesce of die 1, v8 entry 5 of context 0, v9 an image offset, v10:v11 group
0 of launch number 4, v12 a destination, v13 the offset of a group image, v14 lane 3, v15 mode 3 of TLBINV for die 0, v16 the offset of an image
with a reserved byte set. -/
def regsZ : List Word := [0x80000, 0x302, 77, 2, 0x40000000, 0, 1, 2, 5, 64, 4, 0, 0, 128, 3, 0x103, 160]
def warpZ (level : Nat) : Warp := warpWith regsZ level
def blockZ (level : Nat) : Block :=
  { blockWith (warpZ level) with
    win := memWriteAll [] (cellsAt 64 2 0x1F02 ++ cellsAt 72 8 3 ++ cellsAt 132 4 1 ++ cellsAt 136 4 1 ++ cellsAt 140 2 1 ++ cellsAt 163 1 1) }
def recordZ : TrapRecord := ⟨1, 0, 0, 0, 0x80000, 0x40200000, 0, 0, 0xFFFFFFFF, 0, 0, 0, 1, 3⟩
/-- Block 2: its warp parked, the block running or halted. -/
def blockP (life : BlockLife) : Block :=
  { block2 with life := life, warps := [{ warp0 with parked := some ⟨0xFFFFFFFF, 4, recordZ⟩ }] }
/-- Block 2 halted: its warp has stopped. -/
def blockT : Block := { block2 with life := .halted, warps := [{ warp0 with stop := .asked, stopped := 0xFFFFFFFF }] }
def stateZ (level : Nat) (b : Block) : State :=
  { stateWith (blockZ level) [] with
    blocks := [blockZ level, b]
    launches := [launch9, { launch9 with lid := 10, kern := 4, groups := [⟨0, 1, 1, 1⟩] }] }
def execZ (level : Nat) (b : Block) : Exec := opened (stateZ level b) (blockZ level) (warpZ level) none

theorem issuingZ (b : Block) : Issuing (stateZ 1 b) none (execZ 1 b) :=
  ⟨⟨rfl, rfl, rfl, rfl, rfl⟩, by show activeMask issue1 (warpZ 1) none ≠ 0; decide +kernel⟩
theorem issuingZ2 (b : Block) : Issuing (stateZ 2 b) none (execZ 2 b) :=
  ⟨⟨rfl, rfl, rfl, rfl, rfl⟩, by show activeMask issue1 (warpZ 2) none ≠ 0; decide +kernel⟩

theorem witness_ControlWords : Issuing (stateZ 1 block2) none (execZ 1 block2) ∧
    csrRow (0x0210 : BitVec 14).toNat = some ⟨2, .die, .rw⟩ ∧ csrRow (0x0101 : BitVec 14).toNat = some ⟨1, .part, .rw⟩ ∧
    1 ≤ (execZ 1 block2).w.level ∧ (stateZ 1 block2).csrLevel ⟨1, .part, .rw⟩ (execZ 1 block2).b.core ≤ (execZ 1 block2).w.level ∧
    (∀ l, inMask (execZ 1 block2).act l = true →
      ((execZ 1 block2).w.thread l).bound ((0x0101 : BitVec 14).toNat % 128) = false) ∧
    UnhinderedOnce (execZ 1 block2) [dst1 12] ∧
    (∃ out : Lane → LaneOut, ∀ l, inMask (execZ 1 block2).act l = true →
      (execZ 1 block2).put1 (past (execZ 1 block2) l) 12 0 = .ok (out l)) ∧
    UnhinderedOnce (execZ 1 block2) [src1 2] ∧ (execZ 1 block2).hiReg 2 = .ok (77 : Word).toNat ∧
    ∃ th : Lane → Thread, ∀ l, inMask (execZ 1 block2).act l = true →
      (execZ 1 block2).popHi [2] l (past (execZ 1 block2) l) = .ok (th l) :=
  ⟨issuingZ _, by decide, by decide, by decide, by decide +kernel, by decide +kernel, once_of (by decide +kernel), outs_of (by decide +kernel),
    once_of (by decide +kernel), val_of (by decide +kernel), outs_of (by decide +kernel)⟩

theorem witness_ControlRegisters : plainRegister 0x0101 ∧ plainRegister 0x0656 :=
  ⟨⟨_, rfl, by decide, by decide⟩, ⟨_, rfl, by decide, by decide⟩⟩

theorem heldP : (stateZ 1 (blockP .running)).heldWarp 0 0x80000 =
    some (blockP .running, 0, { warp0 with parked := some ⟨0xFFFFFFFF, 4, recordZ⟩ }) := rfl

theorem witness_WarpFiles : let x := execZ 1 (blockP .running)
    Issuing (stateZ 1 (blockP .running)) none x ∧ 1 ≤ x.w.level ∧
    (∀ l h t e, inMask x.act l = true → x.get1 (x.w.thread l) 0 = .ok (h, t) →
      (stateZ 1 (blockP .running)).namedWarp x.pn h = some e → (stateZ 1 (blockP .running)).moveOf e.1.core = false) ∧
    (∀ l, inMask x.act l = true → readTwo x 0 1 l = .ok ((0x80000, 0x302), past x l) ∧
      (stateZ 1 (blockP .running)).heldWarp x.pn 0x80000 =
        some (blockP .running, 0, { warp0 with parked := some ⟨0xFFFFFFFF, 4, recordZ⟩ }) ∧ (selectorOf 0x302).bad = false) ∧
    Unhindered x [src1 0, src1 1, dst1 12] ∧
    readFile (blockP .running) { warp0 with parked := some ⟨0xFFFFFFFF, 4, recordZ⟩ } (selectorOf 0x302) = some 7 ∧
    ({ warp0 with parked := some ⟨0xFFFFFFFF, 4, recordZ⟩ } : Warp).filePoison (selectorOf 0x302) = none ∧
    (∃ out : Lane → LaneOut, ∀ l, inMask x.act l = true → x.put1 (past x l) 12 7 = .ok (out l)) ∧
    Unhindered x [src1 0, src1 1, src1 2] ∧
    (∃ (v : Lane → Word) (th : Lane → Thread), ∀ l, inMask x.act l = true → x.get1 (past x l) 2 = .ok (v l, th l)) ∧
    ∃ f, writeFile (blockP .running) { warp0 with parked := some ⟨0xFFFFFFFF, 4, recordZ⟩ } (selectorOf 0x302) 77 = .ok f := by
  refine ⟨issuingZ _, by decide, fun _ _ _ _ _ _ _ => rfl, fun l _ => ⟨?_, heldP, by decide⟩, free_of (by decide +kernel),
    by decide +kernel, by decide +kernel, outs_of (by decide +kernel), free_of (by decide +kernel), pairs_of (by decide +kernel), ⟨_, rfl⟩⟩
  unfold readTwo Exec.get1
  rw [show (past (execZ 1 (blockP .running)) l).boundPort (0 : VReg).toNat = none from by revert l; decide +kernel]
  dsimp only
  rw [show (past (execZ 1 (blockP .running)) l).boundPort (1 : VReg).toNat = none from by revert l; decide +kernel]
  have h : (past (execZ 1 (blockP .running)) l).reg 0 = 0x80000 ∧ (past (execZ 1 (blockP .running)) l).reg 1 = 0x302 := by
    revert l; decide +kernel
  rw [h.1, h.2]

theorem witness_HaltAndResume :
    Issuing (stateZ 1 blockT) none (execZ 1 blockT) ∧ 1 ≤ (execZ 1 blockT).w.level ∧
    (execZ 1 blockT).hiReg 0 = .ok (0x80000 : Word).toNat ∧ (stateZ 1 blockT).namedWarp (execZ 1 blockT).pn 0x80000 = some (blockT, 0) ∧
    UnhinderedOnce (execZ 1 blockT) [src1 0] ∧ blockT.resident = true ∧
    (let y := (execZ 1 blockT).inState ((stateZ 1 blockT).haltBlock 2)
     Issued y.s none y ∧ Undisturbed y ∧ (y.s.block? 2).elim true (fun b => b.warps.all Warp.hasStopped) = true ∧
     y.s.moveOf 1 = false ∧ ∃ th : Lane → Thread, ∀ l, inMask y.act l = true → y.popHi [0] l (past y l) = .ok (th l)) ∧
    (let y := (execZ 1 block2).inState ((stateZ 1 block2).haltBlock 2)
     Issuing (stateZ 1 block2) none (execZ 1 block2) ∧ (stateZ 1 block2).namedWarp (execZ 1 block2).pn 0x80000 = some (block2, 0) ∧
     Issued y.s none y ∧ Undisturbed y ∧ (y.s.block? 2).elim true (fun b => b.warps.all Warp.hasStopped) = false) ∧
    (let s := stateZ 1 (blockP .halted)
     let x := execZ 1 (blockP .halted)
     Issuing s none x ∧ s.namedWarp x.pn 0x80000 = some (blockP .halted, 0) ∧ UnhinderedOnce x [src1 0, src1 3] ∧
      x.hiAfter [0] 3 = .ok (2 : Word).toNat ∧ (2 : Word).toNat < 4 ∧ s.moveOf 1 = false ∧ (blockP .halted).halted = true ∧
      (blockP .halted).warp? 0 = some { warp0 with parked := some ⟨0xFFFFFFFF, 4, recordZ⟩ } ∧
      s.portPending 2 0 { warp0 with parked := some ⟨0xFFFFFFFF, 4, recordZ⟩ } (~~~0) = false ∧
      ∃ th : Lane → Thread, ∀ l, inMask x.act l = true → x.popHi [0, 3] l (past x l) = .ok (th l)) :=
  ⟨issuingZ _, by decide, val_of (by decide +kernel), rfl, once_of (by decide +kernel), rfl,
    ⟨⟨rfl, rfl, rfl, rfl, rfl⟩, ⟨by decide +kernel, by decide +kernel⟩, by decide +kernel, by decide +kernel, outs_of (by decide +kernel)⟩,
    ⟨issuingZ _, rfl, ⟨rfl, rfl, rfl, rfl, rfl⟩, ⟨by decide +kernel, by decide +kernel⟩, by decide +kernel⟩,
    ⟨issuingZ _, rfl, once_of (by decide +kernel), val_of (by decide +kernel), by decide, rfl, rfl, rfl, by decide +kernel, outs_of (by decide +kernel)⟩⟩

theorem witness_ResumeModes : inMask (⟨1, 4, recordZ⟩ : Parked).lanes 0 = true ∧ inMask (⟨1, 4, recordZ⟩ : Parked).lanes 1 = false := by
  decide

theorem stepsZ : ∃ th : Lane → Thread, ∀ k, inMask (execZ 1 blockT).act k = true →
    (execZ 1 blockT).popHi [0, 14] k ((execZ 1 blockT).w.thread k) = .ok (th k) ∧
      checkDst (execZ 1 blockT) (th k) 12 = .ok () := by
  have hp : ∀ k, (match (execZ 1 blockT).popHi [0, 14] k ((execZ 1 blockT).w.thread k) with
      | .ok t => isOk (checkDst (execZ 1 blockT) t 12)
      | .error _ => false) = true := by decide +kernel
  refine ⟨fun k => gotD ((execZ 1 blockT).popHi [0, 14] k ((execZ 1 blockT).w.thread k)) (warp0.thread 0), fun k _ => ?_⟩
  have h := hp k
  dsimp only
  cases e : (execZ 1 blockT).popHi [0, 14] k ((execZ 1 blockT).w.thread k) with
  | error c => rw [e] at h; exact Bool.noConfusion h
  | ok t => rw [e] at h; exact ⟨rfl, ok_gotD () h⟩

theorem witness_Steps : let x := execZ 1 blockT
    Issuing (stateZ 1 blockT) none x ∧ UnhinderedOnce x [src1 0, src1 14, dst1 12] ∧ 1 ≤ x.w.level ∧
    x.hiReg 0 = .ok (0x80000 : Word).toNat ∧ x.hiAfter [0] 14 = .ok (3 : Word).toNat ∧ (3 : Word).toNat < 32 ∧
    (stateZ 1 blockT).namedWarp x.pn 0x80000 = some (blockT, 0) ∧ (stateZ 1 blockT).moveOf blockT.core = false ∧
    blockT.warp? 0 = some { warp0 with stop := .asked, stopped := 0xFFFFFFFF } ∧ blockT.halted = true ∧ blockT.resident = true ∧
    ({ warp0 with stop := .asked, stopped := 0xFFFFFFFF } : Warp).hasStopped = true ∧ (stateZ 1 blockT).stepReq = none ∧
    ((warp0.thread 3).running = true) ∧
    (∃ th : Lane → Thread, ∀ k, inMask x.act k = true →
      x.popHi [0, 14] k (x.w.thread k) = .ok (th k) ∧ checkDst x (th k) 12 = .ok ()) ∧
    ∃ out : Lane → LaneOut, ∀ k, inMask x.act k = true → x.put1 (past x k) 12 3 = .ok (out k) :=
  ⟨issuingZ _, once_of (by decide +kernel), by decide, val_of (by decide +kernel), val_of (by decide +kernel), by decide, rfl, rfl, rfl,
    rfl, rfl, by decide +kernel, rfl, by decide +kernel, stepsZ, outs_of (by decide +kernel)⟩

theorem witness_TranslationWords :
    (let x := execZ 1 block2
     Issuing (stateZ 1 block2) none x ∧ UnhinderedOnce x [src2 4, src1 6] ∧ x.hiReg 6 = .ok (1 : Word).toNat ∧
     (∃ th : Lane → Thread, ∀ l, inMask x.act l = true → x.popHi [6] l (past x l) = .ok (th l)) ∧ 1 ≤ x.w.level ∧
     (1 : Word).toNat / 2 ^ 2 % 4 = 0 ∧ (1 : Word).toNat / 2 ^ 8 = 0) ∧
    (let x := execZ 2 block2
     Issuing (stateZ 2 block2) none x ∧ UnhinderedOnce x [src2 4, src1 15] ∧ x.hiReg 15 = .ok (0x103 : Word).toNat ∧
     (∃ th : Lane → Thread, ∀ l, inMask x.act l = true → x.popHi [15] l (past x l) = .ok (th l)) ∧ 2 ≤ x.w.level ∧
     (0x103 : Word).toNat % 4 = 3 ∧ (0x103 : Word).toNat / 2 ^ 2 % 4 = 0 ∧ (0x103 : Word).toNat / 2 ^ 12 = 0 ∧
     diesOfMask ((0x103 : Word).toNat / 2 ^ 8 % 2 ^ 4) = [0]) :=
  ⟨⟨issuingZ _, once_of (by decide +kernel), val_of (by decide +kernel), outs_of (by decide +kernel), by decide, by decide,
      by decide⟩,
    ⟨issuingZ2 _, once_of (by decide +kernel), val_of (by decide +kernel), outs_of (by decide +kernel), by decide, by decide,
      by decide, by decide, by decide⟩⟩

theorem witness_QuiesceWords : let x := execZ 2 block2
    Issuing (stateZ 2 block2) none x ∧ UnhinderedOnce x [src1 7, dst1 12] ∧ 2 ≤ x.w.level ∧ x.hiReg 7 = .ok (2 : Word).toNat ∧
    (2 : Word).toNat / 2 ^ 4 % 2 ^ 4 = 0 ∧ (2 : Word).toNat / 2 ^ 9 = 0 ∧
    ∃ (th : Lane → Thread) (out : Lane → LaneOut), ∀ l, inMask x.act l = true → x.popHi [7] l (past x l) = .ok (th l) ∧
      x.put1 (th l) 12 ((stateZ 2 block2).qsc 2 false).1 = .ok (out l) := by
  intro x
  have hp : ∀ l, isOk (x.popHi [7] l (past x l)) = true := by decide +kernel
  have ho : ∀ l, isOk (x.put1 (gotD (x.popHi [7] l (past x l)) (warp0.thread 0)) 12 ((stateZ 2 block2).qsc 2 false).1) = true := by
    decide +kernel
  exact ⟨issuingZ2 _, once_of (by decide +kernel), by decide, val_of (by decide +kernel), by decide, by decide,
    fun l => gotD (x.popHi [7] l (past x l)) (warp0.thread 0), fun l => got _ (ho l),
    fun l _ => ⟨ok_gotD _ (hp l), ok_got (ho l)⟩⟩

theorem witness_CapabilityWrites : let x := execZ 1 block2
    let write := fun im => (stateZ 1 block2).capw x.pn ((5 : Word).toNat / 2 ^ 8) ((5 : Word).toNat % 2 ^ 6) im
    Issuing (stateZ 1 block2) none x ∧ 1 ≤ x.w.level ∧ UnhinderedOnce x [src1 8, src1 9] ∧ x.hiReg 8 = .ok (5 : Word).toNat ∧
    x.hiAfter [8] 9 = .ok (64 : Word).toNat ∧ (5 : Word).toNat / 2 ^ 6 % 4 = 0 ∧ (5 : Word).toNat / 2 ^ 12 = 0 ∧
    (∃ at', x.imageAt 64 32 = .ok at' ∧ (write (natToBytes 32 ((stateZ 1 block2).winRead at'.1 at'.2 32))).isSome = true ∧
      (stateZ 1 block2).winBad at'.1 at'.2 32 = false) ∧
    (∃ th : Lane → Thread, ∀ l, inMask x.act l = true → x.popHi [8, 9] l (past x l) = .ok (th l)) ∧
    UnhinderedOnce x [src1 8, src1 16] ∧ x.hiAfter [8] 16 = .ok (160 : Word).toNat ∧
    ∃ at', x.imageAt 160 32 = .ok at' ∧ write (natToBytes 32 ((stateZ 1 block2).winRead at'.1 at'.2 32)) = none := by
  intro x write
  exact ⟨issuingZ _, by decide, once_of (by decide +kernel), val_of (by decide +kernel), val_of (by decide +kernel), by decide,
    by decide, ⟨gotD (x.imageAt 64 32) (0, 0), ok_gotD _ (by decide +kernel), by decide +kernel, by decide +kernel⟩, outs_of (by decide +kernel),
    once_of (by decide +kernel), val_of (by decide +kernel), gotD (x.imageAt 160 32) (0, 0), ok_gotD _ (by decide +kernel),
    Option.isNone_iff_eq_none.mp (by decide +kernel)⟩

theorem writesZ (v : Word) : ∃ (th : Lane → Thread) (out : Lane → LaneOut), ∀ l, inMask (execZ 1 block2).act l = true →
    (execZ 1 block2).popHi [13] l (past (execZ 1 block2) l) = .ok (th l) ∧ (execZ 1 block2).put1 (th l) 12 v = .ok (out l) := by
  have hp : ∀ l, isOk ((execZ 1 block2).popHi [13] l (past (execZ 1 block2) l)) = true := by decide +kernel
  have hb : ∀ l, (gotD ((execZ 1 block2).popHi [13] l (past (execZ 1 block2) l)) (warp0.thread 0)).boundPort (12 : VReg).toNat =
    none := by decide +kernel
  refine ⟨fun l => gotD ((execZ 1 block2).popHi [13] l (past (execZ 1 block2) l)) (warp0.thread 0), fun l =>
    ⟨(gotD ((execZ 1 block2).popHi [13] l (past (execZ 1 block2) l)) (warp0.thread 0)).setReg 12 v, []⟩,
    fun l _ => ⟨ok_gotD _ (hp l), ?_⟩⟩
  unfold Exec.put1
  rw [hb l]

theorem witness_GroupWrites : let x := execZ 1 block2
    let target := fun a im => (stateZ 1 block2).grpwTarget x.pn x.b.ctx ((x.hiPair a).setWidth 32) ((x.hiPair a).toNat / 2 ^ 32)
      (groupEntry im)
    Issuing (stateZ 1 block2) none x ∧ 1 ≤ x.w.level ∧ UnhinderedOnce x [src2 10, src1 13, dst1 12] ∧
    x.hiReg 13 = .ok (128 : Word).toNat ∧ (x.hiPair 10).toNat / 2 ^ 40 = 0 ∧
    (∃ at', x.imageAt 128 16 = .ok at' ∧ (stateZ 1 block2).winBad at'.1 at'.2 16 = false ∧
      let im := natToBytes 16 ((stateZ 1 block2).winRead at'.1 at'.2 16)
      groupEntryOk im = true ∧ (target 10 im).isSome = true ∧ target 2 im = none) ∧
    UnhinderedOnce x [src2 2, src1 13, dst1 12] ∧ (x.hiPair 2).toNat / 2 ^ 40 = 0 ∧
    ∀ v, ∃ (th : Lane → Thread) (out : Lane → LaneOut), ∀ l, inMask x.act l = true →
      x.popHi [13] l (past x l) = .ok (th l) ∧ x.put1 (th l) 12 v = .ok (out l) := by
  intro x target
  exact ⟨issuingZ _, by decide, once_of (by decide +kernel), val_of (by decide +kernel), by decide +kernel,
    ⟨gotD (x.imageAt 128 16) (0, 0), ok_gotD _ (by decide +kernel), by decide +kernel, by decide +kernel, by decide +kernel,
      Option.isNone_iff_eq_none.mp (by decide +kernel)⟩, once_of (by decide +kernel), by decide +kernel, writesZ⟩

/-! ### Copies, cards and sequencers as they are started -/

/-- v0 the offset of a copy descriptor, v4:v7 a token with no deadline, v8 the offset of a batch, v9 of a start descriptor,
v12:v15 a key and a payload. -/
def regsK : List Word := [256, 0, 0, 0, 1, 0, 0, 0, 320, 352, 0, 0, 5, 0, 9, 0]
def warpK : Warp := warpWith regsK 0
/-- A copy of 64 bytes from device address 2^20 to offset 1024; a batch of 5 records and 2 blocks; a start at 2^30. -/
def winK : List Host.Cell :=
  memWriteAll [] (cellsAt 256 1 1 ++ cellsAt 258 1 2 ++ cellsAt 264 8 0x40100000 ++ cellsAt 272 8 1024 ++ cellsAt 288 8 64 ++
    cellsAt 328 4 5 ++ cellsAt 332 2 2 ++ cellsAt 352 8 0x40000000 ++ cellsAt 360 1 2)
def blockK : Block := { blockWith warpK with win := winK, grps := [0] }
def card0 : Card where
  gen := 0
  pn := 0
  ctx := 0
  va := 0x40000200
  loc := 0x200
  entry := 0x40200000
  ring := false
  cls := 1
  warps := 1
  regs8 := 2
  localKb := 0
  maxblk := 0
  ringl := 0
  rbase := 0
  doff := 0
  minChunk := 2
  divisor := 2
  quota := 4
  launch := some 11
  total := 5
  dealt := 1
  released := 0
  ready := []
  readyFrom := 0
  chunks := []
  live := []
def launchK : Launch := { launch9 with flags := 8, prodg := 0, prodw := 1, groups := [⟨0, 1, 1, 1⟩] }
/-- Card 0 has a batch in progress, card 1 none; a ring of four records at 0x140. -/
def stateK : State :=
  { stateWith blockK [] with
    launches := [launchK, { launch9 with lid := 11, kern := 5, nblk := 2, card := some 0 }]
    cards := [card0, { card0 with gen := 1, va := 0x40000240, loc := 0x240, launch := none, total := 0, dealt := 0 }]
    ctxs := [ctxWith (caps0 ++ [(9, { capOf capCard 0x40000240 0 with card := 1 })])]
    mem := memWriteAll pages (cellsAt 0x140 8 0x1000 ++ cellsAt 0x148 1 2) }
def execK : Exec := opened stateK blockK warpK (some 7)
theorem issuingK : Issuing stateK (some 7) execK := ⟨⟨rfl, rfl, rfl, rfl, rfl⟩, by decide +kernel⟩

theorem readsK {r d : VReg} {v w : Word} (hr : ∀ l, (past execK l).boundPort r.toNat = none)
    (hd : ∀ l, (past execK l).boundPort d.toNat = none) (hv : ∀ l, (past execK l).reg r = v) :
    ∃ (th : Lane → Thread) (out : Lane → LaneOut), ∀ l, inMask execK.act l = true →
      (∃ v, execK.get1 (past execK l) r = .ok (v, th l)) ∧ execK.put1 (th l) d w = .ok (out l) := by
  refine ⟨past execK, fun l => plainOut ((past execK l).setReg d w), fun l _ => ⟨⟨v, ?_⟩, ?_⟩⟩
  · unfold Exec.get1; rw [hr l]; dsimp only; rw [hv l]
  · unfold Exec.put1; rw [hd l]; rfl

theorem popsK {r d : VReg} {w : Word} (hp : ∀ l, isOk (execK.popHi [r] l (past execK l)) = true)
    (hd : ∀ l, (gotD (execK.popHi [r] l (past execK l)) (warpK.thread 0)).boundPort d.toNat = none) :
    ∃ (th : Lane → Thread) (out : Lane → LaneOut), ∀ l, inMask execK.act l = true →
      execK.popHi [r] l (past execK l) = .ok (th l) ∧ execK.put1 (th l) d w = .ok (out l) := by
  refine ⟨fun l => gotD (execK.popHi [r] l (past execK l)) (warpK.thread 0),
    fun l => plainOut ((gotD (execK.popHi [r] l (past execK l)) (warpK.thread 0)).setReg d w), fun l _ => ⟨ok_gotD _ (hp l), ?_⟩⟩
  unfold Exec.put1; rw [hd l]; rfl

def noRing : CapEntry × RingHdr × Nat := (capOf 0 0 0, ⟨0, 0, 0, 0, 0⟩, 0)
def ringK := execK.cap 5 [capRing] (execK.ringObj 5 .readWrite fun r => execK.s.recordLoc (some execK.b.core) execK.b.pn
  execK.b.ctx r r.next)
  (permAll permSend)
def noCopy : Copy := ⟨0, 0, 0, 0, 0, 0, 0, 0, 0, 0, [], [], none, [], .queued, [], [], 0, 0, 0, false⟩
def cmdK := execK.readCopy 1 256 (gotD ringK noRing).2.1 (gotD ringK noRing).2.2

theorem witness_CopyWords : (∃ q ∈ copyWords, q.2 = 1) ∧ Issuing stateK (some 7) execK ∧ UnhinderedOnce execK [src1 0, dst1 1] ∧
    ∃ (e : CapEntry) (r : RingHdr) (rc : Nat) (cmd : Copy), ringK = .ok (e, r, rc) ∧ hiLane execK.act = some 31 ∧
      execK.hiReg 0 = .ok (256 : Word).toNat ∧ execK.readCopy 1 256 r rc = .ok cmd ∧
      execK.producer = true ∧ execK.w.cpc < 15 ∧ stateK.queued execK.b.core < 16 ∧ stateK.ringOpen r.loc < r.cap ∧ execK.mustHold r.loc 32 true = false ∧
      ∃ (th : Lane → Thread) (out : Lane → LaneOut), ∀ l, inMask execK.act l = true →
        execK.popHi [0] l (past execK l) = .ok (th l) ∧ execK.put1 (th l) 1 cmd.token = .ok (out l) :=
  ⟨⟨_, List.mem_cons_self, rfl⟩, issuingK, once_of (by decide +kernel), (gotD ringK noRing).1, (gotD ringK noRing).2.1,
    (gotD ringK noRing).2.2, gotD cmdK noCopy, ok_gotD noRing (by decide +kernel), by decide +kernel, val_of (by decide +kernel),
    ok_gotD noCopy (by decide +kernel), by decide +kernel, by decide +kernel, by decide +kernel, by decide +kernel, by decide +kernel,
    popsK (by decide +kernel) (by decide +kernel)⟩

theorem witness_TokenWords : Unhindered execK [src1 4, dst1 1] ∧ Unhindered execK [src4 4, dst1 1] ∧
    ∃ slot : Nat, let sl := (lanesIn execK.act).map fun l => (l, (1 : Word), slot)
      execK.slotsOf (execK.tokens 4 false) (gotD ringK noRing).2.1 = some sl ∧
      execK.slotsOf (execK.tokens 4 true) (gotD ringK noRing).2.1 = some sl ∧
      (execK.cap 5 [capRing] (execK.ringObj 5 .read (execK.slotsOf (execK.tokens 4 false))) (permAll permRecv)).toOption.isSome = true ∧
      stateK.badAt slot 32 = false ∧ stateK.tokenStatus slot 1 = 3 ∧ (past execK 0).get2 6 = 0 ∧
      (∃ (th : Lane → Thread) (out : Lane → LaneOut), ∀ l, inMask execK.act l = true →
        (∃ v, execK.get1 (past execK l) 4 = .ok (v, th l)) ∧ execK.put1 (th l) 1 3 = .ok (out l)) ∧
      ∀ l, inMask execK.act l = true → checkDst execK (past execK l) 1 = .ok () :=
  ⟨free_of (by decide +kernel), free_of (by decide +kernel), 0x1160, by decide +kernel, by decide +kernel, by decide +kernel, by decide +kernel,
    by decide +kernel, by decide +kernel, readsK (by decide +kernel) (by decide +kernel) (v := 1) (by decide +kernel),
    fun l _ => ok_unit (by revert l; decide +kernel)⟩

theorem witness_CardWords : Issuing stateK (some 7) execK ∧
    (stateK.capEntry execK.b.pn execK.b.ctx (1 : Cap).toNat = some (capOf capCard 0x40000200 0)) ∧
    (stateK.capEntry execK.b.pn execK.b.ctx (9 : Cap).toNat = some { capOf capCard 0x40000240 0 with card := 1 }) ∧
    (capOf capCard 0x40000200 0).perms &&& permLaunch = permLaunch ∧ (capOf capCard 0x40000200 0).perms &&& permRecv = permRecv ∧
    UnhinderedOnce execK [src1 8, dst1 1] ∧ execK.hiReg 8 = .ok 320 ∧ isOk (execK.readBatch 320) = true ∧
    (∃ (th : Lane → Thread) (out : Lane → LaneOut), ∀ l, inMask execK.act l = true →
      execK.popHi [8] l (past execK l) = .ok (th l) ∧ execK.put1 (th l) 1 1 = .ok (out l)) ∧
    UnhinderedOnce execK [dst2 2] ∧ stateK.card? 0 = some card0 ∧ stateK.remaining card0 = 4 ∧ Unhindered execK [src4 12] ∧ execK.portPending = false ∧
    stateK.deposits (clusterOfCore execK.b.core) + (lanesIn execK.act).length ≤ 4096 :=
  ⟨issuingK, by decide +kernel, by decide +kernel, by decide, by decide, once_of (by decide +kernel), val_of (by decide +kernel),
    by decide +kernel, popsK (by decide +kernel) (by decide +kernel), once_of (by decide +kernel),
    rfl, by decide +kernel, free_of (by decide +kernel), by decide +kernel, by decide +kernel⟩

/-- Block 1 executes its SQSTOP again, an operation of the stream it stopped not yet over. -/
def blockStop : Block := { blockK with seq := { newSequencer with st := 2, stopping := [⟨0, 0x40200000, 60⟩] } }
def stateStop : State :=
  { stateWith blockStop [] with engines := [⟨0, none, [⟨50, 1, 5, 0, 0x40000000, 0x28000000, [], 900, 0, 0, .posted⟩], []⟩] }
def execStop : Exec := opened stateStop blockStop warpK (some 7)

theorem witness_SequencerControl : UnhinderedOnce execK [src1 9, dst1 1] ∧ execK.hiReg 9 = .ok (352 : Word).toNat ∧
    execK.startDesc 352 = .ok (0x40000000, 2) ∧ execK.b.seq.st ≠ 1 ∧ execK.w.mxc < 15 ∧
    (∃ (th : Lane → Thread) (out : Lane → LaneOut), ∀ l, inMask execK.act l = true →
      execK.popHi [9] l (past execK l) = .ok (th l) ∧ execK.put1 (th l) 1 1 = .ok (out l)) ∧
    UnhinderedOnce execK [dst2 2] ∧ Issued execK.s (some 7) execK ∧ Undisturbed execK ∧
    ¬ (execK.seqStop? = none ∧ execK.b.seq.st = 1) ∧ (∀ z, execK.seqStop? = some z → ∀ m ∈ execK.s.entriesOf execK.b, z.bound ≤ m.id) ∧
    (let y := execStop
     ¬ (y.seqStop? = none ∧ y.b.seq.st = 1) ∧ Issuing y.s (some 7) y ∧ Undisturbed y ∧ UnhinderedOnce y [dst2 2] ∧
      y.seqStop? = some ⟨0, 0x40200000, 60⟩ ∧ ∃ m ∈ y.s.entriesOf y.b, m.id < 60) :=
  ⟨once_of (by decide +kernel), val_of (by decide +kernel), val_of (by decide +kernel), by decide, by decide,
    popsK (by decide +kernel) (by decide +kernel), once_of (by decide +kernel),
    ⟨rfl, rfl, rfl, rfl, rfl⟩, ⟨by decide +kernel, by decide +kernel⟩, by decide +kernel, (fun z h => by rw [show execK.seqStop? = none by decide +kernel] at h; cases h),
    by decide +kernel, ⟨⟨rfl, rfl, rfl, rfl, rfl⟩, by decide +kernel⟩, ⟨by decide +kernel, by decide +kernel⟩, once_of (by decide +kernel),
    by decide +kernel, by decide +kernel⟩

/-- Block 1's sequencer runs: its descriptors at 0 and 1, q2 a misaligned one. -/
def seqQ : Sequencer :=
  { newSequencer with st := 1, pc := 0x40000010, start := 0x40000000, made := true, q := ((newSequencer.q.set 1 64).set 2 8), charges := [(0, none)] }
def blockQ : Block := { blockWith warp0 with seq := seqQ }
def stateQ : State := { stateWith blockQ [] with issue := none, seqNow := some 1 }
theorem sequencingQ : Sequencing stateQ blockQ := ⟨rfl, rfl⟩
def entryQ (id : Nat) (stage : MxStage) : MxEntry := ⟨id, 1, 5, 0, 0x40000000, 0x28000000, [], 900, 0, 0, stage⟩

theorem witness_MatrixPosts : Sequencing stateQ blockQ ∧ ((stateQ.engine blockQ.cluster).ofBlock blockQ.bid).length < 4 ∧
    (stateQ.engine blockQ.cluster).entries.length < 16 ∧ stateQ.firstWaiting (stateQ.engine blockQ.cluster) = none ∧
    (∀ p ∈ postWords, (blockQ.descriptor p.2 (blockQ.seq.q[(1 : QReg).toNat]).toNat).isSome = true ∧
      blockQ.descriptor p.2 (blockQ.seq.q[(2 : QReg).toNat]).toNat = none) ∧
    (let s : State := { stateQ with engines := [⟨0, none, (List.range 4).map fun k => entryQ (50 + k) .posted, []⟩] }
     Sequencing s blockQ ∧ ((s.engine blockQ.cluster).ofBlock blockQ.bid).length ≥ 4) := by
  refine ⟨sequencingQ, by decide +kernel, by decide +kernel, by decide +kernel, ?_, ⟨rfl, rfl⟩, by decide +kernel⟩
  intro p hp
  simp only [postWords, List.mem_cons, List.not_mem_nil, or_false] at hp
  rcases hp with rfl | rfl | rfl | rfl <;> decide +kernel

theorem witness_SequencerWords : stateQ.entriesOf blockQ = [] ∧ blockQ.seq.wait = none ∧
    (∃ t, (seqTaken stateQ).arrive (.block blockQ.launch blockQ.blk (1 : BarNo).toNat) 1 = some t) ∧
    (∃ b : Block, ∃ s : State, Sequencing s b ∧ b.seq.wait = some (1, 0)) ∧
    (let s : State := { stateQ with engines := [⟨0, none, [entryQ 50 .posted], []⟩] }
     Sequencing s blockQ ∧ s.entriesOf blockQ ≠ []) :=
  ⟨by decide +kernel, rfl, ⟨_, some_getD stateQ (by decide +kernel)⟩,
    ⟨{ blockQ with seq := { seqQ with wait := some (1, 0) } },
      { stateQ with blocks := [{ blockQ with seq := { seqQ with wait := some (1, 0) } }] }, ⟨rfl, rfl⟩, rfl⟩,
    ⟨⟨rfl, rfl⟩, by decide +kernel⟩⟩

theorem witness_SequencerStops : Sequencing stateQ blockQ ∧ Untriggered stateQ blockQ.pn blockQ.ctx ∧ blockQ.kind = .task ∧
    (stateQ.setCsr (.part 0) 0x03D4 1).handlerOn blockQ.pn = true :=
  ⟨sequencingQ, by unfold Untriggered; decide +kernel, rfl, by decide +kernel⟩

/-! ### Accesses in flight -/

/-- An access of lane 3 of the block's warp. -/
def accOf (k : AccKind) (loc mt size : Nat) (cells : List Host.Cell) : Access :=
  { id := 200, op := 199, bid := 1, w := 0, lane := 3, kind := k, loc := loc, mt := mt, cls := 0, size := size
    va := 0x40100000, cells := cells, dst := some (12, 1), done := none, early := false, readers := [] }
/-- The one access of its operation, in a machine that issues nothing. -/
def stateOf (a : Access) : State :=
  { stateWith (blockWith { warp0 with ldc := 1, stc := 1 }) [] with
    issue := none, accs := [a], ops := [{ id := 199, bid := 1, w := 0, isLoad := a.isLoad, counted := true, tmax := 0 }]
    mem := memWriteAll pages (cellsAt 0x100000 4 77), leases := [(0x4000, 1500)] }
def blockF : Block := blockWith { warp0 with ldc := 1, stc := 1 }
def loadH : Access := accOf (.load .l2 false false) 0x100000 0 4 []
def loadO (mt loc : Nat) : Access := accOf (.load .sys false false) loc mt 4 []
def loadW : Access := accOf (.winLoad 1) 64 4 4 []
def storeH : Access := accOf (.store .l2) 0x100000 0 4 (cellsAt 0x100000 4 5)
def storeW : Access := accOf (.winStore 1 true) 64 4 4 (cellsAt 64 4 5)
def atomH : Access := accOf (.atomic .add true 5 0) 0x100000 0 4 []
/-- A peer store, to module 1. -/
def storeP : Access := accOf (.store .l2) (2 ^ 52 * 3) 3 4 (cellsAt (2 ^ 52 * 3) 4 5)

theorem performable (a : Access) (h : a = loadH ∨ a = loadO 1 (2 ^ 52) ∨ a = loadO 3 (3 * 2 ^ 52) ∨ a = loadW ∨ a = storeH ∨ a = storeW ∨
    a = atomH ∨ a = storeP) : Performable (stateOf a) 200 a blockF := by
  rcases h with rfl | rfl | rfl | rfl | rfl | rfl | rfl | rfl <;> exact ⟨rfl, rfl, by decide +kernel, by decide +kernel⟩

def loadC : Access := accOf (.load .l1 false false) 0x100000 0 4 []
def loadR : Access := accOf (.load .l2 false false) (2 ^ 52) 1 4 []
/-- With a copy of the line in the L1 of core 0, or of a host line in the RDC of die 0. -/
def stateCopied (a : Access) : State :=
  { stateOf a with copies := [⟨.l1 0, lineOf 0x100000, 0, 0, List.replicate 64 1, 2000, [], [], []⟩,
      ⟨.rdc 0, lineOf (2 ^ 52), 0, 0, List.replicate 64 1, 2000, List.replicate 64 false, [0], []⟩] }
/-- With a soft error in the loaded bytes of the window. -/
def blockBad : Block := { blockF with bad := [65] }
def stateBad : State := { stateOf loadW with blocks := [blockBad] }
/-- A soft error in memory, in the bytes that are loaded. -/
def stateEcc (a : Access) : State := { stateOf a with badMem := [0x100001] }
/-- The window that is loaded from is gone with its block. -/
def loadG : Access := accOf (.winLoad 7) 64 4 4 []

/-- With port 0 of the host up, so that its memory can be reached. -/
def stateReach (a : Access) : State :=
  ((stateOf a).setCsr .module 0x0508 1).setCsr .module 0x0500 0xA0001040

theorem witness_LoadReturns : Performable (stateOf loadW) 200 loadW blockF ∧ loadW.kind = .winLoad 1 ∧
    (stateOf loadW).windowGone 1 = false ∧ (stateOf loadW).winBad 1 64 4 = false ∧ Performable stateBad 200 loadW blockBad ∧ stateBad.winBad 1 64 4 = true ∧
    Performable (stateOf loadG) 200 loadG blockF ∧ (stateOf loadG).windowGone 7 = true ∧
    Performable (stateOf loadH) 200 loadH blockF ∧ loadH.kind = .load .l2 false false ∧ loadH.mt = 0 ∧ (stateOf loadH).badAt 0x100000 4 = false ∧
    Performable (stateEcc loadH) 200 loadH blockF ∧ (stateEcc loadH).loadBad blockF loadH .l2 = true ∧
    Performable (stateOf loadC) 200 loadC blockF ∧
    (stateOf loadC).copy? ((stateOf loadC).l1Of 0) (lineOf 0x100000) = none ∧ (stateOf loadC).loadBad blockF loadC .l1 = false ∧
    (stateOf loadC).badAt (64 * lineOf 0x100000) 64 = false ∧
    Performable (stateCopied loadC) 200 loadC blockF ∧
    (∃ c, (stateCopied loadC).copy? ((stateCopied loadC).l1Of 0) (lineOf 0x100000) = some c) ∧
    Performable (stateCopied loadR) 200 loadR blockF ∧ (∃ c, (stateCopied loadR).hostHit 0 0 .l2 (lineOf (2 ^ 52)) = some c) ∧
    (stateReach loadR).reachable (2 ^ 52) = true ∧ (stateReach loadR).badAt (2 ^ 52) 4 = false ∧
    Performable (stateReach loadR) 200 loadR blockF ∧ (stateReach loadR).outward blockF loadR = true ∧
    (stateReach loadR).hostHit 0 0 .l2 (lineOf (2 ^ 52)) = none ∧
    Performable (stateOf (loadO 1 (2 ^ 52))) 200 (loadO 1 (2 ^ 52)) blockF ∧
    (stateOf (loadO 1 (2 ^ 52))).outward blockF (loadO 1 (2 ^ 52)) = true ∧
    (stateOf (loadO 1 (2 ^ 52))).reachable (2 ^ 52) = false ∧
    (stateOf loadR).outward blockF loadR = true ∧ (stateOf loadR).hostHit 0 0 .l2 (lineOf (2 ^ 52)) = none ∧
    Performable (stateOf (loadO 3 (3 * 2 ^ 52))) 200 (loadO 3 (3 * 2 ^ 52)) blockF ∧
    (stateOf (loadO 3 (3 * 2 ^ 52))).outward blockF (loadO 3 (3 * 2 ^ 52)) = true ∧ loadH.dst = some (12, 1) ∧
    ∃ y, ((stateOf loadH).poisonDst loadH 3).warp? 1 0 = some y :=
  ⟨performable _ (by simp), rfl, by decide +kernel, by decide +kernel, ⟨rfl, rfl, by decide +kernel, by decide +kernel⟩, by decide +kernel,
    ⟨rfl, rfl, by decide +kernel, by decide +kernel⟩, by decide +kernel,
    performable _ (by simp), rfl, rfl, by decide +kernel, ⟨rfl, rfl, by decide +kernel, by decide +kernel⟩, by decide +kernel,
    ⟨rfl, rfl, by decide +kernel, by decide +kernel⟩, by decide +kernel, by decide +kernel, by decide +kernel,
    ⟨rfl, rfl, by decide +kernel, by decide +kernel⟩, ⟨_, some_getD ⟨.l1 0, 0, 0, 0, [], 0, [], [], []⟩ (by decide +kernel)⟩,
    ⟨rfl, rfl, by decide +kernel, by decide +kernel⟩, ⟨_, some_getD ⟨.l1 0, 0, 0, 0, [], 0, [], [], []⟩ (by decide +kernel)⟩,
    by decide +kernel, by decide +kernel, ⟨rfl, rfl, by decide +kernel, by decide +kernel⟩, by decide +kernel, by decide +kernel,
    performable _ (by simp), by decide +kernel, by decide +kernel, by decide +kernel, by decide +kernel,
    performable _ (by simp), by decide +kernel, rfl, ⟨_, some_getD warp0 (by decide +kernel)⟩⟩

def discH : Access := accOf (.disc .l2 128) 0x100000 0 128 []
/-- A continuation atomic on the word 77 at 2^20, through a binding that has ended and had no quota. -/
def contH (cmp : Word) : Access := accOf (.cont .casc cmp 0 1 ⟨0, 0x40000200, 0x200, 0⟩ 0) 0x100000 0 4 []

theorem witness_StoresPerformed : Performable (stateOf storeW) 200 storeW blockF ∧ storeW.kind = .winStore 1 true ∧
    storeW.isLoad = false ∧ (stateOf storeW).outward blockF storeW = false ∧
    Performable (stateOf storeH) 200 storeH blockF ∧ storeH.kind = .store .l2 ∧ storeH.mt = 0 ∧ storeH.isLoad = false ∧
    (stateOf storeH).outward blockF storeH = false ∧
    Performable (stateOf atomH) 200 atomH blockF ∧ atomH.kind = .atomic .add true 5 0 ∧ atomH.mt = 0 ∧ (stateOf atomH).badAt 0x100000 4 = false ∧
    (stateEcc atomH).badAt 0x100000 4 = true ∧ (stateOf storeP).reachable storeP.loc = false ∧ (stateOf (contH 5)).badAt 0x100000 4 = false ∧
    Performable (stateOf storeP) 200 storeP blockF ∧ storeP.isLoad = false ∧ (stateOf storeP).outward blockF storeP = true ∧
    storeP.mt = 3 ∧ discH.mt = 0 ∧ memWf (stateOf discH).mem = true ∧
    contTest .casc ((stateOf (contH 5)).homeWord 0x100000) 5 = false ∧
    contTest .casc ((stateOf (contH 77)).homeWord 0x100000) 77 = true ∧
    ((stateOf (contH 77)).cards.any fun c => c.pn == blockF.pn && c.loc == 0x200) = false ∧
    (stateOf (contH 77)).sliceRoom (homeSlice 0x100000) blockF.pn ⟨0, 0x40000200, 0x200, 0⟩ = false ∧
    (∀ c ∈ (stateOf storeH).blocks, (stateOf storeH).inSlot c 0x100000 4 = false) :=
  ⟨performable _ (by simp), rfl, rfl, by decide +kernel, performable _ (by simp), rfl, rfl, rfl, by decide +kernel,
    performable _ (by simp), rfl, rfl, by decide +kernel, by decide +kernel, by decide +kernel, by decide +kernel,
    performable _ (by simp), rfl, by decide +kernel, rfl, rfl, by decide +kernel,
    by decide +kernel, by decide +kernel, by decide +kernel, by decide +kernel, by decide +kernel⟩

theorem witness_StoresAcknowledged : let s := stateOf { storeH with done := some 1500 }
    s.ops.find? (fun e => e.id == 199) = some ⟨199, 1, 0, false, true, 0⟩ ∧
    (∀ a ∈ s.accs, a.op = 199 → a.done.isSome = true) ∧
    ∃ b w, s.block? 1 = some b ∧ b.life ≠ .retired ∧ b.warp? 0 = some w :=
  ⟨rfl, by decide +kernel, _, _, rfl, by decide, rfl⟩

theorem witness_LeasesEnd : ∃ c ∈ stateR.copies, c.place.num = 0 ∧ c.line = 0x4000 ∧ c.expiry ≤ ({ stateR with gt := 1992 } : State).gt + 8 :=
  ⟨_, List.mem_cons_self, rfl, rfl, by decide⟩

/-! ### Lanes that wake -/

/-- Lane 3 sleeps. -/
def sleepOf (k : SleepKind) : Sleep :=
  { kind := k, next := 0x40200004, word := 0x638A0000, hint := 0, target := some (.block 9 0), hang := 5000 }
def warpW (k : SleepKind) : Warp :=
  { warp0 with threads := warp0.threads.set 3 { threadWith regs0 with life := .asleep (sleepOf k) } }
def stateW (k : SleepKind) : State := { stateWith (blockWith (warpW k)) [] with issue := none, mem := memS }

theorem sleepingW (k : SleepKind) : Sleeping (stateW k) 1 0 3 (blockWith (warpW k)) (warpW k) (sleepOf k) :=
  ⟨rfl, rfl, rfl, rfl⟩

theorem witness_TimedWakes : (∀ k, Sleeping (stateW k) 1 0 3 (blockWith (warpW k)) (warpW k) (sleepOf k)) ∧
    (sleepOf (.time 900 12)).kind = .time 900 12 ∧ (900 : DWord).toNat ≤ (stateW (.time 900 12)).gt ∧
    (sleepOf (.deq 0x100 12 (some 1000))).kind = .deq 0x100 12 (some 1000) ∧ (1000 : DWord).toNat ≤ (stateW (.deq 0x100 12 none)).gt ∧
    (let k := SleepKind.csleep 0x1160 0 0 12
     (stateW k).tokenStatus 0x1160 0 ≠ 3 ∧ (stateW k).tokenHost 0x1160 0 = false ∧
      (wokenBy (sleepOf k) ((warpW k).thread 3)).boundPort (12 : VReg).toNat = none) ∧
    (let k := SleepKind.csleep 0x1160 5 1000 12
     (stateW k).tokenStatus 0x1160 5 = 3 ∧ (1000 : DWord).toNat ≠ 0 ∧ (1000 : DWord).toNat ≤ (stateW k).gt) :=
  ⟨sleepingW, rfl, by decide, rfl, by decide, ⟨by decide +kernel, by decide +kernel, by decide +kernel⟩,
    ⟨by decide +kernel, by decide, by decide⟩⟩

def noHdr : QueueHdr := ⟨0, 0, 0, 0, 0⟩

theorem witness_MemoryWakes : (∀ k, Sleeping (stateW k) 1 0 3 (blockWith (warpW k)) (warpW k) (sleepOf k)) ∧
    (let k := SleepKind.waitf 0x1000 0 .eq 77
     (stateW k).xleased 0 0x1000 4 = false ∧ (stateW k).reachable 0x1000 = true ∧
      (stateW k).badAt 0x1000 4 = false ∧ (stateW k).readEarly (1, 0, 3) 0x1000 4 = false ∧
      condHolds .eq ((stateW k).homeWord 0x1000) 77 = true) ∧
    (let k := SleepKind.deq 0x100 12 none
     ∃ q loc, (stateW k).queueHdr 0x100 = some q ∧ (stateW k).headElem (blockWith (warpW k)) q = some loc ∧
      (∀ j y, j < (3 : Lane) → ((warpW k).thread j).life = .asleep y → y.order ≠ (sleepOf k).order) ∧
      (stateW k).snooped 0x100 32 = false ∧ (stateW k).xleased 0 0x100 32 = false ∧ (stateW k).badAt 0x100 32 = false ∧
      (stateW k).badAt loc 16 = false) := by
  refine ⟨sleepingW, ⟨by decide +kernel, by decide +kernel, by decide +kernel, by decide +kernel, by decide +kernel⟩,
    ((stateW (.deq 0x100 12 none)).queueHdr 0x100).getD noHdr,
    ((stateW (.deq 0x100 12 none)).headElem (blockWith (warpW (.deq 0x100 12 none)))
      (((stateW (.deq 0x100 12 none)).queueHdr 0x100).getD noHdr)).getD 0,
    some_getD _ (by decide +kernel), some_getD _ (by decide +kernel), ?_, by decide +kernel, by decide +kernel, by decide +kernel,
    by decide +kernel⟩
  intro j y hj h
  have : ∀ j : Lane, j < 3 → ((warpW (.deq 0x100 12 none)).thread j).asleep.isNone = true := by decide +kernel
  have := this j hj
  unfold Thread.asleep at this
  rw [h] at this
  exact absurd this (by simp)

theorem witness_HangTraps : let s := (stateW (.mask 2)).setCsr (.part 0) 0x03D0 5
    Sleeping s 1 0 3 (blockWith (warpW (.mask 2))) (warpW (.mask 2)) (sleepOf (.mask 2)) ∧ (sleepOf (.mask 2)).target ≠ none ∧
    s.csr (.part 0) 0x03D0 ≠ 0 ∧ 1000 * (s.csr (.part 0) 0x03D0).toNat ≤ (sleepOf (.mask 2)).hang ∧
    (warpW (.mask 2)).parked = none :=
  ⟨⟨rfl, rfl, rfl, rfl⟩, by decide, by decide +kernel, by decide +kernel, rfl⟩

/-! ### Launches -/

/-- Queue 0 of die 0 has one packet. -/
def stateB : State :=
  { State.setCsr State.reset (.die 0) 0x0300 0x50000 with
    mem := memWriteAll [] (cellsAt 0x50000 8 0x60000 ++ cellsAt 0x50008 1 2 ++ cellsAt 0x5000A 1 1 ++ cellsAt 0x50018 8 1 ++
      cellsAt 0x60000 8 0x40200000) }

theorem witness_Doorbells : (stateB.setCsr .module 0x0701 1).dieHeld 0 = true ∧
    (State.reset.dieHeld 0 = false ∧ (State.reset.queueDesc 0 0).flags % 2 = 0) ∧
    (let q := stateB.queueDesc 0 0
     stateB.dieHeld 0 = false ∧ q.flags % 2 = 1 ∧ q.count ≤ 2 ^ q.l ∧ q.ok = true ∧ 0 < q.count ∧ memWf stateB.mem = true ∧
      stateB.reachable (q.loc + 16) = true) := by
  decide +kernel

/-- Launch 9 as read, its block placed nowhere. -/
def stateL (l : Launch) : State := { stateWith block0 [] with issue := none, blocks := [], launches := [l] }
def launchN : Launch := { launch9 with state := .known }

theorem witness_LaunchesReady : (∀ l ∈ [launchN, { launchN with flags := 16 }],
      (stateL l).launch? l.lid = some l ∧ (stateL l).readyNow l = true ∧ (stateL l).refusal l = none) ∧
    (let l := { launchN with cls := 0 }
     (stateL l).launch? l.lid = some l ∧ (stateL l).readyNow l = true ∧ (stateL l).refusal l = some 2) := by
  decide +kernel

theorem witness_Refusals : (∃ l : Launch, l.fault = some 1) ∧ (launchN.fault ≠ some 1 ∧ 3 < { launchN with cls := 4 }.cls) ∧
    (∀ c, State.reset.ctx? launchN.pn launchN.ctx = some c → c.valid = false) ∧
    (launchN.fault ≠ some 1 ∧ 1 ≤ launchN.cls ∧ launchN.cls ≤ 3 ∧
      ∃ c, (stateL launchN).ctx? launchN.pn launchN.ctx = some c ∧ c.valid = true) ∧
    (let s := { stateL launchN with launches := [launchN, { launchN with lid := 10 }] }
     ∃ k ∈ s.launches, k.pn = launchN.pn ∧ k.ctx = launchN.ctx ∧ k.kern = launchN.kern ∧ k.lid ≠ launchN.lid ∧ k.live = true) ∧
    (∀ k ∈ (stateL launchN).launches, k.pn = launchN.pn → k.ctx = launchN.ctx → k.kern = launchN.kern → k.lid ≠ launchN.lid →
      k.live = false) ∧
    (let l := { launchN with groups := List.replicate 5 ⟨0, 1, 1, 1⟩ }
     0 < l.nblk ∧ 4 < (l.groups.filter fun g => g.has 0).length) ∧
    (launchN.fault ≠ some 5 ∧ (launchN.groups.filter fun g => g.has 0).length ≤ 4) ∧
    (((stateL launchN).coresOf 0).length ≠ 0 ∧ ((stateL launchN).coresOf 0).length < launchN.core0 + 3000) ∧
    (launchN.core0 + launchN.ncore ≤ ((stateL launchN).coresOf 0).length) ∧
    fitsEmpty ((stateL launchN).heldFor 0 1) launchN.room = true ∧
    fitsEmpty ((stateL launchN).heldFor 0 1) { launchN with warps := 70 }.room = false := by
  refine ⟨⟨{ launchN with fault := some 1 }, rfl⟩, by decide, (fun c h => by cases h), ⟨by decide, by decide, by decide, _, rfl, rfl⟩,
    ⟨{ launchN with lid := 10 }, by simp, rfl, rfl, rfl, by decide, rfl⟩, ?_, by decide, by decide, by decide +kernel,
    by decide +kernel, by decide +kernel, by decide +kernel⟩
  intro k hk _ _ _ h
  simp only [stateL, List.mem_singleton] at hk
  exact absurd (by rw [hk]) h

theorem witness_FreshWarps : launch9.binOf 0 = none := by decide +kernel

/-- A guarded launch of class RESIDENT, with GUARD_CTL for its context. -/
def stateGuard : State :=
  State.setCsr (stateL { launch9 with guarded := true, cls := 3 }) (.part 0) 0x0101 0x80000000
/-- Block 1 resident and unmarked, though a reservation of launch 9 relied on its mark. -/
def stateBroken : State := { stateL launch9 with blocks := [block0], resvs := [⟨9, 0, 0, 3, [1]⟩] }
/-- The cluster of core 0 moves. -/
def stateMoving : State := { stateL { launch9 with ncore := 1 } with moves := [⟨0, 0, 0, 1, false⟩] }

theorem placed_of {s : State} (h : (match s.nextPlace 0 with
    | some (p, ps) => p.l.lid == 9 && s.launch? 9 == some p.l && ps == [(0, 0)]
    | none => false) = true) : ∃ p ps, s.nextPlace 0 = some (p, ps) ∧ p.l.lid = 9 ∧ ps = [(0, 0)] := by
  cases e : s.nextPlace 0 with
  | none => rw [e] at h; exact absurd h (by simp)
  | some r =>
    rw [e] at h
    simp only [Bool.and_eq_true, beq_iff_eq] at h
    exact ⟨r.1, r.2, rfl, h.1.1, h.2⟩

/-- A CLUSTERED launch of four blocks, on the four cores of a cluster. -/
def launchFour : Launch := { launch9 with nblk := 4, flags := 1 }

theorem four_of {s : State} {qs : List (Nat × Nat)} (h : (match s.nextPlace 0 with
    | some (p, ps) => p.l.lid == 9 && ps == qs
    | none => false) = true) : ∃ p ps, s.nextPlace 0 = some (p, ps) ∧ p.l.lid = 9 ∧ ps = qs := by
  cases e : s.nextPlace 0 with
  | none => rw [e] at h; exact absurd h (by simp)
  | some r =>
    rw [e] at h
    simp only [Bool.and_eq_true, beq_iff_eq] at h
    exact ⟨r.1, r.2, rfl, h.1, h.2⟩

theorem witness_Placements : stateBroken.anyBroken 0 = true ∧
    (stateGuard.anyBroken 0 = false ∧ ∃ l ks, stateGuard.guardWaits 0 = some (l, ks)) ∧
    ((stateL launch9).anyBroken 0 = false ∧ (stateL launch9).guardWaits 0 = none ∧
      (∃ p ps, (stateL launch9).nextPlace 0 = some (p, ps) ∧ p.l.lid = 9 ∧ ps = [(0, 0)]) ∧
      (stateL launch9).moveOf 0 = false ∧ (stateL launch9).blockOf 9 0 = none) ∧
    (stateMoving.anyBroken 0 = false ∧ stateMoving.guardWaits 0 = none ∧
      (∃ p ps, stateMoving.nextPlace 0 = some (p, ps) ∧ p.l.lid = 9 ∧ ps = [(0, 0)]) ∧ stateMoving.moveOf 0 = true) ∧
    ((stateL launchFour).anyBroken 0 = false ∧ (stateL launchFour).guardWaits 0 = none ∧
      (∃ p ps, (stateL launchFour).nextPlace 0 = some (p, ps) ∧ p.l.lid = 9 ∧ ps = [(0, 0), (1, 1), (2, 2), (3, 3)]) ∧
      ∀ k, k < 4 → (stateL launchFour).moveOf k = false ∧ (stateL launchFour).blockOf 9 k = none) :=
  ⟨by decide +kernel, ⟨by decide +kernel, _, _, some_getD (launch9, []) (by decide +kernel)⟩,
    ⟨by decide +kernel, Option.isNone_iff_eq_none.mp (by decide +kernel), placed_of (by decide +kernel), by decide +kernel,
      by decide +kernel⟩,
    ⟨by decide +kernel, Option.isNone_iff_eq_none.mp (by decide +kernel), placed_of (by decide +kernel), by decide +kernel⟩,
    ⟨by decide +kernel, Option.isNone_iff_eq_none.mp (by decide +kernel), four_of (by decide +kernel), by decide +kernel⟩⟩

/-- Its blocks have retired, two of its ordered atomics wait. -/
def launchR (ords : List OrdEntry) : Launch := { launch9 with retiredBlks := [0], ords := ords }
def ordsR : List OrdEntry := [{ blk := 1, w := 0, op := .fadd, loc := 0x100000, mt := 0, y := 0x3F800000, die := 0 },
  { blk := 0, w := 1, op := .fadd, loc := 0x100000, mt := 0, y := 0x40000000, die := 0 }]

theorem witness_OrderedApplied : (stateL (launchR ordsR)).launch? 9 = some (launchR ordsR) ∧ (launchR ordsR).state = .ready ∧
    (∀ k, k < (launchR ordsR).nblk → (stateL (launchR ordsR)).blkRetired (launchR ordsR) k = true) ∧ (launchR ordsR).ords ≠ [] ∧
    (let s := stateL (launchR ordsR)
     s.snooped 0x100000 4 = false ∧ s.xleases = []) ∧
    ({ stateL (launchR ordsR) with snoops := [lineOf 0x100000] } : State).snooped 0x100000 4 = true := by
  decide +kernel

theorem witness_LaunchesEnd : (stateL (launchR [])).launch? 9 = some (launchR []) ∧ (stateL (launchR [])).mayEnd (launchR []) = true ∧
    (launchR []).done = 0 ∧
    (let l := { launchR [] with done := 0x40100000 }
     let u := (((stateL l).diesOf 0).foldl (fun s d => s.sysRelease d 0 0)
       (((stateL l).modLaunch 9 fun k => { k with state := .ended, endGt := 1000 }).headPassed l))
     (stateL l).mayEnd l = true ∧ l.done ≠ 0 ∧ isOk (u.translate none 0 0 l.done.toNat .write) = true ∧
       u.reachable 0x100000 = true) ∧
    (let k := { launchN with lid := 10, kern := 4, flags := 16 }
     let s : State := { stateL (launchR []) with launches := [launchR [], k] }
     s.launch? 9 = some (launchR []) ∧ s.mayEnd (launchR []) = true ∧ k ∈ s.launches ∧ k.lid ≠ 9 ∧ k.flags.getLsbD 4 = true ∧
       k.state = .known ∧ k.die = 0 ∧ k.queue = 0) := by
  decide +kernel

/-! ### Blocks that stop, are saved and retire -/

/-- The block asked to stop for an eviction, its warp not stopped. -/
def blockE (w : Warp) : Block := { blockWith w with life := .stopped, stopFor := some .eviction, marked := true, deadline := 900 }
def warpE : Warp := { warp0 with stop := .forced, stopped := ~~~0 }
def stateE (w : Warp) : State := { stateWith (blockE w) [] with issue := none }

theorem witness_Deadlines : (stateE warp0).block? 1 = some (blockE warp0) ∧ (blockE warp0).stopFor ≠ none ∧
    (blockE warp0).deadline ≤ (stateE warp0).gt ∧ (blockE warp0).warps.all Warp.hasStopped = false :=
  ⟨rfl, by decide, by decide, by decide +kernel⟩

theorem witness_Evictions : (stateE warpE).block? 1 = some (blockE warpE) ∧ (blockE warpE).life = .stopped ∧
    (blockE warpE).stopFor = some .eviction ∧ (stateE warpE).stopDone (blockE warpE) = true ∧ (blockE warpE).kind = .task ∧
    ∀ k ∈ (stateE warpE).blocks, k.bid = (blockE warpE).bid → k = blockE warpE :=
  ⟨rfl, rfl, rfl, by decide +kernel, rfl, fun k h _ => by simpa [stateE, stateWith] using h⟩

/-- Every thread has ended. -/
def warpG : Warp := { warp0 with threads := Vector.replicate 32 { threadWith regs0 with life := .ended } }
def stateG (ws : List Warp) : State := { stateWith { blockWith warpG with warps := ws } [] with issue := none }

theorem witness_Releases : (∀ ws ∈ [[warpG], [warpG, warp0]],
      (stateG ws).block? 1 = some { blockWith warpG with warps := ws }) ∧
    (blockWith warpG).resident = true ∧ (blockWith warpG).warp? 0 = some warpG ∧
    warpG.released = false ∧ (∀ l, (warpG.thread l).life = .ended) ∧ warpG.ldc = 0 ∧ warpG.stc = 0 ∧ warpG.cpc = 0 ∧ warpG.mxc = 0 ∧
    (({ blockWith warpG with warps := [warpG] }.modWarp 0 fun w => { w with released := true, note := none }).warps.all (·.released)) = true ∧
    (({ blockWith warpG with warps := [warpG, warp0] }.modWarp 0 fun w => { w with released := true, note := none }).warps.all (·.released)) = false := by
  refine ⟨?_, rfl, rfl, rfl, by decide +kernel, rfl, rfl, rfl, rfl, by decide +kernel, by decide +kernel⟩
  intro ws hw
  simp only [List.mem_cons, List.not_mem_nil, or_false] at hw
  rcases hw with rfl | rfl <;> rfl

/-! ### Churn -/

/-- 2 ms after reset, churn enabled on die 0. -/
def stateT : State :=
  { (stateWith block0 []).setCsr (.die 0) 0x0220 (0x800003E8) with issue := none, gt := 2000000 }

theorem witness_ChurnTicks : stateT.churnDue 0 = true ∧ stateT.mayMove 0 = true ∧ stateT.locmap 0 < 2 ^ 32 ∧
    (∀ hot ∈ [23, 24], ({ stateT with tele := [((0, 7), BitVec.ofNat 32 hot), ((4, 7), 0)] } : State).hotEnough 0 =
      (hot == 24)) := by decide +kernel

theorem witness_MapSwitch : (0x20000688 : Nat) < 2 ^ 32 ∧ (1 : Nat) < 4 := by decide

def moveT (sent : Bool) : Move := ⟨0, 0, 0, 4, sent⟩
/-- The block of the moving cluster has stopped. -/
def blockV : Block :=
  { blockWith warpE with life := .stopped, stopFor := some .churn, deadline := 900 }
def stateV (sent : Bool) : State := { stateWith blockV [] with issue := none, moves := [moveT sent] }
/-- The same while it moves. -/
def blockMoving : Block := { blockV with life := .moving }
def stateMoved : State := { stateV true with blocks := [blockMoving] }

theorem witness_ChurnMoves : (∀ sent, (stateV sent).moves.find? (fun k => k.island == (moveT sent).island) = some (moveT sent)) ∧
    (moveT false).sent = false ∧ (stateV false).moveReady (moveT false) = true ∧ blockV ∈ (stateV false).movers (moveT false) ∧
    (stateV false).block? blockV.bid = some blockV ∧
    (moveT true).sent = true ∧ (stateV true).locmap 0 < 2 ^ 32 ∧ (moveT true).pos < 4 ∧
    stateMoved.moves.find? (fun k => k.island == (moveT true).island) = some (moveT true) ∧ stateMoved.switches = [] ∧
    blockMoving ∈ stateMoved.movers (moveT true) ∧ stateMoved.block? blockMoving.bid = some blockMoving ∧
    blockMoving.marked = false := by
  refine ⟨fun sent => by cases sent <;> rfl, rfl, by decide +kernel, ?_, rfl, rfl, by decide +kernel, by decide, rfl, rfl,
    ?_, rfl, rfl⟩
  · exact List.mem_flatMap.mpr ⟨0, by decide, List.mem_filter.mpr ⟨List.mem_cons_self, by decide +kernel⟩⟩
  · exact List.mem_flatMap.mpr ⟨0, by decide, List.mem_filter.mpr ⟨List.mem_cons_self, by decide +kernel⟩⟩

/-! ### Contexts, slices, switches -/

/-- The descriptor of context 1 at 0x70000. -/
def stateX : State :=
  { (stateWith block0 []).setCsr (.part 0) 0x0412 0x70000 with
    issue := none, mem := memWriteAll [] (cellsAt 0x70000 8 0x80000 ++ cellsAt 0x70008 8 0x90000 ++ cellsAt 0x70010 8 0x10000) }

theorem witness_ContextControl : let s := stateX
    let a := s.csrAddr (.part 0) (0x0410 + 2 * 1)
    let f (o : Nat) : Nat := s.load (s.devLoc a + o) 8
    s.ownsRange 0 a 32 = true ∧ (s.setCsr (.part 0) 0x0412 0xFFFFFFE0).ownsRange 0 (2 ^ 60) 32 = false ∧ f 0 % 65536 = 0 ∧ f 8 % 65536 = 0 ∧ f 24 = 0 ∧ s.ownsRange 0 (f 0) 65536 = true ∧ f 16 ≠ 0 ∧
      s.ownsRange 0 (f 8) (f 16) = true ∧ (∀ c, s.ctx? 0 1 = some c → c.valid = false) ∧ 0 ∈ s.coresOf 0 ∧ s.running 0 = some 0 := by
  refine ⟨by decide +kernel, by decide +kernel, by decide +kernel, by decide +kernel, by decide +kernel, by decide +kernel, by decide +kernel,
    by decide +kernel, (fun c h => by cases h), by decide +kernel, by decide +kernel⟩

theorem witness_Teardowns : (stateWith block0 []).ctx? 0 0 = some (ctxWith []) ∧ (ctxWith []).valid = true := ⟨rfl, rfl⟩

/-- A launch of context 1 is ready while core 0 runs context 0, whose slice ends. -/
def stateS (on : Word) : State :=
  { (stateWith block0 []).setCsr (.part 0) 0x0400 on with
    issue := none, gt := 2000000, ctxs := [ctxWith [], { ctxWith [] with ctx := 1 }]
    launches := [launch9, { launch9 with lid := 10, ctx := 1 }] }

theorem witness_Slices : (∀ on ∈ [1000, 2 ^ 31 + 1000], (stateS (BitVec.ofNat 32 on)).sliceDue 0 = true) ∧
    ((stateS 1000).csr (.part 0) 0x0400).getLsbD 31 = false ∧ ((stateS (0x800003E8)).csr (.part 0) 0x0400).getLsbD 31 = true ∧
    (let s := stateS (0x800003E8)
     s.running 0 = some 0 ∧ s.dieHeld (dieOfCore 0) = false ∧ s.switching 0 = false ∧ s.guardCtx 0 ≠ some 0 ∧
      s.nextCtx 0 0 0 = some 1) := by decide +kernel

/-- The block of core 0 has stopped for a switch. -/
def blockW : Block := { blockWith warpE with life := .stopped, stopFor := some .switch, deadline := 900 }
/-- A block of context 1 is switched out over core 0. -/
def blockOut : Block := { blockWith warp0 with bid := 2, ctx := 1, life := .switchedOut false }
def stateK2 (into : Option Nat) (cellar : List (Nat × Nat)) : State :=
  { stateWith blockW [] with
    issue := none, blocks := [blockW, blockOut], ctxs := [ctxWith [], { ctxWith [] with ctx := 1 }]
    switches := [⟨0, some 0, into⟩], cellar := cellar }

theorem witness_Switches : (∀ into ∈ [none, some 1], ∀ c ∈ [[], [(0, 1)]], let s := stateK2 into c
      s.switches.find? (fun e => e.core == 0) = some ⟨0, some 0, into⟩ ∧ s.moveOf 0 = false ∧
      (∀ b ∈ s.onCore 0, s.stopDone b = true)) ∧
    (stateK2 none [(0, 1)]).standby 0 0 ⟨0, some 0, none⟩ ((stateK2 none [(0, 1)]).onCore 0) = none ∧
    (stateK2 (some 1) []).standby 0 0 ⟨0, some 0, some 1⟩ ((stateK2 (some 1) []).onCore 0) = some (some 0) ∧
    (stateK2 (some 1) []).block? blockW.bid = some blockW ∧ (stateK2 (some 1) []).onCore 0 = [blockW] ∧
    (stateK2 (some 1) []).backOk 0 ((stateK2 (some 1) []).outOver 0 0 1) = true ∧
    blockOut ∈ (stateK2 (some 1) []).outOver 0 0 1 ∧ (stateK2 (some 1) []).block? blockOut.bid = some blockOut ∧
    (let s : State := { stateK2 (some 1) [] with blocks := [blockW, { blockOut with marked := true }] }
     s.backOk 0 (s.outOver 0 0 1) = true ∧ (s.outOver 0 0 1).map Block.marked = [true]) := by
  refine ⟨by decide +kernel, by decide +kernel, by decide +kernel, rfl, rfl, by decide +kernel, ?_, rfl, by decide +kernel⟩
  exact List.mem_filter.mpr ⟨by simp [stateK2], by decide +kernel⟩

/-! ### Cards and reorder units -/

def entryS : SliceEntry := ⟨0, 0x40001000, 1, 2, 500, 0, 0x40000200, 0x200, 0, 0, 1⟩
/-- Card 0 bound to a ring of two records at its address plus 256. -/
def ringCard : Card := { card0 with ring := true, maxblk := 2, ringl := 1, rbase := 0x100, total := 1, dealt := 0, ready := [900] }
def stateF (cards : List Card) (caps : List (Nat × CapEntry)) : State :=
  { stateK with issue := none, slices := [entryS], cards := cards, ctxs := [ctxWith caps] }
def capF : List (Nat × CapEntry) := [(1, capOf capCard 0x40000200 0)]

theorem witness_SlicesForward : (∀ p ∈ [([], capF), ([{ card0 with gen := 3 }], capF), ([ringCard], []), ([card0], capF),
      ([{ ringCard with rbase := 2 ^ 47 }], capF), ([ringCard], capF)],
      (stateF p.1 p.2).forwardable entryS.slice = [entryS]) ∧
    (∀ p ∈ [([{ card0 with gen := 3 }], capF), ([ringCard], []), ([card0], capF), ([{ ringCard with rbase := 2 ^ 47 }], capF), ([ringCard], capF)],
      ((stateF p.1 p.2).cards.find? fun k => k.pn == entryS.pn && k.loc == entryS.loc) = p.1[0]?) ∧
    ({ card0 with gen := 3 } : Card).gen ≠ entryS.card ∧ ringCard.gen = entryS.card ∧ (stateF [ringCard] []).launchRight entryS = false ∧
    (stateF [card0] capF).launchRight entryS = true ∧ card0.ring = false ∧ ringCard.total - ringCard.released < 2 ^ ringCard.ringl ∧
    (∀ k ∈ [ringCard, { ringCard with rbase := 2 ^ 47 }], (stateF [k] capF).launchRight entryS = true) ∧
    (let k : Card := { ringCard with rbase := 2 ^ 47 }
     isOk ((stateF [k] capF).translate none k.pn k.ctx (k.va + k.rbase + BitVec.ofNat 64 (16 * (k.total % 2 ^ k.ringl))).toNat .write) = false) ∧
    (let k := ringCard
     isOk ((stateF [k] capF).translate none k.pn k.ctx (k.va + k.rbase + BitVec.ofNat 64 (16 * (k.total % 2 ^ k.ringl))).toNat .write) = true) := by
  decide +kernel

theorem witness_RingTasks : let s := stateF [ringCard] capF
    s.card? ringCard.gen = some ringCard ∧ ringCard.launch = some 11 ∧
      (∃ l, s.launch? 11 = some l) ∧ ringCard.ring = true ∧
      ringCard.live.length < ringCard.maxblk ∧ (ringCard.live.filter fun e => !e.2).length < ringCard.readyCount s.gt ∧
      s.ctxOut ringCard.pn ringCard.ctx = false ∧ (∀ d ∈ s.diesOf ringCard.pn, s.dieHeld d = false) :=
  ⟨rfl, rfl, ⟨_, rfl⟩, rfl, by decide, by decide, by decide +kernel, by decide +kernel⟩

/-- A bin of two deposits, of a card bound or not. -/
def binOf (k : Card) (first : Nat) (deps : List (DWord × Nat)) : Bin := ⟨40, 0, k, 9, 5, first, deps⟩
def stateBin (k : Card) (cards : List Card) (gt first : Nat) (deps : List (DWord × Nat)) : State :=
  { stateF cards capF with gt := gt, bins := [binOf k first deps] }

theorem witness_BinsDepart : (∀ n ∈ [(10999, 32), (11000, 2)],
      let b := binOf ringCard 1000 (List.replicate n.2 (7, 2000))
      let s := stateBin ringCard [ringCard] n.1 1000 (List.replicate n.2 (7, 2000))
      s.bins.find? (fun e => e.id == b.id && e.cluster == b.cluster) = some b ∧
        (b.deps.length = 32 ∨ s.launchRetired b.launch = true ∨ b.first + 10000 ≤ s.gt) ∧ s.ctxRuns b.card.pn b.card.ctx = true ∧
        s.outOf ((List.range 4).map (4 * b.cluster + ·)) b.card.pn b.card.ctx = false ∧ s.moveOf (4 * b.cluster) = false ∧
        s.dieHeld (b.cluster / 32) = false ∧ s.card? b.card.gen = some ringCard) ∧
    (let b := binOf { card0 with gen := 3 } 1000 [(7, 2000)]
     let s := stateBin { card0 with gen := 3 } [ringCard] 11000 1000 [(7, 2000)]
     s.bins.find? (fun e => e.id == b.id && e.cluster == b.cluster) = some b ∧ b.first + 10000 ≤ s.gt ∧
      s.ctxRuns b.card.pn b.card.ctx = true ∧
      s.outOf ((List.range 4).map (4 * b.cluster + ·)) b.card.pn b.card.ctx = false ∧ s.moveOf (4 * b.cluster) = false ∧
      s.dieHeld (b.cluster / 32) = false ∧ s.card? b.card.gen = none) ∧
    (let k : Card := { card0 with total := 0, dealt := 0, launch := none }
     let s := stateBin k [k] 11000 1000 [(7, 2000)]
     s.card? k.gen = some k ∧ k.ring = false ∧ s.batchOn k = false) ∧
    ringCard.ring = true ∧ ringCard.launch = some 11 := by decide +kernel

/-! ### Copies -/

/-- A copy command of the block: 40 bytes from VA 0x40100000 to a VA. -/
def rawC (f : Nat) : List Byte :=
  natToBytes 8 (1 + 65536 * f) ++ natToBytes 8 0x40100000 ++ natToBytes 8 (if f = 0 then 0x40000800 else 0x400) ++ natToBytes 8 7 ++ natToBytes 8 40
def cmdC (raw : List Byte) (stage : CopyStage) (done : List Nat) (bytes paid cgt : Nat) : Copy :=
  { id := 60, bid := 1, w := 0, pn := 0, ctx := 0, ring := 0x40000140, hdr := 0x140, token := 5, recAt := 0x1100, kind := 1
    raw := raw, idx := [], src := none, dsts := [(1, 0x400)], stage := stage, done := done, part := [], bytes := bytes, paid := paid
    cgt := cgt, dh := false }
def stateCp (c : Copy) : State := { stateWith (blockWith { warp0 with cpc := 1 }) [] with issue := none, cmds := [c] }

theorem commandedC (c : Copy) (h : c.id = 60 ∧ c.bid = 1) :
    Commanded (stateCp c) 60 c (blockWith { warp0 with cpc := 1 }) := by
  refine ⟨?_, ?_, ?_⟩
  · simp [State.cmd?, stateCp, h.1]
  · simp only [State.block?, stateCp, stateWith, h.2]; rfl
  · show (stateWith (blockWith warp0) []).enginesRun (blockWith { warp0 with cpc := 1 }) = true
    decide +kernel

theorem witness_CopiesBegin : let c := cmdC (rawC 2) .queued [] 0 0 0
    Commanded (stateCp c) 60 c (blockWith { warp0 with cpc := 1 }) ∧ c.stage = .queued ∧
      (blockWith { warp0 with cpc := 1 }).frozen = false ∧
      (∀ e ∈ (stateCp c).cmds.takeWhile (fun e => e.id != 60), e.stage = .queued → ∀ k, (stateCp c).block? e.bid = some k →
        k.core = (blockWith { warp0 with cpc := 1 }).core → (stateCp c).enginesRun k = false ∨ k.frozen = true) :=
  ⟨commandedC _ ⟨rfl, rfl⟩, rfl, rfl, fun e h => by cases h⟩

/-- An image of one channel whose row 0 is not buffered. -/
def cmdRow : Copy :=
  let raw := natToBytes 8 (3 + 65536 * 2) ++ natToBytes 8 0x40100000 ++ natToBytes 8 0x400 ++ natToBytes 8 7 ++ natToBytes 8 64 ++
    natToBytes 4 8 ++ natToBytes 4 8 ++ natToBytes 2 1 ++ natToBytes 2 4 ++ natToBytes 2 2 ++ natToBytes 2 2 ++ natToBytes 8 0
  { cmdC raw .begun [] 0 4096 0 with kind := 3 }

/-- A whole row of an image is buffered. -/
def stateRow (y : Nat) : State :=
  { stateCp (cmdC [] .begun [] 0 4096 0) with lineBufs := [⟨0, 0, 0, 0x40100000, 64, y, List.replicate (rowBytes cmdRow.raw) (some 1)⟩] }

theorem witness_CopyUnits :
    (∀ f paid, Commanded (stateCp (cmdC (rawC f) .begun [0] 16 paid 0)) 60 (cmdC (rawC f) .begun [0] 16 paid 0)
      (blockWith { warp0 with cpc := 1 })) ∧
    (∀ f ∈ [0, 2], let c := cmdC (rawC f) .begun [0] 16 4096 0
      2 < unitCount c.kind c.raw ∧ 2 ∉ c.done ∧ c.bytes < c.paid) ∧
    (let c := cmdC (rawC 0) .begun [0] 16 16 0
     2 < unitCount c.kind c.raw ∧ c.paid ≤ c.bytes) ∧
    (let c := cmdC (rawC 0) .begun [0] 16 4096 0
     let u := unitOf c.kind c.raw c.idx 2
     (copyHead c.raw).dstl = false ∧ ∃ (v : Byte) (s : State) (p : Xlat),
       (stateCp c).srcByte 0 c u 1 = .ok (some (v, s)) ∧ (stateCp c).dstByte 0 c u 1 = .ok p ∧ s.byteHeld 0 p true = false ∧
        s.reachable p.loc = true ∧ memWf s.mem = true) ∧
    (let c := cmdC (rawC 2) .begun [0] 16 4096 0
     (copyHead c.raw).dstl = true ∧ (∀ d ∈ c.dsts, (stateCp c).windowHere d.1 = true)) ∧
    (∃ y off, (unitOf cmdRow.kind cmdRow.raw cmdRow.idx 5).src = .row y off ∧ (stateCp cmdRow).bufferedRow 0 cmdRow y = none ∧
      ∃ e, (stateRow y).bufferedRow 0 cmdRow y = some e ∧ e.whole = true) ∧
    (let c := cmdC (rawC 0) .begun [0] 16 4096 0
     let u := unitOf c.kind c.raw c.idx 2
     u.src ≠ .skip ∧ (∀ y off, u.src ≠ .row y off) ∧ (∃ va, u.src = .glob va) ∧
       1 ∈ c.missing 2 u ∧ ((⟨stateCp c, [], 0, false⟩ : Moved).byte 0 c u 1).js ≠ []) := by
  refine ⟨fun f paid => commandedC _ ⟨rfl, rfl⟩, by decide +kernel, by decide +kernel, ⟨by decide +kernel, ?_⟩, by decide +kernel,
    ?_⟩
  · let c := cmdC (rawC 0) .begun [0] 16 4096 0
    let u := unitOf c.kind c.raw c.idx 2
    let r := gotD ((stateCp c).srcByte 0 c u 1) none
    refine ⟨(r.getD (0, stateCp c)).1, (r.getD (0, stateCp c)).2, gotD ((stateCp c).dstByte 0 c u 1) ⟨0, 0, 0⟩, ?_,
      ok_gotD _ (by decide +kernel), by decide +kernel, by decide +kernel, by decide +kernel⟩
    have e : (stateCp c).srcByte 0 c u 1 = .ok r := ok_gotD none (by decide +kernel)
    rw [e, ← some_getD (0, stateCp c) (show r.isSome = true by decide +kernel)]
  · exact ⟨⟨_, _, rfl, Option.isNone_iff_eq_none.mp (by decide +kernel), _, some_getD ⟨0, 0, 0, 0, 0, 0, []⟩ (by decide +kernel),
      by decide +kernel⟩, by decide +kernel, (fun y off h => by cases h), ⟨_, rfl⟩, by decide +kernel, by decide +kernel⟩

/-- A tiled copy's element that lies outside the array, and one inside it. -/
theorem witness_CopyUnitsSkip :
    let raw := natToBytes 8 (2 + 65536) ++ natToBytes 8 0x400 ++ natToBytes 8 0x40100000 ++ natToBytes 8 7 ++ natToBytes 8 64 ++ natToBytes 8 64 ++
        natToBytes 4 4 ++ natToBytes 4 4 ++ natToBytes 4 1 ++ natToBytes 4 (2 ^ 32 - 1) ++ natToBytes 8 0 ++ natToBytes 6 0x000100010002
    let c := { cmdC raw .begun [] 0 4096 0 with kind := 2, src := some (1, 0x400), dsts := [] }
    0 < unitCount c.kind c.raw ∧ (unitOf c.kind c.raw c.idx 0).src = .skip ∧ (unitOf c.kind c.raw c.idx 1).src = .win 1 := by
  decide +kernel

theorem witness_CopiesComplete : (∀ c, c.id = 60 → (stateCp c).cmd? 60 = some c) ∧
    (cmdC (rawC 2) .recorded [0, 1, 2] 40 4096 1000).cgt ≤ (stateCp (cmdC (rawC 2) .recorded [0, 1, 2] 40 4096 1000)).gt ∧
    (∀ cgt ∈ [1000, 1001], let c := cmdC (rawC 2) .begun [0, 1, 2] 40 4096 cgt
      c.done.length = unitCount c.kind c.raw) ∧
    (∀ c, c.bid = 1 → (stateCp c).block? c.bid = some (blockWith { warp0 with cpc := 1 })) ∧
    (stateCp (cmdC (rawC 2) .begun [0, 1, 2] 40 4096 0)).enginesRun (blockWith { warp0 with cpc := 1 }) = true ∧
    (∀ c, (stateCp c).warp? 1 0 = some { warp0 with cpc := 1 }) ∧ (∀ c, memWf (stateCp c).mem = true) ∧
    (stateCp (cmdC (rawC 2) .recorded [0, 1, 2] 40 4096 1001)).gt < 1001 ∧
    (stateCp (cmdC (rawC 2) .begun [0, 1, 2] 40 4096 0)).reachable 0x1100 = true := by
  refine ⟨fun c h => by simp [State.cmd?, stateCp, h], by decide, by decide +kernel, ?_, by decide +kernel, fun c => rfl, ?_, by decide, by decide +kernel⟩
  · intro c h; simp only [State.block?, stateCp, stateWith, h]; rfl
  · intro c; show memWf pages = true; decide +kernel

theorem witness_CopiesFault : let c := cmdC (rawC 2) .begun [0] 16 4096 0
    Commanded (stateCp c) 60 c (blockWith { warp0 with cpc := 1 }) ∧ c.stage = .begun ∧
      c.done.length ≠ unitCount c.kind c.raw := ⟨commandedC _ ⟨rfl, rfl⟩, rfl, by decide⟩

/-! ### Matrix engines -/

/-- The engine of cluster 0 has one entry of block 1. -/
def entryE (op : Nat) (raw : List Byte) (stage : MxStage) : MxEntry := ⟨50, 1, op, 2, 0x40000000, 0x28000000, raw, 900, 0, 0, stage⟩
def stateEn (m : MxEntry) : State := { stateQ with engines := [⟨0, none, [m], []⟩] }
/-- MXCLR, and an MXLDS of a BF16 plane at offset 0. -/
def clrE : MxEntry := entryE 5 [] .posted
def ldsE : MxEntry := entryE 0 (natToBytes 8 0 ++ natToBytes 4 256 ++ natToBytes 4 0) .posted

theorem witness_MatrixGrants : (∀ m ∈ [clrE, ldsE], (∀ k ∈ ((stateEn m).engine 0).entries, k.stage ≠ .chosen) ∧
      (stateEn m).chooseEntry ((stateEn m).engine 0) = some m ∧ ((stateEn m).engine 0).mayBegin m = true) ∧
    (∀ m, (stateEn m).block? 1 = some blockQ) ∧ blockQ.cluster = 0 ∧
    mxCost blockQ clrE = 0 ∧ mxCost blockQ ldsE ≠ 0 ∧
    (let r := { entryE 2 [] (.run false []) with id := 51 }
     let s := { stateQ with engines := [⟨0, none, [r, clrE], []⟩] }
     (∀ k ∈ (s.engine 0).entries, k.stage ≠ .chosen) ∧ (s.chooseEntry (s.engine 0) = some clrE ∨ s.chooseEntry (s.engine 0) = none) ∧
      (s.engine 0).mayBegin clrE = false) :=
  ⟨by decide +kernel, fun _ => rfl, rfl, rfl, by decide +kernel, by decide +kernel⟩

/-- A pass of one row over a window of BF16 elements. -/
def passE (again : Bool) : MxEntry :=
  entryE 2 (natToBytes 8 0 ++ natToBytes 4 256 ++ natToBytes 2 1 ++ natToBytes 2 0 ++ natToBytes 16 0) (.run again blockQ.win)

theorem witness_MatrixRuns : (∀ again, let m := passE again
    (((stateEn m).engine 0).entries.find? fun k => (match k.stage with | .run _ _ => true | _ => false)) = some m ∧
      m.stage = .run again blockQ.win ∧ (stateEn m).block? m.bid = some blockQ) ∧
    (let m := entryE 2 [] (.run false [])
     passCheck m.op ((stateEn m).mixWin [] blockQ.win).1 blockQ.lm m.raw = 3) ∧
    (let w := ((stateEn (passE false)).mixWin blockQ.win blockQ.win).1
     passCheck 2 w blockQ.lm (passE false).raw = 0 ∧ residuesMatch 2 w blockQ.lm (passE false).raw blockQ.eng = true ∧
      readsBad 2 (passE false).raw blockQ.eng = false) ∧
    readsBad 2 (passE false).raw { blockQ.eng with active := { blockQ.eng.active with bad := true } } = true ∧
    memWf blockQ.win = true :=
  ⟨fun again => by cases again <;> exact ⟨rfl, rfl, rfl⟩, by decide +kernel, by decide +kernel, by decide +kernel, by decide +kernel⟩

theorem witness_MatrixOperations : (∀ op raw win, let m := entryE op raw (.working win)
    (((stateEn m).engine 0).entries.find? fun k => (match k.stage with | .working _ => true | _ => false)) = some m ∧
      m.stage = .working win ∧ (stateEn m).block? m.bid = some blockQ) ∧
    mxFieldsOk 0 (natToBytes 12 0 ++ natToBytes 4 9) = false ∧
    (mxFieldsOk 0 ldsE.raw = true ∧ (loadPlane [] blockQ.lm ldsE.raw).isSome = true) ∧
    (let raw := natToBytes 4 0x7FFF0 ++ natToBytes 4 0 ++ natToBytes 4 256 ++ natToBytes 4 0
     mxFieldsOk 0 raw = true ∧ (loadPlane [] blockQ.lm raw).isNone = true) ∧
    (let raw := natToBytes 8 0 ++ natToBytes 4 512 ++ natToBytes 2 1 ++ natToBytes 2 0 ++ natToBytes 16 0
     isOk (drainCells blockQ.win blockQ.lm raw blockQ.eng) = true ∧ readsBad 4 raw blockQ.eng = false ∧
      readsBad 4 raw { blockQ.eng with badAcc := [0] } = true) ∧
    isOk (drainCells blockQ.win blockQ.lm [] blockQ.eng) = false ∧ ∀ g, stateQ.fullWaiters blockQ.bid g = [] := by
  refine ⟨fun _ _ _ => ⟨rfl, rfl, rfl⟩, by decide +kernel, by decide +kernel, by decide +kernel, by decide +kernel, by decide +kernel,
    fun g => ?_⟩
  have h : ∀ b ∈ stateQ.blocks, ∀ w ∈ b.warps, w.sleepers = [] := by decide +kernel
  refine List.eq_nil_iff_forall_not_mem.mpr fun f hf => ?_
  simp only [State.fullWaiters, List.mem_flatMap] at hf
  obtain ⟨b, hb, x, hx, hf⟩ := hf
  obtain ⟨i, hi, rfl⟩ := List.mem_mapIdx.mp hx
  simp [h b hb _ (List.getElem_mem hi)] at hf

/-! ### Energy, rails, temperature -/

theorem witness_Refills : let s := { stateWith block0 [] with energy := [(3, -5)] }
    s.refillsDue 0 = 100 ∧ (3 : Nat) / 32 = 0 ∧ s.energy.filter (fun e => e.1 == 3) = [(3, -5)] ∧
      s.energy.filter (fun e => e.1 == 4) = [] := by decide +kernel

/-- Cluster 0's oldest request. -/
def reqE (u : EnergyFor) : EnergyReq := ⟨0, u, 48, 900, [(1, 0)]⟩
def stateReq (u : EnergyFor) : State :=
  { stateEn (entryE 0 [] .chosen) with
    ereqs := [reqE u], energy := [(0, 48)]
    cmds := [cmdC (rawC 2) .begun [0] 16 16 0] }

theorem witness_Grants : ∀ u ∈ [EnergyFor.copy 60, .vector 0 0, .matrix 50],
    (stateReq u).ereqs.find? (fun e => e.cluster == 0) = some (reqE u) ∧ (stateReq u).wantsEnergy (reqE u) = true ∧
      ((reqE u).cost : Int) ≤ (stateReq u).balance 0 := by decide +kernel

theorem witness_GrantsGivenUp : let s := { stateReq (.matrix 50) with blocks := [{ blockQ with life := .stopped, stopFor := some .churn }] }
    s.ereqs.find? (fun e => e.cluster == 0) = some (reqE (.matrix 50)) ∧ s.wantsEnergy (reqE (.matrix 50)) = false := by
  decide +kernel

theorem witness_Droops : let s := { stateWith block0 [] with droops := [7], hops := [(0, true)] }
    7 ∈ s.droops ∧ numLookup s.hops 0 = some true ∧ s.pcluOf 0 ∉ s.droops := by decide +kernel

/-! ### Handlers, notifications, trace -/

/-- A record of context 0 waits for quad 2 of core 0; handlers run at 0x40300000. -/
def recordN : TrapRecord := ⟨3, 1, 0, 5, 0x2001, 0x40200000, 0, 9, 32, 900, 0x338B17FF, 0, 0, 3⟩
def stateHd : State :=
  { (stateWith block0 []).setCsr (.part 0) 0x03D4 0x40300001 with issue := none, records := [(0, 2, recordN)] }

theorem witness_Invocations : stateHd.nextRecord 0 2 = some recordN ∧ stateHd.invocationReady 0 2 = true :=
  ⟨rfl, by decide +kernel⟩

def warpNt : Warp := { warp0 with note := some 4, atSafe := true }
def stateNt (w : Warp) : State :=
  { ((stateWith (blockWith w) []).setCsr (.part 0) 0x03D4 0x40300001).setCsr (.core 0) 0x03D8 3 with issue := none }

theorem witness_Notifications : (0x1000 : Word).getLsbD 12 = true ∧ (stateNt warpNt).namedWarp (partOf (stateNt warpNt) 0) 0x2000 = none ∧
    (let h := handleOf (blockWith warpNt) warpNt
     h.getLsbD 12 = false ∧ (stateNt warpNt).namedWarp (partOf (stateNt warpNt) 0) h = some (blockWith warpNt, 0)) ∧
    (blockWith warpNt).warp? 0 = some warpNt ∧ (∃ l, (warpNt.thread l).life ≠ .ended) ∧
    (stateNt warpNt).block? 1 = some (blockWith warpNt) ∧ warpNt.noteReady = true ∧ (blockWith warpNt).life = .running ∧
    (stateNt warpNt).handlerOn 0 = true ∧ (blockWith warpNt).isSteward = false := by
  refine ⟨by decide, by decide +kernel, ⟨by decide +kernel, ?_⟩, rfl, ⟨0, by decide +kernel⟩, rfl, by decide +kernel, rfl,
    by decide +kernel, rfl⟩
  rfl

/-- Context 0 runs on core 0; a trace period of 100 µs has passed. -/
def countT : TraceCount := ⟨0, 0, 0, 5, 6, List.replicate 8 0, false⟩
def stateTr (v : Word) : State :=
  { (stateWith block0 []).setCsr (.ctx 0 0) 0x0652 v with issue := none, gt := 100000, traces := [countT] }

theorem witness_TracePeriods : (∀ v ∈ [0x00080064, 0x80080064], (stateTr (BitVec.ofNat 32 v)).traces = [countT] ∧
      (stateTr (BitVec.ofNat 32 v)).traceOver countT = true ∧ (stateTr (BitVec.ofNat 32 v)).running 0 = some 0) ∧
    ((stateTr 0x00080064).csr (.ctx 0 0) 0x0652).getLsbD 31 = false ∧
    ((stateTr 0x80080064).csr (.ctx 0 0) 0x0652).getLsbD 31 = true ∧
    (let s := ((stateTr 0x80080064).setCsr (.ctx 0 0) 0x0650 0x40100000)
     let u := (s.sysRelease 0 0 0).drawBits.2
     u.translate (some 0) 0 0 (u.csrAddr (.ctx 0 0) 0x0650 + 64 * ((s.csr (.ctx 0 0) 0x0653).toNat % 2 ^ 8)) .write = .ok ⟨0x100000, 0, 0⟩ ∧
       u.reachable 0x100000 = true ∧ memWf s.mem = true ∧ ((s.csr (.ctx 0 0) 0x0653).toNat + 1) % 2 ^ 8 ≠ 0) := by
  refine ⟨by decide +kernel, by decide +kernel, by decide +kernel, val_of (by decide +kernel), by decide +kernel, by decide +kernel,
    by decide +kernel⟩

theorem witness_Triggers : (stateWith block0 []).ctx? 0 0 = some (ctxWith []) := rfl

/-! ### Partitions -/

/-- Dies 0 and 1 held and quiet, or not. -/
def stateP (held quiet : Word) : State :=
  State.setCsr (State.setCsr { stateWith block0 [] with issue := none, blocks := [] } .module 0x0701 held) .module 0x0702 quiet

theorem witness_PartitionRegisters : (0xFF : Word).toNat % 256 ∉ [0xE4, 0xE0, 0xA4, 0xA0, 0x00] ∧
    (∃ d, d < 4 ∧ pnUnder (stateP 0 0xF0).partMap d ≠ pnUnder ((0xE0 : Word).toNat % 256) d ∧ (stateP 0 0xF0).settled d = false) ∧
    (let s := stateP 3 0xF3
     s.booted = true ∧ s.slices = [] ∧ (0xE0 : Word).toNat % 256 ∈ [0xE4, 0xE0, 0xA4, 0xA0, 0x00] ∧
      (∀ d, d < 4 → pnUnder s.partMap d ≠ pnUnder ((0xE0 : Word).toNat % 256) d → s.settled d = true) ∧
      s.settled 1 = true ∧ (0x12 : Word).toNat % 16 = s.dieSet 1 ∧ s.csr .module 0x0705 ≠ (0x12 : Word) &&& 0x7F#32 ∧
      (0x11 : Word).toNat % 16 ≠ s.dieSet 1) ∧ (stateP 0 0xF0).settled 2 = false ∧
    (∀ v : Word, v.getLsbD 0 = false → (stateP 3 0xF3).settled 0 = true ∧ (stateP 3 0xF3).settled 1 = true ∧
      (v.getLsbD 0 = true → (stateP 3 0xF3).pnOfDie 0 = (stateP 3 0xF3).pnOfDie 1)) := by
  refine ⟨by decide, ⟨1, by decide +kernel⟩, by decide +kernel, by decide +kernel, fun v h => ⟨by decide +kernel, by decide +kernel, ?_⟩⟩
  intro k
  rw [h] at k
  cases k

/-- Region 1 is left to be scrubbed; its slabs lie on die 1. -/
def stateScrub : State := { stateP 0x22 0xF0 with marks := [1] }

theorem witness_QuietAndScrub : (stateP 3 0xF0).quietReady 1 = true ∧
    (1 ∈ stateScrub.marks ∧ stateScrub.setOf 1 = [1] ∧ stateScrub.dieScrub 1 = true ∧ stateScrub.bells = [] ∧
      (∀ b ∈ stateScrub.blocks, b.sleepGroups = []) ∧ memWf stateScrub.mem = true) ∧
    (∀ m ∈ stateScrub.marks, m ≠ 1 → 1 ∉ stateScrub.setOf m) ∧ 1 ∉ stateScrub.reheld ∧
    1 ∈ ({ stateScrub with reheld := [1] } : State).reheld ∧
    (let s := (({ stateScrub with marks := [0, 1] } : State).setCsr .module 0x0700 0xE0).setCsr .module 0x0704 3
     0 ∈ s.marks ∧ 1 ∈ s.setOf 0 ∧ s.dieScrub 1 = true) := by decide +kernel

/-- A region is read back as zeros at the device addresses it holds. -/
theorem witness_ScrubbedRegion : (regionBytes + 5) / regionBytes = 1 := by decide

/-! ### Identity -/

theorem witness_Firmware : (∀ f ∈ State.reset.firmware, f.die ≠ 0 % 4) ∧ 0 % 4 ∉ State.reset.refused ∧
    memWf State.reset.mem = true := by decide

/-- The report buffer of partition 0 at 0x90000; with die 0 running its firmware, a request of it. -/
def stateAt (step : Nat) (reqs : List AttReq) : State :=
  { State.setCsr (stateP 0 0xF0) (.part 0) 0x0830 0x90000 with
    attStep := step, attReqs := reqs, firmware := [{ die := 0, digest := [] }] }

theorem witness_Attestation : (2 : Word) ≠ 1 ∧ (stateAt 4096 []).attRefusal 0 = some 2 ∧
    (stateAt 0 [⟨0, 0, none⟩]).attRefusal 0 = some 3 ∧ (stateAt 4095 []).attRefusal 0 = none ∧
    (stateAt 4095 [⟨0, 0x90000, none⟩]).attReady 0 = some ⟨0, 0x90000, none⟩ ∧
    (stateAt 4095 []).attStep < 4096 ∧ (stateAt 4095 []).attLow < 2 ^ 28 ∧ (stateAt 4095 []).leases = [] ∧
    (let s := { stateAt 4095 [⟨0, 0x90000, none⟩] with leases := [(lineOf ((stateAt 4095 []).devLoc 0x90000), 2000)] }
     0x90000 / 64 ≤ 0x90000 / 64 ∧ 0x90000 / 64 < (0x90000 + reportBytes + 63) / 64 ∧
       s.gt < s.leaseOf (lineOf (s.devLoc (64 * (0x90000 / 64)))) ∧ s.attReady 0 = some ⟨0, 0x90000, none⟩) ∧
    (∀ x ∈ [900, 1100], (stateAt 4095 [⟨0, 0x90000, some x⟩]).attReady 0 = some ⟨0, 0x90000, some x⟩) ∧
    (stateAt 4095 []).gt = 1000 := by decide +kernel

/-! ### Host ports, peer links, accesses from outside, the clock -/

/-- Port 0 is up and has trained as CXL (1); the clock is on, priority1 128; device addresses from 0 to 2^29 are given to the host. -/
def stateO2 : State :=
  ((State.setCsr { stateWith block0 [] with issue := none, blocks := [] } .module 0x0509 0x80000001).setCsr .module 0x0530
    0xC0800000).setCsr .module 0x0500 0xA0001040

theorem witness_Links : (stateO2.csr .module 0x0500).toNat / 2 ^ 29 % 4 = 1 ∧
    ((stateO2.setCsr .module 0x0501 0x40000000).csr .module 0x0501).toNat / 2 ^ 29 % 4 = 2 ∧ (∀ w ∈ [(⟨16, 64⟩ : LinkWidth), ⟨4, 8⟩], w.lanes ∈ [1, 2, 4, 8, 16] ∧ 1 ≤ w.rate ∧ w.rate ≤ 64) := by
  decide +kernel

theorem witness_InboundWindows : ∃ e, e ∈ (State.latchWindows
    { stateO2 with mem := memWriteAll [] (cellsAt 0 2 9 ++ cellsAt 2 1 3 ++ cellsAt 8 8 0x10000 ++ cellsAt 16 8 0x20000) }).wtab :=
  ⟨{ src := 9, rd := true, wr := true, base := 0x10000, size := 0x20000 }, by decide +kernel⟩

def rowH : CsrRow := (csrRow 0x0300).getD ⟨0, .module, .ro⟩

theorem witness_HostWindow : csrRow 0x0300 = some rowH ∧ State.reset.csrLevel rowH (128 * 0) ≤ 1 ∧ rowH.level < 2 ∧
    0 ∈ ({ State.reset with refused := [0] } : State).refused ∧ csrRow 0x3FFF = none ∧
    ∃ r, csrRow 0x0700 = some r ∧ 1 < State.reset.csrLevel r (128 * 0) :=
  ⟨some_getD _ (by decide +kernel), by decide +kernel, by decide +kernel, by decide, by decide,
    (csrRow 0x0700).getD ⟨0, .module, .ro⟩, some_getD _ (by decide +kernel), by decide +kernel⟩

/-- Module 9 is a neighbour, and may read and write the first 64 KiB. -/
def stateWt : State :=
  State.setCsr { stateO2 with wtab := [{ src := 9, rd := true, wr := true, base := 0, size := 0x10000 }] } .module 0x0520 0x80000009
def reqP (op : PeerOp) : PeerReq := ⟨op, 0x100, 4, natToBytes 4 5⟩

/-- Die 0's filter is full, of lines that it homes. -/
def fullFilter (s : State) : Prop :=
  (∀ k ∈ s.snoops, homeDie (64 * k) = 0) ∧ 262144 ≤ s.snoops.length ∧ s.hostReqs = [] ∧ lineOf (s.devLoc 0x1000) ∉ s.snoops

theorem filter_full {s : State} (h : fullFilter s) : s.filterRoom 0 = false := by
  have e : s.filterOf 0 = s.snoops := List.filter_eq_self.mpr fun k hk => by simp [h.1 k hk]
  have v : s.victimLines = [] := by simp [State.victimLines, h.2.2.1]
  simp only [State.filterRoom, e, v, List.filter_nil, List.length_nil, Nat.add_zero, decide_eq_false_iff_not, Nat.not_lt]
  exact h.2.1

/-- A state with a full filter: it holds the line of location 0 as often as its places go. -/
theorem filter_fills : ∃ s : State, fullFilter s ∧ s.filterRoom 0 = false := by
  let s : State := { stateO2 with snoops := List.replicate 262144 0 }
  have h : fullFilter s := by
    refine ⟨fun k hk => ?_, ?_, rfl, fun hk => ?_⟩
    · rw [List.eq_of_mem_replicate hk]; decide +kernel
    · exact Nat.le_of_eq (List.length_replicate (n := 262144) (a := 0)).symm
    · have e := List.eq_of_mem_replicate hk
      exact absurd e (by decide +kernel)
  exact ⟨s, h, filter_full h⟩

theorem witness_OutsideAccesses : stateO2.inHdm 0x1000 4 = true ∧ (stateO2.hostReqs.any (HostReq.write 0x1000 [1, 2, 3, 4]).meets) = false ∧
    (stateO2.hostReqs.any (HostReq.read 0x1000 4 none).meets) = false ∧ stateO2.homeFree 0x1000 4 = true ∧
    lineOf (stateO2.devLoc 0x1000) ∉ stateO2.snoops ∧ stateO2.filterRoom (homeDie (stateO2.devLoc 0x1000)) = true ∧
    stateO2.victimLines = [] ∧
    (let s := stateO2.setCsr .module 0x0701 0xF
     s.inHdm 0x1000 4 = true ∧ s.homeFree 0x1000 4 = false) ∧ State.reset.inHdm 0x1000 4 = false ∧
    (let s : State := { stateO2 with snoops := [lineOf (stateO2.devLoc (64 * 64))] }
     lineOf (s.devLoc (64 * 64)) ∈ s.snoops ∧ lineOf (s.devLoc 0x1000) ∈ s.snoops) ∧
    stateO2.neighbour 9 = false ∧ stateWt.peerAllowed 8 (reqP .read) = false ∧
    (∀ op ∈ [PeerOp.read, .write, .aadd], stateWt.neighbour 9 = true ∧ stateWt.peerAllowed 9 (reqP op) = true ∧
      (stateWt.hostReqs.any (HostReq.peer 9 (reqP op)).meets) = false ∧ stateWt.homeFree (reqP op).addr (reqP op).size = true ∧
      stateWt.snooped (stateWt.devLoc 0x100) (reqP op).size = false) ∧
    peerAtomic .aadd = some .add ∧
    ({ stateWt with snoops := [lineOf (stateWt.devLoc 0x100)] } : State).snooped (stateWt.devLoc 0x100) 4 = true := by decide +kernel

/-- A master of the priority given, at the steps given; it is not this module. -/
def masterOf (prio steps : Nat) : ClockData :=
  { Config.ownClock with
    prio1 := prio, steps := steps, identity := Config.ownClock.identity + 1, sender := Config.ownClock.identity + 1 }
/-- The clock follows port 3, and has measured or not. -/
def stateClk (diff delay : Option Int) : State := { stateO2 with clock := ⟨some 3, [(3, masterOf 127 1)], diff, delay⟩, ctxs := [] }

theorem own_prio : stateO2.ownClock.prio1 = 128 := by
  show (stateO2.csr .module 0x0530).toNat / 65536 % 256 = 128
  decide +kernel

theorem own_identity (p n : Nat) : stateO2.ownClock.identity ≠ (masterOf p n).identity := by
  show Config.ownClock.identity ≠ Config.ownClock.identity + 1
  omega

theorem own_better (p n : Nat) (h : p ≠ 128) : betterMaster stateO2.ownClock (masterOf p n) = decide (128 < p) := by
  unfold betterMaster
  rw [if_neg (own_identity p n), listBefore, own_prio]
  show (decide (128 < p) || (128 == p && _)) = _
  rw [beq_eq_false_iff_ne.mpr (Ne.symm h), Bool.false_and, Bool.or_false]

theorem fewer_steps (p n m : Nat) (h : n ≠ m) : betterMaster (masterOf p n) (masterOf p m) = decide (n < m) := by
  unfold betterMaster
  rw [if_pos (show (masterOf p n).identity = (masterOf p m).identity from rfl), listBefore]
  show (decide (n < m) || (n == m && _)) = _
  rw [beq_eq_false_iff_ne.mpr h, Bool.false_and, Bool.or_false]

theorem witness_Clock : (3 : Nat) < 20 ∧ (State.reset.csr .module 0x0530).getLsbD 31 = false ∧
    (stateO2.csr .module 0x0530).getLsbD 31 = true ∧ (stateO2.csr .module 0x0530).toNat % 256 = 0 ∧
    (masterOf 127 1).sender ≠ Config.ownClock.identity ∧ (masterOf 127 1).steps < 255 ∧
    (∀ q, numLookup stateO2.clock.heard q = none) ∧ (stateO2.csr .module 0x0530).getLsbD 30 = true ∧
    betterMaster stateO2.ownClock (masterOf 127 1) = false ∧ betterMaster stateO2.ownClock (masterOf 129 1) = true ∧
    (let s := stateClk none none
     numLookup s.clock.heard 3 = some (masterOf 127 1) ∧ (∀ q, q ≠ 3 → numLookup s.clock.heard q = none) ∧
      betterMaster (masterOf 127 1) (masterOf 127 2) = true ∧ betterMaster (masterOf 127 2) (masterOf 127 1) = false) ∧
    (∀ d ∈ [none, some (5 : Int)], (stateClk (some 7) d).clock.source = some 3 ∧ (stateClk (some 7) d).clock.delay = d ∧
      (stateClk (some 7) d).clock.diff = some 7 ∧ (stateClk (some 7) d).locked = false) ∧
    (∀ c ∈ (stateClk none none).ctxs, c.valid = false) ∧ (100 : Int) - 200 - 5 < 0 ∧ stateO2.clock.source = none := by
  refine ⟨by decide, by decide +kernel, by decide +kernel, by decide +kernel, ?_, by decide, fun _ => rfl, by decide +kernel,
    own_better 127 1 (by decide), own_better 129 1 (by decide), ⟨rfl, fun q h => ?_, fewer_steps 127 1 2 (by decide),
      fewer_steps 127 2 1 (by decide)⟩, ?_, (fun c h => by cases h), by decide, rfl⟩
  · show Config.ownClock.identity + 1 ≠ Config.ownClock.identity
    omega
  · show numLookup [(3, masterOf 127 1)] q = none
    unfold numLookup
    simp [Ne.symm h]
  · intro d hd
    simp only [List.mem_cons, List.not_mem_nil, or_false] at hd
    rcases hd with rfl | rfl <;> exact ⟨rfl, rfl, rfl, rfl⟩

/-! ### Encodings, the step, the whole machine -/

theorem witness_RoundTrip : Instr.wf (.iaddi 7 11 11 0x1FF) = true ∧ encode (.iaddi 7 11 11 0x1FF) = some 0x338B17FF ∧
    (decode 0x338B17FF).toOption = some (.iaddi 7 11 11 0x1FF) ∧ decodeSeq 0x10440000 = some (.mxstr 1 1) ∧
    ofSequencer (.iaddi 7 11 11 0x1FF) = false ∧ Instr.wf (.mxstr 1 1) = true ∧ encode (.mxstr 1 1) = some 0x10440000 ∧
    ofSequencer (.mxstr 1 1) = true := by decide +kernel

/-- IADDI v11, v11, −1 at the address in issue, or MXSWP at block 1's sequencer. -/
def codeS (w : Nat) : List Host.Cell := memWriteAll pages (cellsAt 0x200000 4 w)
def stateI1 : State := { state0 with mem := codeS 0x338B17FF }
def stateI2 : State :=
  { stateQ with mem := codeS 0x08000000, blocks := [{ blockQ with seq := { seqQ with pc := 0x40200000 } }] }
def noXlat : Xlat := ⟨0, 0, 0⟩
def payI : Option State :=
  State.payIssue ((stateI1.keepLeaf (some 0) 0 0 0x40200000).keepCode 0 0 0 0x200000) block0 warp0 0x338B17FF

theorem witness_StepRunsWord : stateI1.issue = some issue1 ∧ stateI1.block? 1 = some block0 ∧ block0.warp? 0 = some warp0 ∧
    (∃ p, stateI1.translate (some block0.core) block0.pn block0.ctx issue1.wordPc.toNat .execute = .ok p ∧ p.loc = 0x200000) ∧
    stateI1.barred block0.core 0x200000 = false ∧ stateI1.badAt 0x200000 4 = false ∧
    (∀ e ∈ stateI1.code, ¬ (e.core = stateI1.physCore block0.core ∧ e.pn = block0.pn ∧ e.ctx = block0.ctx ∧ e.line = lineOf 0x200000)) ∧
    stateI1.load 0x200000 4 = (0x338B17FF : Word).toNat ∧ decode 0x338B17FF = .ok (.iaddi 7 11 11 0x1FF) ∧
    Issue.misuse { issue1 with word := 0x338B17FF } = false ∧ (∃ u, payI = some u) ∧
    (let v := { payI.getD State.reset with issue := some { issue1 with word := 0x338B17FF } }
     (match exec (.iaddi 7 11 11 0x1FF) v with | .next t => t.issue.isNone | _ => false) = true ∧
      (match exec (.himm 1) v with | .next t => t.issue.isSome | _ => false) = true) :=
  ⟨rfl, rfl, rfl, ⟨gotD _ noXlat, ok_gotD noXlat (by decide +kernel), by decide +kernel⟩, by decide +kernel, by decide +kernel, (fun e h => by cases h),
    by decide +kernel, val_of (by decide +kernel), by decide +kernel, ⟨_, some_getD State.reset (by decide +kernel)⟩, by decide +kernel, by decide +kernel⟩

theorem witness_StepRunsEvent : stateI2.issue = none ∧ stateI2.seqNow = some 1 ∧
    stateI2.block? 1 = some { blockQ with seq := { seqQ with pc := 0x40200000 } } ∧
    (∃ p, stateI2.translate (some 0) 0 0 0x40200000 .execute = .ok p ∧ p.loc = 0x200000) ∧ stateI2.barred 0 0x200000 = false ∧ stateI2.badAt 0x200000 4 = false ∧
    (∀ e ∈ stateI2.code, ¬ e.line = lineOf 0x200000) ∧
    stateI2.load 0x200000 4 = (0x08000000 : Word).toNat ∧ decodeSeq 0x08000000 = some .mxswp ∧
    (∃ t, exec .mxswp { (stateI2.keepLeaf (some 0) 0 0 0x40200000).keepCode 0 0 0 0x200000 with seqNow := some 1 } = .next t) ∧ fromOutside (.tempSample 3 5) = true ∧
    ({ State.reset with inputs := [.tempSample 3 5] } : State).seqNow = none := by
  refine ⟨rfl, rfl, rfl, ⟨gotD _ noXlat, ok_gotD noXlat (by decide +kernel), by decide +kernel⟩, by decide +kernel, by decide +kernel, (fun e h => by cases h),
    by decide +kernel, by decide +kernel, ?_, rfl, rfl⟩
  show ∃ t, Sys2Proof.Machine.execMxswp _ = .next t
  exact ⟨_, rfl⟩

/-- IADDI v11, v11, −1 with an empty active set: guard p1 is false. -/
theorem witness_EmptyActiveSet : guardedMajor (majorOf 0x308B17FF).toNat = true ∧
    decode 0x308B17FF = .ok (.iaddi 1 11 11 0x1FF) ∧
    Issued state0 (some 1) (opened state0 block0 warp0 (some 1)) ∧ (opened state0 block0 warp0 (some 1)).act = 0 ∧
    (opened state0 block0 warp0 (some 1)).hardCauses = [] := by
  exact ⟨by decide, val_of (by decide +kernel), ⟨rfl, rfl, rfl, rfl, rfl⟩, by decide +kernel, by decide +kernel⟩

theorem witness_EmptyActiveSetIllegal : guardedMajor (majorOf 0x04800000).toNat = true ∧ guardField 0x04800000 = 1 ∧
    (opened state0 block0 warp0 (some 1)).i.misuse = false ∧ majorOf 0x04800000 ≠ 0x3F ∧
    (let s : State := { state0 with issue := some { issue1 with hint := some 0xFC000000 } }
     ({ issue1 with hint := some 0xFC000000 } : Issue).misuse = true ∧
      Issued s (some 1) ⟨s, { issue1 with hint := some 0xFC000000 }, block0, warp0, 0⟩ ∧
      lowLane issue1.lanes = some 0) := by
  refine ⟨by decide, by decide, by decide +kernel, by decide, by decide +kernel, ⟨rfl, rfl, rfl, rfl, ?_⟩, by decide⟩
  decide +kernel

theorem witness_IntegerValues : (3 : Word) ≠ 0 ∧ ((7 : Word) ≠ 0x80000000 ∨ (3 : Word) ≠ 0xFFFFFFFF) ∧ (31 : Nat) < 32 := by decide

theorem witness_FaultLog : (let s := State.reset
      (s.csr (.part 0) 0x03C0).toNat + 2 ^ 32 * (s.csr (.part 0) 0x03C1).toNat = 0) ∧
    (let s := State.reset.setCsr (.part 0) 0x03C0 0x10000
     (s.csr (.part 0) 0x03C0).toNat + 2 ^ 32 * (s.csr (.part 0) 0x03C1).toNat ≠ 0 ∧
      ¬ 2 ^ max 4 (min 20 ((s.csr (.part 0) 0x03C2).toNat % 32)) ≤ (s.csr (.part 0) 0x03C3 - s.csr (.part 0) 0x03C4).toNat ∧
      memWf s.mem = true ∧ s.gt < 2 ^ 64 ∧ s.ownsPa 0 0x10000 = true ∧ s.ownsPa 0 (0x10000 + 63) = true ∧
      s.reachable (s.physLoc 0x10000) = true ∧ s.snooped (s.physLoc 0x10000) 64 = false) ∧
    (let s := (State.reset.setCsr .module 0x0700 0xE0).setCsr (.part 0) 0x03C0 0xFFFFF000
     0xFFFFF000 < deviceBytes ∧ s.ownsPa 3 0xFFFFF000 = false) := by decide +kernel

theorem witness_MemoryKept : memoriesOk State.reset ∧ memoriesOk state0 := by
  refine ⟨by unfold memoriesOk; decide, ?_⟩
  unfold memoriesOk
  decide +kernel

theorem witness_SignaturesRise : State.reset.attLow < 2 ^ 28 := by decide

/-! ### Rules stated whole -/

def launchG : Launch := { launchN with groups := List.replicate 5 ⟨0, 1, 0, 1⟩ }

theorem witness_GroupMembership : (stateL launchG).launch? 9 = some launchG ∧ (stateL launchG).readyNow launchG = true ∧
    4 < (launchG.groupsOf 0).length ∧ launchG.fault ≠ some 1 ∧ 1 ≤ launchG.cls ∧ launchG.cls ≤ 3 ∧
    (∃ c, (stateL launchG).ctx? launchG.pn launchG.ctx = some c ∧ c.valid = true) ∧
    (∀ j ∈ (stateL launchG).launches, j.pn = launchG.pn → j.ctx = launchG.ctx → j.kern = launchG.kern →
      j.lid = launchG.lid ∨ j.live = false) ∧ (⟨2, 3, 4, 1⟩ : GroupEntry).has 10 = true ∧ (⟨2, 3, 4, 1⟩ : GroupEntry).has 14 = false := by
  refine ⟨rfl, by decide +kernel, by decide, by decide, by decide, by decide, ⟨_, rfl, rfl⟩, ?_, by decide, by decide⟩
  intro j hj _ _ _
  simp only [stateL, List.mem_singleton] at hj
  exact .inl (by rw [hj])

/-- v0:v1 an odd global address, v2 an odd local one. -/
def warpAl : Warp := warpWith [0x40100001, 0, 3, 0] 0
def stateAl : State := stateWith (blockWith warpAl) []
def execAl : Exec := opened stateAl (blockWith warpAl) warpAl (some 7)

theorem witness_AlignmentTraps : Issuing stateAl (some 7) execAl ∧
    (∀ k n, (execAl.w.thread k).boundPort n = none) ∧
    (∀ n k e, inMask execAl.act k = true → stateAl.translate (some execAl.b.core) execAl.b.pn execAl.b.ctx
      (addressOf execAl 0 (0 : BitVec 5) (sizeBytes .b32) k).toNat n = .error e → e.code ≠ .capInvalid ∧ e.code ≠ .capPerm) ∧
    (lowLane (maskOf fun k => inMask execAl.act k && (addressOf execAl 0 (0 : BitVec 5) (sizeBytes .b32) k).toNat % sizeBytes .b32 != 0) = some 0 ∧
      Unhindered execAl [src2 0, ⟨sizeShape .b32, 4, .dst⟩] ∧ Unhindered execAl [src2 0, ⟨sizeShape .b32, 4, .src⟩]) ∧
    execAl.w.ldc < 15 ∧ execAl.w.stc < 15 ∧ Released execAl .sys ∧ acqScope execAl .sys = some .sys ∧
    (∀ a ∈ stateAl.accs, ¬ (a.bid = execAl.i.bid ∧ a.w = execAl.i.w)) ∧
    (lowLane (maskOf fun k => inMask execAl.act k && laddr execAl ((past execAl k).reg 2) (0 : BitVec 5) (sizeBytes .b32) % sizeBytes .b32 != 0) = some 0 ∧
      Unhindered execAl [src1 2, ⟨sizeShape .b32, 4, .dst⟩] ∧ Unhindered execAl [src1 2, ⟨sizeShape .b32, 4, .src⟩]) := by
  refine ⟨⟨⟨rfl, rfl, rfl, rfl, rfl⟩, by decide +kernel⟩, ?_, fun n k e _ h => ?_,
    ⟨by decide +kernel, free_of (by decide +kernel), free_of (by decide +kernel)⟩,
    by decide, by decide, released_of .sys (by decide +kernel) (by decide +kernel) (by decide +kernel) rfl, by decide,
    (fun a h => by cases h), ⟨by decide +kernel, free_of (by decide +kernel), free_of (by decide +kernel)⟩⟩
  · intro k n
    have h : ∀ k, (execAl.w.thread k).ports = Vector.replicate 4 none := by decide +kernel
    unfold Thread.boundPort
    rw [h k]
    split
    · rcases Nat.lt_or_ge (n - 124) 4 with h' | h'
      · have : ∀ j, j < 4 → ((Vector.replicate 4 (none : Option Stream)).toList[j]?).getD none = none := by decide
        exact this _ h'
      · rw [List.getElem?_eq_none (by simpa using h')]; rfl
    · rfl
  · have h' : ∀ k, (match stateAl.translate (some execAl.b.core) execAl.b.pn execAl.b.ctx
        (addressOf execAl 0 (0 : BitVec 5) (sizeBytes .b32) k).toNat n with
      | .ok _ => true
      | .error e => e.code != .capInvalid && e.code != .capPerm) = true := by
      cases n <;> decide +kernel
    have := h' k
    rw [h] at this
    simpa using this

theorem witness_CapabilityTraps : exec0.s.capEntry exec0.b.pn exec0.b.ctx (1 : Cap).toNat = none ∧
    (∃ e, execK.s.capEntry execK.b.pn execK.b.ctx (1 : Cap).toNat = some e ∧ e.type ∉ [capLock] ∧ e.type ∈ [capCard] ∧
      permAll permWait e.perms = true ∧ !e.perms.getLsbD 0 = false) ∧
    Issuing state0 (some 7) exec0 ∧ lowLane exec0.act = some 0 ∧
    (Instr.bara 7 12 0 1, [src2 0, dst1 12], true, verdictOf (exec0.cap 1 [capGroup, capBlock] (exec0.target 1) (permAll permSend))) ∈
      capWords exec0 7 12 0 2 1 false .eq ∧
    UnhinderedOnce exec0 [src2 0, dst1 12] ∧
    verdictOf (exec0.cap 1 [capGroup, capBlock] (exec0.target 1) (permAll permSend)) = .error (capBad .capInvalid 1) := by
  refine ⟨by decide +kernel, ⟨_, rfl, by decide +kernel, by decide +kernel, by decide +kernel, by decide +kernel⟩, issuing0, by decide +kernel, List.mem_cons_self, once_of (by decide +kernel), ?_⟩
  unfold Exec.cap verdictOf
  rw [show exec0.s.capEntry exec0.b.pn exec0.b.ctx (1 : Cap).toNat = none by decide +kernel]

/-- A pass over rows of zero elements: one row of BF16 at 0, its metadata at 512. -/
def descZ (op : Nat) : List Byte :=
  natToBytes 12 (2 ^ 64 * 256) ++ natToBytes 2 1 ++ natToBytes 2 0 ++ natToBytes 8 0 ++ natToBytes 4 (if op = 3 then 512 else 0) ++ natToBytes 4 0

theorem witness_ZeroProducts : rowFormats [] 65536 (mxDesc 3 (descZ 3)) = some [0] ∧ rowFormats [] 65536 (mxDesc 2 (descZ 2)) = some [0] ∧
    (mxDesc 3 (descZ 3)).acc0 = (mxDesc 2 (descZ 2)).acc0 ∧ (mxDesc 3 (descZ 3)).clr = (mxDesc 2 (descZ 2)).clr ∧
    (∃ bs vals, winBytes [] 65536 ((mxDesc 3 (descZ 3)).meta' + 16 * 0) 16 = some bs ∧
      readRow [] 65536 (mxDesc 3 (descZ 3)) 0 true 0 = some vals ∧
      readRow [] 65536 (mxDesc 2 (descZ 2)) 0 false 0 = some (expandRow (bytesToNat bs) vals)) := by
  refine ⟨by decide +kernel, by decide +kernel, by decide, by decide,
    List.replicate 16 0, List.replicate 64 0, by decide +kernel, by decide +kernel, by decide +kernel⟩

/-! ### Words written out from R62, R63, R80 to R90 -/

def decodesTo (e : Word × Instr) : Bool :=
  match decode e.1 with
  | .ok i => decide (i = e.2)
  | .error _ => false

theorem test_decode_integer : ([(0x05FA28CC, .iadd 3 0x7a 0x14 0x33), (0x070715A9, .isub 6 7 0xa 0x6a), (0x068D5F2E, .imin 5 0xd 0x2f 0x4b),
    (0x04F58273, .imax 1 0x75 0x41 0x1c), (0x088C70D8, .iminu 1 0xc 0x38 0x36),
    (0x089F191D, .imaxu 1 0x1f 0xc 0x47), (0x0A08D402, .iabs 4 8 0x6a), (0x0A90F403, .ineg 5 0x10 0x7a),
    (0x0D51A32C, .imul 2 0x51 0x51 0x4b), (0x0CCA96CD, .imulh 1 0x4a 0x4b 0x33),
    (0x0CFD3A1A, .imulhu 1 0x7d 0x1d 6), (0x0EEE249B, .imad 5 0x6e 0x12 0x26),
    (0x12138C40, .imadw 4 0x13 0x46 0x10), (0x12A891A5, .imadwu 5 0x28 0x48 0x69),
    (0x13181D2E, .idiv 6 0x18 0xe 0x4b), (0x12D232C3, .idivu 5 0x52 0x19 0x30), (0x14C7B824, .irem 1 0x47 0x5c 9),
    (0x1688A06D, .iremu 5 8 0x50 0x1b), (0x16588ADE, .iadd64 4 0x58 0x45 0x37),
    (0x17A9792F, .isub64 7 0x29 0x3c 0x4b), (0x1A2F4E80, .shl 4 0x2f 0x27 0x20),
    (0x1B98B591, .shr 7 0x18 0x5a 0x64), (0x190B949E, .sar 2 0xb 0x4a 0x27), (0x1AC0E2B3, .rotl 5 0x40 0x71 0x2c)] : List (Word × Instr)).all decodesTo = true := by decide +kernel

theorem test_decode_logic : ([(0x1F3A4A4E, .shli 6 0x3a 0x25 0x4e), (0x1C9084B6, .shri 1 0x10 0x42 0x36),
    (0x1D615914, .sari 2 0x61 0x2c 0x14), (0x1E360DFC, .andi 4 0x36 6 0x7c), (0x230AC520, .and 6 0xa 0x62 0x48),
    (0x22E6E3A5, .or 5 0x66 0x71 0x69), (0x21ACB2B6, .xor 3 0x2c 0x59 0x2d), (0x22C0979F, .andn 5 0x40 0x4b 0x67),
    (0x2609D830, .orn 4 9 0x6c 0xc), (0x25BDB559, .xnor 3 0x3d 0x5a 0x56), (0x2488BC02, .not 1 8 0x5e),
    (0x2B28A600, .popc 6 0x28 0x53), (0x2AD8D401, .clz 5 0x58 0x6a), (0x2A25B802, .ctz 4 0x25 0x5c),
    (0x2A72AC03, .brev 4 0x72 0x56), (0x2D83F2F0, .bfe 3 3 0x79 0x3c), (0x2D969E3D, .bfeu 3 0x16 0x4f 0xf),
    (0x2E08398E, .bfi 4 8 0x1c 0x63)] : List (Word × Instr)).all decodesTo = true := by decide +kernel

theorem test_decode_moves : ([(0x3191BE7F, .iaddi 3 0x11 0x5f 0x7f), (0x36471659, .isetp 4 4 .leu 0xb 0x16 true),
    (0x3654E44B, .fsetp 4 5 .gt 0x72 0x12 true), (0x3BD4B6D9, .isetpi 7 5 .gt 0x5b 0x36 true),
    (0x3F040408, .pand 6 4 2 2), (0x3C820409, .por 1 2 2 2), (0x3F020212, .pxor 6 2 1 4), (0x3F850403, .pnot 7 5 2),
    (0x41A5024C, .sel 3 0x25 1 0x13), (0x42450001, .p2v 4 0x45), (0x41CF9202, .v2p 3 0x4f 0x49),
    (0x41FA2203, .mov 3 0x7a 0x11), (0x476E4200, .movw 6 0x6e 0x21), (0x46AAAE01, .wmov 5 0x2a 0x57),
    (0x47043C02, .wmovw 6 0x4 0x1e), (0x47B27AE3, .wadd 7 0x32 0x3d 0x38), (0x4B678F2D, .movi 6 0x67 0x8f2d),
    (0x4E3368CD, .lea 4 0x33 0x34 0x33 1), (0x51F52000, .rds 0x3e 0x52), (0x51A08001, .wrs 0x34 8),
    (0x50C89002, .rdgt 0x19 9)] : List (Word × Instr)).all decodesTo = true := by decide +kernel

theorem test_decode_control : ([(0x55386677, .bra 2 0x386677), (0x590E1222, .call 2 0xe1222), (0x5D84D0D8, .brx 3 0x4d 0xd8),
    (0x5C881912, .callx 1 1 0x912), (0x5D145000, .ret 2 0x45), (0x5C980000, .exit 1), (0x5DA009D2, .spt 3 0x9d2),
    (0x5CA80000, .nop 1), (0x5CB00000, .yield 1), (0x5FB80354, .bkpt 7 0x354), (0x5EC00606, .trap 5 0x606),
    (0x5D480000, .eret 2), (0x63280000, .join 6 5), (0x61D10000, .leave 3 10), (0x61C20000, .waitm 3 8),
    (0x6093DA00, .mskrd 1 2 0x6d), (0x62447C00, .mskwr 4 8 0x3e), (0x622D1600, .mskact 4 5 0xb)] : List (Word × Instr)).all decodesTo = true := by decide +kernel

theorem test_decode_float1 : ([(0x650EC0B0, .fadd 2 0xe 0x60 0x2c), (0x67227DAD, .fsub 6 0x22 0x3e 0x6b), (0x6715860E, .fmul 6 0x15 0x43 3),
    (0x657AF513, .ffma 2 0x7a 0x7a 0x44), (0x6993B318, .fmin 3 0x13 0x59 0x46),
    (0x68E2889D, .fmax 1 0x62 0x44 0x27), (0x6B6F196A, .fcpys 6 0x6f 0xc 0x5a), (0x6FA28600, .fabs 7 0x22 0x43),
    (0x6DF52C04, .fneg 3 0x75 0x16), (0x6DE33A08, .frndRne 3 0x63 0x1d), (0x6EC6C80C, .frndRtz 5 0x46 0x64),
    (0x6EABA410, .frndRdn 5 0x2b 0x52), (0x6D4FD014, .frndRup 2 0x4f 0x68), (0x6FFFC418, .frcp 7 0x7f 0x62),
    (0x6F99D01C, .frsq 7 0x19 0x68), (0x6D696820, .fsqrt 2 0x69 0x34), (0x6F673C24, .fex2 6 0x67 0x1e),
    (0x6D438028, .flg2 2 0x43 0x40), (0x6DDE082C, .fsin 3 0x5e 4), (0x6CE64830, .fcos 1 0x66 0x24),
    (0x6E223234, .ftanh 4 0x22 0x19), (0x6F4EF638, .fsigm 6 0x4e 0x7b), (0x71BAD1E0, .dadd 3 0x3a 0x68 0x78),
    (0x737F5BED, .dsub 6 0x7f 0x2d 0x7b)] : List (Word × Instr)).all decodesTo = true := by decide +kernel

theorem test_decode_float2 : ([(0x718B3A3A, .dmul 3 0xb 0x1d 0xe), (0x713D34B3, .dfma 2 0x3d 0x1a 0x2c), (0x753EA1FC, .badd2 2 0x3e 0x50 0x7f),
    (0x76EC02F9, .bmul2 5 0x6c 1 0x3e), (0x772DCF4E, .bfma2 6 0x2d 0x67 0x53),
    (0x74EBAA43, .bmax2 1 0x6b 0x55 0x10), (0x7A65B984, .hadd2 4 0x65 0x5c 0x61),
    (0x793EE45D, .hmul2 2 0x3e 0x72 0x17), (0x7A66A4AE, .hfma2 4 0x66 0x52 0x2b),
    (0x78E7F5F7, .hmax2 1 0x67 0x7a 0x7d), (0x7F337934, .cvtf 6 0x33 0x3c true .rne .bf16 .f32),
    (0x7D042979, .f2i 2 4 0x14 true .rtz .b64 .f16), (0x7D478F02, .i2f 2 0x47 0x47 true .rne .f64 .i32),
    (0x82E0F004, .bxq 5 0x60 0x78 .bx4), (0x827FE005, .bxd 4 0x7f 0x70 .bx4), (0x83F03806, .bxpk 7 0x70 0x1c .bx4)] : List (Word × Instr)).all decodesTo = true := by decide +kernel

theorem test_decode_lanes : ([(0x859C4D04, .shfli 3 0x1c 0x26 0x41), (0x856298A9, .shflu 2 0x62 0x4c 0x2a),
    (0x85C66DAE, .shfld 3 0x46 0x36 0x6b), (0x8508EB7F, .shflx 2 8 0x75 0x5f), (0x89841E00, .voteAll 3 4 true 7),
    (0x8A820A04, .voteAny 5 2 false 5), (0x8A811E08, .voteUni 5 1 true 7), (0x894E0E0C, .voteBallot 2 0x4e false 7),
    (0x8B942E01, .matchAny 7 0x14 0x17 false), (0x8A50BA05, .matchAll 4 0x50 0x5d false),
    (0x8A88542A, .redux 5 8 0x2a .fmax), (0x8AC49123, .scan 5 0x44 0x48 true .fadd), (0x8C188000, .strb 3 8),
    (0x8C080001, .stru 1), (0x8CC82002, .strp 0x19 2), (0x8C0E3003, .strs 1 0x63)] : List (Word × Instr)).all decodesTo = true := by decide +kernel

theorem test_decode_loads : ([(0x90C1740F, .ld 1 0x41 0x3a .b32 .l1 0xf), (0x95CFFACF, .st 3 0x4f 0x7d .b64 .sys 0xf),
    (0x9AC5D1DF, .ldl 5 0x45 0x68 .b16 .fec 0x1f), (0x9D5A871B, .stl 2 0x5a 0x43 .b128 .plain 0x1b),
    (0xA2126C6F, .lda 4 0x12 0x36 .b32 .sys 0xf), (0xA58AACE3, .strl 3 0xa 0x56 .b64 .sys 3),
    (0xA900AD3D, .pref 2 0x56 2 .l2 0x1d), (0xAB8129C5, .disc 7 0x14 3 .sys 5)] : List (Word × Instr)).all decodesTo = true := by decide +kernel

theorem test_decode_atomics : ([(0xADF225F0, .aaddNear 3 0x72 0x12 0x7c), (0xAE1DC1E9, .aminNear 4 0x1d 0x60 0x7a),
    (0xACB3E4FE, .amaxNear 1 0x33 0x72 0x3f), (0xAD7FADAF, .aexchNear 2 0x7f 0x56 0x6b),
    (0xB115B6E0, .aadd 2 0x15 0x5b 0x38), (0xB2B458D9, .amin 5 0x34 0x2c 0x36), (0xB12E5232, .amax 2 0x2e 0x29 0xc),
    (0xB32F06B3, .aexch 6 0x2f 3 0x2c), (0xB6BB736C, .aand 5 0x3b 0x39 0x5b), (0xB4B2570D, .aor 1 0x32 0x2b 0x43),
    (0xB6A685EE, .axor 5 0x26 0x42 0x7b), (0xB48FFFDB, .ainc 1 0xf 0x7f 0x76), (0xBB9EFBC4, .cas 7 0x1e 0x7d 0x71),
    (0xB88B448D, .cash 1 0xb 0x22 0x23), (0xB8F4C862, .cash64 1 0x74 0x64 0x18),
    (0xB9E123A7, .cas128 3 0x61 0x11 0x69), (0xBE6DEB5C, .faadd 4 0x6d 0x75 0x57),
    (0xBFFA44D1, .famin 7 0x7a 0x22 0x34), (0xBD45ED0A, .famax 2 0x45 0x76 0x42),
    (0xBEC0B4AB, .bfaadd2 5 0x40 0x5a 0x2a), (0xC0A411A0, .casc 1 0x24 8 0x34),
    (0xC3186FD1, .incc 6 0x18 0x37 0x3a), (0xC0A3F212, .minc 1 0x23 0x79 2)] : List (Word × Instr)).all decodesTo = true := by decide +kernel

theorem test_decode_waits : ([(0xC7000030, .rlock 6 6), (0xC7800089, .wlock 7 0x11), (0xC480013A, .runlk 1 0x27), (0xC780007B, .wunlk 7 0xf),
    (0xC4A201C4, .rtry 1 0x22 0x38), (0xC4BB000D, .wtry 1 0x3b 1), (0xC8A00000, .fence .die .stores),
    (0xCAFFEA00, .waitc 7 0xf 0xf 5), (0xCE910D10, .waitf 5 0x11 6 0x22 false .eq),
    (0xD1220E62, .poll 2 0x22 7 0xc false .geu), (0xD7288988, .bara 6 0x28 0x44 0x31),
    (0xD5267509, .barw 2 0x26 0x3a 0x21), (0xD71746BA, .baraw 6 0x17 0x23 0x17), (0xD783421B, .barst 7 3 0x21 3),
    (0xD483BD0C, .barx 1 3 0x5e 0x21), (0xD6FE330D, .barxw 5 0x7e 0x19 0x21), (0xDA20F0E8, .enq 4 0x20 0x78 0x1d),
    (0xD8D501A9, .deq 1 0x55 0x35), (0xDB38AB02, .enqt 6 0x38 0x55 0x20), (0xDAEBE4D3, .deqt 5 0x6b 0x72 0x1a),
    (0xDAA8016C, .qlen 5 0x28 0x2d)] : List (Word × Instr)).all decodesTo = true := by decide +kernel

theorem test_decode_engines : ([(0xDD7E3CB0, .cpy 2 0x7e 0x1e 0x16), (0xDD6BE371, .cpyt 2 0x6b 0x71 0x2e),
    (0xDF5224D2, .cpyim 6 0x52 0x12 0x1a), (0xDDFE0FB3, .cpyg 3 0x7e 7 0x36), (0xDD02154C, .ctok 2 2 0xa 0x29),
    (0xDF7142E5, .csleep 6 0x71 0x21 0x1c), (0xE1081758, .card 2 8 0xb 0x2b), (0xE3B101C1, .deal 7 0x31 0x38),
    (0xE280ADFA, .reord 5 0x56 0x3f), (0xE5CD4000, .sqrun 3 0x4d 0x20), (0xE7260001, .sqst 6 0x26),
    (0xE4BB0002, .sqstop 1 0x3b)] : List (Word × Instr)).all decodesTo = true := by decide +kernel

theorem test_decode_system : ([(0xE8C142C0, .csrr 0x18 0xa16), (0xE91B9121, .csrw 0x23 0x1c89), (0xE80A25E2, .rdwr 1 0x22 0x2f),
    (0xEBE2BFA3, .wrwr 0x7c 0x2b 0x7d), (0xE807F004, .haltw 0x7f), (0xE8047545, .resw 0x47 0x2a),
    (0xE9005F86, .step 0x20 5 0x7c), (0xE8071507, .tlbinv 0x71 0x28), (0xE8E2E008, .qsc 0x1c 0x2e),
    (0xE8018029, .capw 0x18 1), (0xE95B116A, .grpw 0x2b 0x31 0xb), (0xFC1E6090, .himm 0x1e6090),
    (0xFC40000D, .hgrd true 5), (0xFC800000, .hfmd false false .rne),
    (0xFCC0000C, .hpol false (some .die) .default), (0xFD093517, .hsch 0x93517), (0xFD40000D, .hprd true 5)] : List (Word × Instr)).all decodesTo = true := by decide +kernel

theorem test_decode_sequencer : ([(0x009C0000, .mxlds 2 7), (0x08000000, .mxswp), (0x10540000, .mxstr 1 5), (0x1AAC0000, .mxspr 0xa 0xb),
    (0x22080000, .mxdrn 8 2), (0x28000000, .mxz), (0x357C0000, .mxck 0xa 0x1f), (0x3C769B9C, .qmovi 0x11 0x369b9c),
    (0x464B50AA, .qadd 0x19 5 0x150aa), (0x4F6DD2D7, .qloop 0x1d 0x2dd2d7), (0x56800000, .qbar 0xd),
    (0x5F800000, .qwait 0xf), (0x60000000, .qend)] : List (Word × Instr)).all (fun e => decodeSeq e.1 == some e.2) = true := by decide +kernel

/-! ### What is ill-formed, and words that are no instruction -/

theorem test_wf_refuses : [Instr.cvtf 7 4 6 true .rtz .f32 .f32, .cvtf 7 4 6 false .rtz .f32 .f16, .f2i 7 4 6 false .rup .i32 .f32,
    .i2f 7 4 6 false .rdn .f32 .i32, .scan 7 4 6 true .imin, .pref 7 8 0 .str 0].all (fun i => !i.wf) = true := by decide +kernel

/-- R63 to R65, R68, R80, R85, R88: unallocated codes and reserved values, zero fields, hints. -/
theorem test_decode_refuses : ([(0x00000000, 0), (0x37AA0814, 0), (0x3BA20822, 1), (0x7F840C14, 0), (0x7F840C74, 1), (0x8B95162E, 0),
    (0x8B951642, 1), (0x9B8F1A60, 0), (0xC9400000, 0), (0xC8300000, 0), (0xC8000001, 1), (0xFD800000, 2), (0xFC400010, 2),
    (0x47838000, 1), (0xFFFFFFFF, 2)] : List (Word × BitVec 8)).all
    (fun e => (match decode e.1 with | .ok _ => false | .error k => k.sub == e.2)) = true := by decide +kernel

/-! ### Worked words of the manual -/

theorem test_decode_manual : ([(0x07840A18, .iadd 7 4 5 6), (0x338205FF, .iaddi 7 2 2 0x1FF), (0x138A1632, .idiv 7 10 11 12),
    (0x1F830485, .shri 7 3 2 5), (0x2F860E21, .bfeu 7 6 7 8), (0x37A20814, .isetp 7 2 .lt 4 5 false), (0x43840A18, .sel 7 4 5 6),
    (0x4B8D86A0, .movi 7 13 0x86A0), (0x47830A00, .movw 7 3 5), (0x4F88001A, .lea 7 8 0 6 2), (0x5040A000, .rds 8 10),
    (0x557FFFFD, .bra 2 0x7FFFFD), (0x5FA0000C, .spt 7 12), (0x63880000, .join 7 1), (0x638A0000, .waitm 7 1),
    (0x638B0A00, .mskrd 7 1 5), (0x6788040F, .ffma 7 8 2 3), (0x6B840A18, .fmin 7 4 5 6), (0x73881430, .dadd 7 8 10 12),
    (0x7788040E, .bfma2 7 8 2 3), (0x37A20816, .fsetp 7 2 .lt 4 5 false), (0x6F830818, .frcp 7 3 4), (0x6F8A0A20, .fsqrt 7 10 5),
    (0x7F850805, .f2i 7 5 4 false .rne .i32 .f32), (0x7F860A12, .i2f 7 6 5 false .rne .f32 .i32),
    (0x7F840D74, .cvtf 7 4 6 true .rtz .bf16 .f32), (0x83880804, .bxq 7 8 4 .bx4), (0x838C1006, .bxpk 7 12 8 .bx4),
    (0x838E1005, .bxd 7 14 8 .bx4), (0x87840A1B, .shflx 7 4 5 6), (0x8B84020C, .voteBallot 7 4 false 1),
    (0x8B951602, .redux 7 21 11 .iadd), (0x8B8B1222, .redux 7 11 9 .fadd), (0x938A1000, .ld 7 10 8 .b32 .l1 0),
    (0x978A1000, .st 7 10 8 .b32 .l1 0), (0x9F921A81, .stl 7 18 13 .b64 .plain 1), (0x9B8F1A20, .ldl 7 15 13 .b32 .fe 0),
    (0xA3880160, .lda 7 8 0 .b128 .sys 0), (0xA78C0040, .strl 7 12 0 .b32 .dev 0)] : List (Word × Instr)).all decodesTo = true := by
  decide +kernel

theorem test_decode_manual2 : ([(0xAB801020, .pref 7 8 0 .l2 0), (0xB3921C2B, .aexch 7 18 14 10), (0xB7941C4F, .ainc 7 20 14 19),
    (0xBB900023, .cas128 7 16 0 8), (0xC3880818, .casc 7 8 4 3), (0xC9000000, .fence .sys .all), (0xCA1FFE00, .waitc 0 15 15 15),
    (0xCF820C18, .waitf 7 2 6 3 false .eq), (0xD7982C0A, .baraw 7 24 22 1), (0xDF961A30, .cpy 7 22 13 6), (0xDF9C3035, .csleep 7 28 24 6),
    (0xE3840009, .deal 7 4 1), (0xE79F3A00, .sqrun 7 31 29), (0xE828F008, .qsc 5 15), (0xE830E040, .csrr 6 0x0702),
    (0xE820E001, .csrw 4 0x0700), (0xE800C1C7, .tlbinv 12 14), (0xFC000001, .himm 1), (0xFC400009, .hgrd true 1),
    (0xFC800001, .hfmd false false .rtz), (0xFD40000B, .hprd true 3)] : List (Word × Instr)).all decodesTo = true := by decide +kernel

theorem test_decode_stream : ([(0x38800F00, .qmovi 2 0x0F00), (0x00800000, .mxlds 2 0), (0x08000000, .mxswp), (0x58800000, .qwait 1),
    (0x110C0000, .mxstr 4 3), (0x41080020, .qadd 4 4 32), (0x487FFFFD, .qloop 1 0x3FFFFD), (0x21480000, .mxdrn 5 2),
    (0x60000000, .qend)] : List (Word × Instr)).all (fun e => decodeSeq e.1 == some e.2) = true := by decide +kernel

/-! ### Worked values of the manual -/

/-- R93, R96, R98, R99, R103: examples of the reference. -/
theorem test_integer_examples : imin 0x80000000 1 = 0x80000000 ∧ iminu 0x80000000 1 = 1 ∧ imulh 0xFFFFFFFF 2 = 0xFFFFFFFF ∧
    imulhu 0xFFFFFFFF 2 = 1 ∧ idiv (-7) 2 = -3 ∧ irem (-7) 2 = -1 ∧ idivu 7 0 = 0xFFFFFFFF ∧ sar (-5) 40 = -1 ∧
    bfeu 0xF50 0x0804 = 0xF5 ∧ bfe 0xF50 0x0804 = 0xFFFFFFF5 ∧ bfi 0xF50 0x0804 0 = 0x500 ∧ bfi 0xFF 0x081C 0 = 0xF0000000 := by
  decide +kernel

/-- R66: MOVI with and without HIMM. -/
theorem test_immediate_example : ({ issue1 with hint := some 0xFC000001 } : Issue).imm (0x86A0 : BitVec 16) true = 100000 ∧
    issue1.imm (0x86A0 : BitVec 16) true = -31072 := by decide +kernel

/-- R41, R45: 2.5 to .i32 in each mode; a tie to BF16. -/
theorem test_rounding_examples : ([RMode.rne, .rtz, .rdn, .rup].map fun m => fpToInt fp32 m .i32 0x40200000) =
      [(2, { nx := true }), (2, { nx := true }), (2, { nx := true }), (3, { nx := true })] ∧
    (fpCvt fp32 bf16 {} 0x3F808000).1 = 0x3F80 := by decide +kernel

/-- HADD2 of 0x3C003C00 and 0x7BFF0001. -/
theorem test_half_example : fpAdd fp16 {} 0x3C00 0x0001 = (0x3C00, { nx := true }) ∧ (fpAdd fp16 {} 0x3C00 0x7BFF).1 = 0x7BFF := by
  decide +kernel

/-- R50 to R53: the worked BX4 block. -/
theorem test_block_example : let b := bxQuantise 3 ((([0x40400000, 0xBFA00000, 0x3DCCCCCD, 0, 0x40D00000, 0x40000000, 0x3E99999A, 0xBE4CCCCD] : List Word) ++
      List.replicate 8 0).map some)
    b.header = 0x81F1 ∧ bxPack 3 (b.codes.map fun c => c.map (·.1)) = 0x2600A6 ∧
      bxValue 3 2 (BitVec.ofNat 32 (65536 * 1) + 0x81F1) = 0x3F800000 := by decide +kernel

/-- R26: core 1 of physical cluster 3 of island 5 on die 2 lies in sr.pclu 108. -/
theorem test_identity_example : ∀ s : State, s = State.reset → s.physCluster (256 + 5 * 16 + 4 * 3 + 1) = 108 ∧ s.physCore (256 + 5 * 16 + 4 * 3 + 1) = 433 := by
  intro s h; subst h; decide +kernel

/-- R390: two addresses of half H01. -/
theorem test_interleave_example : let s := (State.reset.setCsr .module 0x0704 3).setCsr .module 0x0705 3
    s.home 0x3000 = (1, 0x1000) ∧ homeSlice (s.devLoc 0x3000) = 32 + 16 ∧ s.home 0x1200002000 = (0, 0x900001000) ∧
      homeSlice (s.devLoc 0x1200002000) = 16 := by decide +kernel

/-- R12: the group (2, 3, 5) holds blocks 2, 7 and 12, and not 17. -/
theorem test_group_example : ([2, 7, 12, 17, 3].map (⟨2, 3, 5, 1⟩ : GroupEntry).has) = [true, true, true, false, false] := by decide

/-! ### Single steps -/

/-- R73: IADDI over its own source; every lane moves on. -/
theorem test_step_iaddi : (match exec (.iaddi 7 4 4 0x1FF) state0 with
    | .next t => (t.warp? 1 0).elim false fun w => (w.thread 31).reg 4 == 2 && (w.thread 31).pc == 0x40200004
    | _ => false) = true := by decide +kernel

/-- R74: lanes 3 and 17 store to one offset; only lane 17's value is kept. -/
theorem test_highest_lane_wins : let st (l : Lane) : Draft :=
      { lane := l, kind := .winStore 1 false, loc := 0x40, mt := 4, size := 4, cells := cellsAt 0x40 4 l.val }
    (dropOverwritten [st 3, st 17]).map (·.cells.length) = [0, 4] := by decide +kernel

/-- The host's placing of a word: the next step runs it, as the first after reset. -/
theorem test_first_word : decodeTableWord 32 0x338B17FF = some (.iaddi 7 11 11 0x1FF) ∧
    (match step (State.reset.withFetchWord 32 0x338B17FF) with
      | .next t => t.blocks.all fun b => b.warps.all fun w => (w.thread 31).reg 11 == 0xFFFFFFFF
      | _ => false) = true := by decide +kernel

end Sys2Proof.Tests
end

section
/-! What a word's conditions come to: the trap that ranks first, in the lowest lane that meets it
(spec/01_machine_state.md, R34). -/

namespace Sys2Proof.Machine

open Sys2Proof

/-! ### Sets of lanes -/

theorem mask_ext {m n : Mask} (h : ∀ k, inMask m k = inMask n k) : m = n :=
  BitVec.eq_of_getLsbD_eq fun i hi => h ⟨i, hi⟩

theorem inMask_or (m n : Mask) (k : Lane) : inMask (m ||| n) k = (inMask m k || inMask n k) := BitVec.getLsbD_or

theorem inMask_bit (l k : Lane) : inMask (1#32 <<< l.val) k = (k == l) := by
  rw [Bool.eq_iff_iff]
  simp only [inMask, BitVec.getLsbD_shiftLeft, BitVec.getLsbD_one, beq_iff_eq, Fin.ext_iff, Bool.and_eq_true,
    Bool.not_eq_true', decide_eq_false_iff_not, decide_eq_true_eq]
  have hk := k.isLt
  omega

theorem inMask_foldl (f : Lane → Bool) (ls : List Lane) (m : Mask) (k : Lane) :
    inMask (ls.foldl (fun m l => if f l then m ||| (1#32 <<< l.val) else m) m) k = (inMask m k || (ls.contains k && f k)) := by
  induction ls generalizing m with
  | nil => simp
  | cons l ls ih =>
    have hbit : inMask (if f l then m ||| (1#32 <<< l.val) else m) k = (inMask m k || (k == l && f k)) := by
      by_cases hkl : k = l
      · subst hkl
        cases f k <;> simp [inMask_or, inMask_bit]
      · have hb : (k == l) = false := beq_false_of_ne hkl
        cases f l <;> simp [inMask_or, inMask_bit, hb]
    rw [List.foldl_cons, ih, hbit, List.contains_cons, Bool.and_or_distrib_right, Bool.or_assoc]

@[simp] theorem inMask_maskOf (f : Lane → Bool) (k : Lane) : inMask (maskOf f) k = f k := by
  unfold maskOf
  rw [inMask_foldl]
  simp [inMask, mem_allLanes]

/-! ### Lists of conditions -/

theorem firstCause_mem {cs : List (Lane × Cause)} {e : Lane × Cause} (h : firstCause cs = some e) : e ∈ cs := by
  induction cs with
  | nil => cases h
  | cons a rest ih =>
    unfold firstCause at h
    split at h
    · exact Option.some.inj h ▸ List.mem_cons_self
    · next l' c' hr =>
      split at h
      · exact List.mem_cons_of_mem _ (ih (hr.trans h))
      · exact Option.some.inj h ▸ List.mem_cons_self

/-- Of conditions of rank `r` and above, the first is the earliest of rank `r`. -/
theorem firstCause_eq_head {cs : List (Lane × Cause)} {r : Nat} (hr : ∀ e ∈ cs, r ≤ e.2.code.rank) {e : Lane × Cause}
    (he : (cs.filter fun e => e.2.code.rank == r).head? = some e) : firstCause cs = some e := by
  induction cs with
  | nil => cases he
  | cons a rest ih =>
    obtain ⟨l, c⟩ := a
    have hrest : ∀ e ∈ rest, r ≤ e.2.code.rank := fun e h => hr e (List.mem_cons_of_mem _ h)
    unfold firstCause
    by_cases hc : c.code.rank = r
    · have hae : (l, c) = e := by simpa [List.filter_cons, hc] using he
      subst hae
      split
      · rfl
      · next l' c' hf =>
        have hle : r ≤ c'.code.rank := hrest _ (firstCause_mem hf)
        rw [if_neg (by omega)]
    · have hlt : r < c.code.rank := Nat.lt_of_le_of_ne (hr (l, c) List.mem_cons_self) (Ne.symm hc)
      have he' : (rest.filter fun e => e.2.code.rank == r).head? = some e := by
        simpa [List.filter_cons, hc] using he
      have her : e.2.code.rank = r := beq_iff_eq.1 (List.mem_filter.1 (List.mem_of_mem_head? he')).2
      rw [ih hrest he']
      simp [her, hlt]

/-- What the lanes meet, listed in ascending order. -/
def causesOf (f : Lane → Option Cause) : List (Lane × Cause) := allLanes.filterMap fun k => (f k).map fun c => (k, c)

theorem mem_causesOf {f : Lane → Option Cause} {e : Lane × Cause} : e ∈ causesOf f ↔ f e.1 = some e.2 := by
  obtain ⟨l, c⟩ := e
  simp only [causesOf, List.mem_filterMap, Option.map_eq_some_iff, Prod.mk.injEq]
  constructor
  · rintro ⟨k, -, d, hd, rfl, rfl⟩
    exact hd
  · exact fun h => ⟨l, mem_allLanes l, c, h, rfl, rfl⟩

theorem everyLane_eq_causesOf (x : Exec) (c : Cause) :
    x.everyLane c = causesOf fun k => if inMask x.act k then some c else none := by
  unfold Exec.everyLane causesOf lanesIn
  rw [← List.filterMap_eq_map, List.filterMap_filter]
  congr 1
  funext k
  by_cases h : inMask x.act k = true <;> simp [h]

/-- The condition that a lane's result reports, if any. -/
def errorOf {α : Type} : Option (Except Cause α) → Option Cause
  | some (.error c) => some c
  | _ => none

theorem errList_eq_causesOf {α : Type} (v : Vector (Option (Except Cause α)) 32) :
    errList v = causesOf fun k => errorOf v[k] := by
  unfold errList causesOf
  congr 1
  funext k
  dsimp only
  rcases v[k] with _ | _ | _ <;> rfl

theorem laneCauses_eq_errList (v : Vector (Option (Except Cause LaneOut)) 32) : laneCauses v = errList v := by
  unfold laneCauses errList
  congr 1
  funext k
  rcases v[k] with _ | _ | _ <;> rfl

/-! ### The trap that ranks first -/

/-- The lanes of `m` meet the conditions `c`, all of one code, and every other condition ranks after it (R34). -/
structure Foremost (f : Lane → Option Cause) (m : Mask) (code : TrapCode) (c : Lane → Cause) : Prop where
  here : ∀ k, inMask m k = true → f k = some (c k) ∧ (c k).code = code
  later : ∀ k e, inMask m k = false → f k = some e → code.rank < e.code.rank

section
variable {f : Lane → Option Cause} {m : Mask} {code : TrapCode} {c : Lane → Cause} (h : Foremost f m code c)
include h

theorem Foremost.rank_le {e : Lane × Cause} (he : e ∈ causesOf f) : code.rank ≤ e.2.code.rank := by
  have hf := mem_causesOf.1 he
  by_cases hk : inMask m e.1 = true
  · obtain ⟨hs, hc⟩ := h.here _ hk
    have he : e.2.code = code := (congrArg Cause.code (Option.some.inj (hf.symm.trans hs))).trans hc
    exact Nat.le_of_eq (congrArg TrapCode.rank he.symm)
  · exact Nat.le_of_lt (h.later _ _ (Bool.eq_false_iff.2 hk) hf)

/-- The conditions of the leading rank are those of the lanes of `m`. -/
theorem Foremost.filter_rank :
    (causesOf f).filter (fun e => e.2.code.rank == code.rank) = (lanesIn m).map fun k => (k, c k) := by
  unfold causesOf lanesIn
  rw [← List.filterMap_eq_map, List.filterMap_filter, List.filter_filterMap]
  congr 1
  funext k
  by_cases hk : inMask m k = true
  · obtain ⟨hs, hc⟩ := h.here k hk
    simp [hs, hk, hc]
  · have hk' : inMask m k = false := by simpa using hk
    cases hf : f k with
    | none => simp [hk']
    | some e => simp [hk', Nat.ne_of_gt (h.later k e hk' hf)]

/-- The lanes that meet the leading code are those of `m`. -/
theorem Foremost.lanes : (maskOf fun j => (causesOf f).any fun e => e.1 == j && e.2.code == code) = m := by
  refine mask_ext fun k => ?_
  rw [inMask_maskOf, Bool.eq_iff_iff, List.any_eq_true]
  constructor
  · rintro ⟨e, he, hk⟩
    simp only [Bool.and_eq_true, beq_iff_eq] at hk
    obtain ⟨rfl, hcode⟩ := hk
    cases hm : inMask m e.1 with
    | true => rfl
    | false =>
      have hlt := h.later _ _ hm (mem_causesOf.1 he)
      rw [hcode] at hlt
      exact absurd hlt (Nat.lt_irrefl _)
  · intro hk
    obtain ⟨hs, hcode⟩ := h.here k hk
    exact ⟨(k, c k), mem_causesOf.2 hs, by simp [hcode]⟩

/-- The lowest lane's condition of those that rank first is the one that is taken. -/
theorem Foremost.orTrap {x : Exec} (hb : Undisturbed x) {l : Lane} (hl : lowLane m = some l) (ts : List Touch)
    (hd : code = .bkpt ∨ code = .watchpt → x.debugEvents ts = []) (k : Result) :
    x.orTrap (causesOf f) ts k = .next (x.s.takeTrap x.i x.b x.w (c l) l.val m) := by
  have hfirst : firstCause (causesOf f) = some (l, c l) := by
    refine firstCause_eq_head (fun _ => h.rank_le) ?_
    rw [h.filter_rank, List.head?_map, show (lanesIn m).head? = some l from hl]
    rfl
  have hcode : (c l).code = code :=
    (h.here l ((mem_lanesIn m l).1 (List.mem_of_mem_head? hl))).2
  simp only [Exec.orTrap, allCauses_sound hb.sound, hfirst, Exec.trapOn, hcode, h.lanes]
  split
  · next hc => rw [hd hc]; rfl
  · rfl

end

end Sys2Proof.Machine
end

section
/-! Words that name a capability: a check that fails is the word's trap in every active lane, and the word does nothing
else (spec/01_machine_state.md, R24). -/

namespace Sys2Proof.Machine

open Sys2Proof

/-! ### The three checks -/

theorem cap_noEntry {α : Type} {x : Exec} {c : Cap} (he : x.s.capEntry x.b.pn x.b.ctx c.toNat = none) (types : List Nat)
    (obj : CapEntry → Except Cause α) (perm : BitVec 5 → Bool) : x.cap c types obj perm = .error (capBad .capInvalid c) := by
  simp only [Exec.cap, he]

section
variable {α : Type} {x : Exec} {c : Cap} {e : CapEntry} (he : x.s.capEntry x.b.pn x.b.ctx c.toNat = some e)
  {types : List Nat} {obj : CapEntry → Except Cause α} {perm : BitVec 5 → Bool}
include he

theorem cap_badType (ht : e.type ∉ types) : x.cap c types obj perm = .error (capBad .capInvalid c) := by
  simp [Exec.cap, he, ht]

theorem cap_badPerm {a : α} (ht : e.type ∈ types) (ho : obj e = .ok a) (hp : perm e.perms = false) :
    x.cap c types obj perm = .error (capBad .capPerm c) := by
  simp [Exec.cap, he, ht, ho, hp]

theorem cap_ok {a : α} (ht : e.type ∈ types) (ho : obj e = .ok a) (hp : perm e.perms = true) :
    x.cap c types obj perm = .ok (e, a) := by
  simp [Exec.cap, he, ht, ho, hp]

end

theorem verdictOf_error {α : Type} {r : Except Cause α} {j : Cause} (h : verdictOf r = .error j) : r = .error j := by
  cases r with
  | error k => exact congrArg _ (Except.error.inj h)
  | ok a => cases h

/-! ### The trap of a failed check -/

/-- A condition of every active lane is foremost. -/
theorem foremost_everyLane (x : Exec) (c : Cause) :
    Foremost (fun k => if inMask x.act k then some c else none) x.act c.code fun _ => c where
  here k hk := by simp [hk]
  later k e hk hf := by simp [hk] at hf

/-- A condition of every active lane is the word's trap. -/
theorem orTrap_everyLane {x : Exec} (hb : Undisturbed x) {l : Lane} (hl : lowLane x.act = some l) (c : Cause) (k : Result) :
    x.orTrap (x.everyLane c) [] k = .next (x.s.takeTrap x.i x.b x.w c l.val x.act) := by
  rw [everyLane_eq_causesOf]
  exact (foremost_everyLane x c).orTrap hb hl [] (fun _ => bpHits_debugEvents hb.quiet) k

theorem sortBy_of_pairwise {α : Type} {le : α → α → Bool} {l : List α} (h : l.Pairwise fun a b => le a b = true) :
    sortBy le l = l := by
  induction l with
  | nil => rfl
  | cons a l ih =>
    obtain ⟨ha, hl⟩ := List.pairwise_cons.1 h
    show insertBy le a (sortBy le l) = a :: l
    rw [ih hl]
    cases l with
    | nil => rfl
    | cons b l => simp [insertBy, ha b List.mem_cons_self]

theorem inLaneOrder_everyLane (x : Exec) (c : Cause) : inLaneOrder (x.everyLane c) = x.everyLane c := by
  refine sortBy_of_pairwise (List.pairwise_map.2 ?_)
  exact ((List.pairwise_lt_finRange 32).filter _).imp fun h => decide_eq_true (Nat.le_of_lt h)

/-- A failed check of a capability is the word's trap, where no register of it meets a condition. -/
theorem capRest_error {α : Type} {x : Exec} (hb : Undisturbed x) {l : Lane} (hl : lowLane x.act = some l)
    {cap : Except Cause α} {j : Cause} (hc : cap = .error j) (k : List (Lane × Cause) → α → Result) :
    x.capRest [] cap k = .next (x.s.takeTrap x.i x.b x.w j l.val x.act) := by
  simp only [Exec.capRest, List.any_nil, Bool.false_eq_true, if_false, hc, List.append_nil, inLaneOrder_everyLane]
  exact orTrap_everyLane hb hl j _

theorem regCauses_unhindered {x : Exec} {uses : List RegUse} (hu : Unhindered x uses) : x.regCauses (fun _ => uses) = [] := by
  apply filterMap_eq_nil_of
  intro l hl
  rw [hu.regs l ((mem_lanesIn _ _).1 hl)]
  rfl

theorem capRanked_error {α : Type} {x : Exec} {uses : List RegUse} (hu : Unhindered x uses) {l : Lane}
    (hl : lowLane x.act = some l) {cap : Except Cause α} {j : Cause} (hc : cap = .error j)
    (k : List (Lane × Cause) → α → Result) :
    x.capRanked uses cap k = .next (x.s.takeTrap x.i x.b x.w j l.val x.act) := by
  simp only [Exec.capRanked, hu.free, Bool.false_eq_true, if_false, regCauses_unhindered hu]
  exact capRest_error hu.toUndisturbed hl hc k

theorem capOnce_error {α : Type} {x : Exec} {uses : List RegUse} (hu : UnhinderedOnce x uses) {l : Lane}
    (hl : lowLane x.act = some l) {cap : Except Cause α} {j : Cause} (hc : cap = .error j)
    (k : List (Lane × Cause) → α → Result) :
    x.capOnce uses cap k = .next (x.s.takeTrap x.i x.b x.w j l.val x.act) := by
  simp only [Exec.capOnce, hu.free, Bool.false_eq_true, if_false, hu.regs]
  exact capRest_error hu.toUndisturbed hl hc k

/-! ### The words by their shapes -/

section
variable {s : State} {g : PReg} {x : Exec} {l : Lane} (h : Issuing s (some g) x) (hl : lowLane x.act = some l)
  {d a b : VReg} {c : Cap} {j : Cause}
include h hl

/-- A word of each lane whose body is its capability's check. -/
theorem withWord_capRanked_error {α : Type} {uses : Exec → List RegUse} {cap : Exec → Except Cause α}
    {k : Exec → List (Lane × Cause) → α → Result} (hu : Unhindered x (uses x)) (hj : verdictOf (cap x) = .error j) :
    (withWord s (some g) fun x => x.capRanked (uses x) (cap x) (k x)) =
      .next (s.takeTrap x.i x.b x.w j l.val x.act) := by
  rw [withWord_issuing h, capRanked_error hu hl (verdictOf_error hj), h.state]

/-- A word that acts once whose body is its capability's check. -/
theorem withWord_capOnce_error {α : Type} {uses : Exec → List RegUse} {cap : Exec → Except Cause α}
    {k : Exec → List (Lane × Cause) → α → Result} (hu : UnhinderedOnce x (uses x)) (hj : verdictOf (cap x) = .error j) :
    (withWord s (some g) fun x => x.capOnce (uses x) (cap x) (k x)) =
      .next (s.takeTrap x.i x.b x.w j l.val x.act) := by
  rw [withWord_issuing h, capOnce_error hu hl (verdictOf_error hj), h.state]

theorem barWord_error {uses : List RegUse} {perm : BitVec 5 → Bool}
    {go : Exec → CapEntry → Target → BarRef → Nat → Result}
    (hu : UnhinderedOnce x (src2 a :: uses)) (hj : verdictOf (x.cap c [capGroup, capBlock] (x.target c) perm) = .error j) :
    barWord s g a c uses perm go = .next (s.takeTrap x.i x.b x.w j l.val x.act) := by
  unfold barWord
  exact withWord_capOnce_error h hl (uses := fun _ => src2 a :: uses) hu hj

theorem arriveWord_error {count : Nat → Nat} (hu : UnhinderedOnce x [src2 a, dst1 d])
    (hj : verdictOf (x.cap c [capGroup, capBlock] (x.target c) (permAll permSend)) = .error j) :
    arriveWord s g d a c count = .next (s.takeTrap x.i x.b x.w j l.val x.act) := by
  unfold arriveWord
  exact barWord_error h hl hu hj

theorem arriveWaitWord_error {count : Nat → Nat} (hu : UnhinderedOnce x [src2 a, dst1 d])
    (hj : verdictOf (x.cap c [capGroup, capBlock] (x.target c) (permAll (permSend ||| permWait))) = .error j) :
    arriveWaitWord s g d a c count = .next (s.takeTrap x.i x.b x.w j l.val x.act) := by
  unfold arriveWaitWord
  exact barWord_error h hl hu hj

/-- WAITF and POLL. -/
theorem flagWord_error {uses : List RegUse} {np : Bool} {k : WaitCond}
    {go : Exec → Target → Bool → List (Lane × Watch) → Result} (hu : Unhindered x uses)
    (hj : verdictOf (x.cap c targetTypes (x.target c) (permAll permWait)) = .error j) :
    (withWord s (some g) fun x => flagWord x uses a b c np k go) = .next (s.takeTrap x.i x.b x.w j l.val x.act) := by
  unfold flagWord
  exact withWord_capRanked_error h hl (uses := fun _ => uses) hu hj

theorem lockWord_error {write : Bool} (hu : Unhindered x [])
    (hj : verdictOf (x.cap c [capLock] (x.lockWait c) (permAll (permWait ||| permRecv))) = .error j) :
    lockWord s g c write = .next (s.takeTrap x.i x.b x.w j l.val x.act) := by
  unfold lockWord
  exact withWord_capRanked_error h hl (uses := fun _ => []) hu hj

theorem unlockWord_error {ok : Exec → Nat → Bool} {upd : Nat → Nat} (hu : Unhindered x [])
    (hj : verdictOf (x.cap c [capLock] (x.lockObj c) (permAll permSend)) = .error j) :
    unlockWord s g c ok upd = .next (s.takeTrap x.i x.b x.w j l.val x.act) := by
  unfold unlockWord
  exact withWord_capRanked_error h hl (uses := fun _ => []) hu hj

theorem tryWord_error {write : Bool} (hu : Unhindered x [dst1 d])
    (hj : verdictOf (x.cap c [capLock] (x.lockObj c) (permAll permRecv)) = .error j) :
    tryWord s g d c write = .next (s.takeTrap x.i x.b x.w j l.val x.act) := by
  unfold tryWord
  exact withWord_capRanked_error h hl (uses := fun _ => [dst1 d]) hu hj

theorem enqWord_error {timed : Bool} (hu : Unhindered x [⟨if timed then .quad else .pair, a, .src⟩, dst1 d])
    (hj : allowanceOf x c (x.cap c [capQueue] (x.queueObj c .readWrite (·.tail) (enqCount x.actCount)) (permAll permSend)) =
      .error j) :
    enqWord s g d a c timed = .next (s.takeTrap x.i x.b x.w j l.val x.act) := by
  unfold enqWord
  rw [withWord_issuing h, ← h.state]
  refine capRanked_error hu hl ?_ _
  dsimp only
  generalize x.cap c [capQueue] (x.queueObj c .readWrite (·.tail) (enqCount x.actCount)) (permAll permSend) = r at hj ⊢
  cases r with
  | error k => exact congrArg _ (Except.error.inj hj)
  | ok e =>
    by_cases ha : e.1.allow ≠ 0xFFFFFFFF ∧ e.1.allow.toNat < x.actCount
    · exact (if_pos ha).trans (congrArg _ (Except.error.inj ((if_pos ha).symm.trans hj)))
    · exact absurd ((if_neg ha).symm.trans hj) nofun

theorem deqWord_error {a : Option VReg}
    (hu : Unhindered x (⟨if a.isSome then .quad else .pair, d, .dst⟩ :: a.elim [] fun a => [src2 a]))
    (hj : verdictOf (x.cap c [capQueue] (x.queueObj c .readWrite (·.head) fun q => min x.actCount q.len)
      (permAll (permRecv ||| permWait))) = .error j) :
    deqWord s g d a c = .next (s.takeTrap x.i x.b x.w j l.val x.act) := by
  unfold deqWord
  rw [withWord_issuing h, ← h.state]
  exact capRanked_error hu hl (verdictOf_error hj) _

theorem copyWord_error {kind : Nat} (hu : UnhinderedOnce x [src1 a, dst1 d])
    (hj : verdictOf (x.cap c [capRing]
      (x.ringObj c .readWrite fun r => x.s.recordLoc (some x.b.core) x.b.pn x.b.ctx r r.next) (permAll permSend)) = .error j) :
    copyWord s g d a c kind = .next (s.takeTrap x.i x.b x.w j l.val x.act) := by
  unfold copyWord
  exact withWord_capOnce_error h hl (uses := fun _ => [src1 a, dst1 d]) hu hj

theorem contWord_error {op : ContOp} (hu : Unhindered x [src2 a, src2 b, dst1 (b + 1)])
    (hj : verdictOf (x.cap c [capCard] noObject (permAll permLaunch)) = .error j) :
    contWord s g a b c op = .next (s.takeTrap x.i x.b x.w j l.val x.act) := by
  unfold contWord
  exact withWord_capRanked_error h hl (uses := fun _ => [src2 a, src2 b, dst1 (b + 1)]) hu hj

end

/-! ### Every word that names a capability -/

/-- A row of `capWords`: where nothing hinders the word, a failed check is its trap in the active lanes. -/
def TrapsOnError (s : State) (x : Exec) (l : Lane) (p : Instr × List RegUse × Bool × Except Cause Unit) : Prop :=
  (if p.2.2.1 then UnhinderedOnce x p.2.1 else Unhindered x p.2.1) → ∀ j, p.2.2.2 = .error j →
    exec p.1 s = .next (s.takeTrap x.i x.b x.w j l.val x.act)

/-- Every word that names a capability runs nothing before its check. -/
theorem capWords_trapOnError {s : State} {g : PReg} {x : Exec} {l : Lane} (h : Issuing s (some g) x)
    (hl : lowLane x.act = some l) (d a b : VReg) (c : Cap) (np : Bool) (k : WaitCond) :
    ∀ p ∈ capWords x g d a b c np k, TrapsOnError s x l p := by
  simp only [capWords, List.forall_mem_cons]
  exact ⟨fun hu _ hj => show execBara g d a c s = _ from arriveWord_error h hl hu hj,
    fun hu _ hj => show execBarx g d a c s = _ from arriveWord_error h hl hu hj,
    fun hu _ hj => show execBarw g d a c s = _ from barWord_error h hl hu hj,
    fun hu _ hj => show execBaraw g d a c s = _ from arriveWaitWord_error h hl hu hj,
    fun hu _ hj => show execBarxw g d a c s = _ from arriveWaitWord_error h hl hu hj,
    fun hu _ hj => show execBarst g d a c s = _ from barWord_error h hl hu hj,
    fun hu _ hj => show execWaitf g a b c np k s = _ from flagWord_error h hl hu hj,
    fun hu _ hj => show execPoll g a b c np k s = _ from flagWord_error h hl hu hj,
    fun hu _ hj => show execRlock g c s = _ from lockWord_error h hl hu hj,
    fun hu _ hj => show execWlock g c s = _ from lockWord_error h hl hu hj,
    fun hu _ hj => show execRunlk g c s = _ from unlockWord_error h hl hu hj,
    fun hu _ hj => show execWunlk g c s = _ from unlockWord_error h hl hu hj,
    fun hu _ hj => show execRtry g d c s = _ from tryWord_error h hl hu hj,
    fun hu _ hj => show execWtry g d c s = _ from tryWord_error h hl hu hj,
    fun hu _ hj => show execEnq g d a c s = _ from enqWord_error h hl hu hj,
    fun hu _ hj => show execEnqt g d a c s = _ from enqWord_error h hl hu hj,
    fun hu _ hj => show execDeq g d c s = _ from deqWord_error h hl hu hj,
    fun hu _ hj => show execDeqt g d a c s = _ from deqWord_error h hl hu hj,
    fun hu _ hj => show execQlen g d c s = _ from withWord_capRanked_error (uses := fun _ => [dst1 d]) h hl hu hj,
    fun hu _ hj => show execCpy g d a c s = _ from copyWord_error h hl hu hj,
    fun hu _ hj => show execCpyt g d a c s = _ from copyWord_error h hl hu hj,
    fun hu _ hj => show execCpyim g d a c s = _ from copyWord_error h hl hu hj,
    fun hu _ hj => show execCpyg g d a c s = _ from copyWord_error h hl hu hj,
    fun hu _ hj => show execCtok g d a c s = _ from withWord_capRanked_error (uses := fun _ => [src1 a, dst1 d]) h hl hu hj,
    fun hu _ hj => show execCsleep g d a c s = _ from withWord_capRanked_error (uses := fun _ => [src4 a, dst1 d]) h hl hu hj,
    fun hu _ hj => show execCard g d a c s = _ from withWord_capOnce_error (uses := fun _ => [src1 a, dst1 d]) h hl hu hj,
    fun hu _ hj => show execDeal g d c s = _ from withWord_capOnce_error (uses := fun _ => [dst2 d]) h hl hu hj,
    fun hu _ hj => show execReord g a c s = _ from withWord_capRanked_error (uses := fun _ => [src4 a]) h hl hu hj,
    fun hu _ hj => show execCasc g a b c s = _ from contWord_error h hl hu hj,
    fun hu _ hj => show execIncc g a b c s = _ from contWord_error h hl hu hj,
    fun hu _ hj => show execMinc g a b c s = _ from contWord_error h hl hu hj,
    List.forall_mem_nil _⟩

/-- Settles O55: the three checks are `Exec.cap`'s own order, and the body of every word that names a capability is its
check, which `capRest` turns into the trap before anything else is done. -/
theorem capabilityTraps : Obligations.CapabilityTraps := by
  unfold Obligations.CapabilityTraps
  refine ⟨fun x c types obj perm => ⟨fun he => cap_noEntry he types obj perm, fun e he => ?_⟩, ?_⟩
  · exact ⟨cap_badType he, cap_badPerm he, cap_ok he⟩
  · intro s g d a b c np k x l h hl p hp
    exact capWords_trapOnError h hl d a b c np k p hp

end Sys2Proof.Machine
end

section
/-! Groups: which blocks a group holds, and how a launch with a block in too many groups is refused
(spec/01_machine_state.md, R12; spec/18_launch_contexts_faults.md, R336). -/

namespace Sys2Proof.Machine

open Sys2Proof

/-! ### Membership -/

theorem GroupEntry.has_of_count_zero {e : GroupEntry} (h : e.count = 0) (b : Nat) : e.has b = false := by
  simp [GroupEntry.has, h]

theorem GroupEntry.has_iff (e : GroupEntry) (b : Nat) : e.has b = true ↔
    (e.stride ≠ 0 ∧ e.first ≤ b ∧ e.stride ∣ (b - e.first) ∧ (b - e.first) / e.stride < e.count) ∨
    (e.stride = 0 ∧ e.count ≠ 0 ∧ b = e.first) := by
  by_cases hc : e.count = 0
  · simp [GroupEntry.has_of_count_zero hc, hc]
  · by_cases hs : e.stride = 0
    · simp [GroupEntry.has, hc, hs]
    · simp [GroupEntry.has, hc, hs, Nat.dvd_iff_mod_eq_zero, and_assoc]

/-- The indices of a list, each with its element, rise. -/
theorem pairwise_mapIdx_fst {α : Type} (l : List α) : (l.mapIdx fun i a => (i, a)).Pairwise fun p q => p.1 < q.1 := by
  rw [List.pairwise_iff_getElem]
  intro i j hi hj hij
  simpa using hij

theorem Launch.groupsOf_rises (l : Launch) (k : Nat) : (l.groupsOf k).Pairwise (· < ·) := by
  unfold Launch.groupsOf
  exact List.pairwise_map.2 ((pairwise_mapIdx_fst l.groups).filter _)

theorem Launch.mem_groupsOf (l : Launch) (k g : Nat) :
    g ∈ l.groupsOf k ↔ ∃ e, l.groups[g]? = some e ∧ e.has k = true := by
  simp only [Launch.groupsOf, List.mem_map, List.mem_filter, List.mem_mapIdx]
  constructor
  · rintro ⟨_, ⟨⟨i, hi, rfl⟩, hk⟩, rfl⟩
    exact ⟨l.groups[i], List.getElem?_eq_getElem hi, hk⟩
  · rintro ⟨e, he, hk⟩
    obtain ⟨hi, rfl⟩ := List.getElem?_eq_some_iff.1 he
    exact ⟨(g, l.groups[g]), ⟨⟨g, hi, rfl⟩, hk⟩, rfl⟩

theorem Launch.length_groupsOf (l : Launch) (k : Nat) :
    (l.groupsOf k).length = (l.groups.filter fun g => g.has k).length := by
  unfold Launch.groupsOf
  have h : (l.groups.mapIdx fun i g => (i, g)).map (·.2) = l.groups := List.ext_getElem (by simp) (by simp)
  rw [List.length_map, ← List.countP_eq_length_filter, ← List.countP_eq_length_filter]
  calc (l.groups.mapIdx fun i g => (i, g)).countP (fun e => e.2.has k)
      = ((l.groups.mapIdx fun i g => (i, g)).map (·.2)).countP (fun g => g.has k) :=
        (List.countP_map (p := fun g : GroupEntry => g.has k) (f := Prod.snd)).symm
    _ = l.groups.countP (fun g => g.has k) := by rw [h]

/-- A block in more than four groups breaks the launch. -/
theorem Launch.groupsOk_eq_false {l : Launch} {k : Nat} (hk : k < l.nblk) (hg : 4 < (l.groupsOf k).length) :
    l.groupsOk = false := by
  rw [Launch.groupsOk, List.all_eq_false]
  exact ⟨k, List.mem_range.2 hk, by simpa [← Launch.length_groupsOf] using hg⟩

/-! ### What a refusal leaves: the launches, and the numbers of the blocks -/

/-- `t` has the launches of `s`, and blocks of the same numbers. -/
structure KeepsRoster (s t : State) : Prop where
  launches : t.launches = s.launches
  bids : t.blocks.map (·.bid) = s.blocks.map (·.bid)

theorem KeepsRoster.refl (s : State) : KeepsRoster s s := ⟨rfl, rfl⟩

theorem KeepsRoster.trans {s t u : State} (h : KeepsRoster s t) (k : KeepsRoster t u) : KeepsRoster s u :=
  ⟨k.launches.trans h.launches, k.bids.trans h.bids⟩

theorem KeepsRoster.foldl {α : Type} (f : State → α → State) (hf : ∀ s a, KeepsRoster s (f s a)) (l : List α)
    (s : State) : KeepsRoster s (l.foldl f s) := by
  induction l generalizing s with
  | nil => exact .refl s
  | cons a l ih => exact (hf s a).trans (ih _)

theorem modBlock_keepsRoster (s : State) (bid : Nat) (f : Block → Block) (hf : ∀ b, (f b).bid = b.bid) :
    KeepsRoster s (s.modBlock bid f) := by
  refine ⟨rfl, ?_⟩
  simp only [State.modBlock, List.map_map]
  refine List.map_congr_left fun b _ => ?_
  simp only [Function.comp_apply]
  split <;> simp [hf]

theorem modLanes_keepsRoster (s : State) (bid w : Nat) (m : Mask) (f : Thread → Thread) :
    KeepsRoster s (s.modLanes bid w m f) :=
  modBlock_keepsRoster s bid _ fun _ => rfl

theorem unhold_keepsRoster (s : State) : KeepsRoster s s.unhold := by
  refine ⟨rfl, ?_⟩
  simp [State.unhold, Function.comp_def]

theorem drawPick_keepsRoster (s : State) (n : Nat) : KeepsRoster s (s.drawPick n).2 := by
  unfold State.drawPick
  split <;> exact ⟨rfl, rfl⟩

/-! ### Writes to memory and to the fault log -/

theorem recall_keepsRoster (s : State) (line : Nat) : KeepsRoster s (s.recall line) := by
  unfold State.recall
  split <;> exact ⟨rfl, rfl⟩

theorem openHome_keepsRoster (s : State) (loc n : Nat) : KeepsRoster s (s.openHome loc n) :=
  (KeepsRoster.foldl State.recall recall_keepsRoster _ s).trans ⟨rfl, rfl⟩

theorem touchSlots_keepsRoster (s : State) (loc n : Nat) : KeepsRoster s (s.touchSlots loc n) := by
  refine KeepsRoster.foldl _ (fun s b => ?_) _ s
  have hb : KeepsRoster s (s.modBlock b.bid fun b => { b with eng := freeEngineCtx s.free }) :=
    modBlock_keepsRoster s b.bid _ fun _ => rfl
  exact ⟨hb.launches, hb.bids⟩

theorem failedAt_keepsRoster (s : State) (loc : Nat) : KeepsRoster s (s.failedAt loc) := by
  unfold State.failedAt
  repeat' split
  all_goals exact ⟨rfl, rfl⟩

theorem writeOwn_keepsRoster (s : State) (loc n : Nat) (cs : List Host.Cell) : KeepsRoster s (s.writeOwn loc n cs) := by
  unfold State.writeOwn
  split
  · have hc : KeepsRoster (s.openHome loc n) ((s.openHome loc n).storeCells cs) := ⟨rfl, rfl⟩
    exact ((openHome_keepsRoster s loc n).trans hc).trans (touchSlots_keepsRoster _ loc n)
  · exact failedAt_keepsRoster s loc

theorem storeHome_keepsRoster (s : State) (core x n v : Nat) : KeepsRoster s (s.storeHome core x n v) := by
  have hf : KeepsRoster s (s.forgetLine core (x / 64)) := ⟨rfl, rfl⟩
  exact hf.trans (writeOwn_keepsRoster _ x n _)

theorem flog_keepsRoster (s : State) (pn ctx : Nat) (e : FaultEntry) : KeepsRoster s (s.flog pn ctx e) := by
  unfold State.flog
  dsimp only
  split
  · exact ⟨rfl, rfl⟩
  · generalize hu : s.writeOwn _ _ _ = u
    have hw : KeepsRoster s u := hu ▸ writeOwn_keepsRoster ..
    exact ⟨hw.launches, hw.bids⟩

theorem writeBack_keepsRoster (s : State) (c : CopyLine) : KeepsRoster s (writeBack s c) := by
  unfold writeBack
  split
  · exact .refl s
  · split
    · exact ⟨rfl, rfl⟩
    · exact failedAt_keepsRoster ..

theorem sysRelease_keepsRoster (s : State) (die pn ctx : Nat) : KeepsRoster s (s.sysRelease die pn ctx) :=
  (KeepsRoster.foldl writeBack writeBack_keepsRoster _ s).trans ⟨rfl, rfl⟩

theorem writeDone_keepsRoster (s : State) (l : Launch) (status reason : Nat) :
    KeepsRoster s (s.writeDone l status reason) := by
  have hr := KeepsRoster.foldl (fun s d => s.sysRelease d l.pn l.ctx) (fun s d => sysRelease_keepsRoster s d l.pn l.ctx)
    (s.diesOf l.pn) s
  unfold State.writeDone
  generalize (s.diesOf l.pn).foldl (fun s d => s.sysRelease d l.pn l.ctx) s = u at hr ⊢
  have hw : KeepsRoster s (if l.done = 0 then u else
      match u.translate none l.pn l.ctx l.done.toNat .write with
      | .error _ => u
      | .ok p => u.writeOwn p.loc 16 (cellsAt p.loc 8 u.gt ++ cellsAt (p.loc + 8) 8 (status + 2 ^ 8 * reason))) := by
    split
    · exact hr
    · split
      · exact hr
      · exact hr.trans (writeOwn_keepsRoster ..)
  dsimp only
  split
  · exact hw.trans ⟨rfl, rfl⟩
  · exact hw

/-! ### Lock words -/

theorem withdrawWq_keepsRoster (s : State) (g : SleepGroup) : KeepsRoster s (s.withdrawWq g) := by
  unfold State.withdrawWq
  split
  · exact (modLanes_keepsRoster ..).trans (storeHome_keepsRoster ..)
  · exact .refl s

theorem pokeLocks_keepsRoster (n : Nat) (s : State) : KeepsRoster s (pokeLocks n s) := by
  induction n generalizing s with
  | zero => exact .refl s
  | succ n ih =>
    unfold pokeLocks
    have hd := drawPick_keepsRoster s s.lockReady.length
    dsimp only
    split
    · exact hd
    · split
      · exact ((hd.trans (modLanes_keepsRoster ..)).trans (storeHome_keepsRoster ..)).trans (ih _)
      · exact hd

theorem settleLocks_keepsRoster (s : State) : KeepsRoster s s.settleLocks :=
  (KeepsRoster.foldl State.withdrawWq withdrawWq_keepsRoster _ s).trans (pokeLocks_keepsRoster _ _)

/-! ### The refusal -/

theorem State.refusal_groups {s : State} {l : Launch} (hf : l.fault ≠ some 1) (hlo : 1 ≤ l.cls) (hhi : l.cls ≤ 3)
    (hc : ∃ c, s.ctx? l.pn l.ctx = some c ∧ c.valid = true)
    (hk : ∀ j ∈ s.launches, j.pn = l.pn → j.ctx = l.ctx → j.kern = l.kern → j.lid = l.lid ∨ j.live = false)
    (hg : l.groupsOk = false) : s.refusal l = some 5 := by
  obtain ⟨c, hc, hv⟩ := hc
  have hcls : ¬ (l.cls = 0 ∨ 3 < l.cls) := by omega
  have hnum : (s.launches.any fun k =>
      k.pn == l.pn && k.ctx == l.ctx && k.lid != l.lid && k.live && k.kern == l.kern) = false := by
    rw [List.any_eq_false]
    intro j hj hc
    simp only [Bool.and_eq_true, beq_iff_eq, bne_iff_ne] at hc
    obtain ⟨⟨⟨⟨hpn, hctx⟩, hlid⟩, hlive⟩, hkern⟩ := hc
    rcases hk j hj hpn hctx hkern with h | h
    · exact hlid h
    · simp [h] at hlive
  simp only [State.refusal, hf, hcls, hc, hv, hnum, hg, if_false, Option.elim_some, Bool.not_true, Bool.false_eq_true,
    Bool.not_false, or_true, if_true]

/-- Changes of the launches that keep their numbers leave each to be found by its number. -/
theorem find?_map_lid (f : Launch → Launch) (hf : ∀ k, (f k).lid = k.lid) (ls : List Launch) (lid : Nat) :
    (ls.map f).find? (fun k => k.lid == lid) = (ls.find? fun k => k.lid == lid).map f := by
  rw [List.find?_map]
  congr 2
  funext k
  simp [hf]

theorem State.launch?_modLaunch {s : State} {lid : Nat} (f : Launch → Launch) (hf : ∀ k, (f k).lid = k.lid) :
    (s.modLaunch lid f).launch? lid = (s.launch? lid).map f := by
  unfold State.modLaunch State.launch?
  rw [find?_map_lid _ fun k => by split <;> simp [hf]]
  cases hl : s.launches.find? fun k => k.lid == lid with
  | none => rfl
  | some k =>
    have hk := List.find?_some hl
    simp_all

/-- A launch that is known no more is as it was when its queue's head has passed. -/
theorem State.launch?_headPassed {s : State} {l k : Launch} {lid : Nat} (h : s.launch? lid = some k) (hk : k.state ≠ .known) :
    (s.headPassed l).launch? lid = some k := by
  unfold State.headPassed State.launch?
  rw [find?_map_lid _ fun k => by split <;> rfl]
  rw [State.launch?] at h
  simp [h, hk]

/-- A launch refused with reason r at time gt (R336). -/
def Launch.refusedFor (r gt : Nat) (l : Launch) : Launch := { l with state := .refused, fault := some r, endGt := gt }

/-- A launch that becomes ready with a reason against it is refused with that reason, and no block is placed. -/
theorem execLaunchReady_refused {s : State} {l : Launch} {r : Nat} (h : s.launch? l.lid = some l) (hn : s.readyNow l = true)
    (hr : s.refusal l = some r) : ∃ t : State, exec (.launchReady l.lid) s = .next t ∧
      t.launch? l.lid = some (l.refusedFor r s.gt) ∧ t.blocks.map (·.bid) = s.blocks.map (·.bid) := by
  let u := (s.modLaunch l.lid (Launch.refusedFor r s.gt)).headPassed l
  have hu : u.launch? l.lid = some (l.refusedFor r s.gt) := by
    refine State.launch?_headPassed ?_ (by simp [Launch.refusedFor])
    rw [State.launch?_modLaunch (Launch.refusedFor r s.gt) fun _ => rfl, h]
    rfl
  have hk : KeepsRoster u ((u.writeDone l 2 r).refuse l.pn l.ctx r l.packetAddr l.kern).settleLocks.unhold :=
    (((writeDone_keepsRoster u l 2 r).trans (flog_keepsRoster ..)).trans (settleLocks_keepsRoster _)).trans
      (unhold_keepsRoster _)
  refine ⟨_, ?_, ?_, hk.bids⟩
  · show execLaunchReady l.lid s = _
    simp only [execLaunchReady, h, hn, if_true, hr]
    rfl
  · rw [State.launch?, hk.launches]
    exact hu

/-- Settles O53: `GroupEntry.has` is R12's rule with its two special cases, and the launch's refusal with reason 5 keeps the
roster of blocks. -/
theorem groupMembership : Obligations.GroupMembership := by
  unfold Obligations.GroupMembership
  refine ⟨GroupEntry.has_iff, fun e b h => GroupEntry.has_of_count_zero h b,
    fun l k => ⟨l.groupsOf_rises k, l.mem_groupsOf k⟩, fun _ _ _ _ _ _ => ⟨rfl, rfl⟩, ?_⟩
  intro s l k h hn hk hg hf hlo hhi hc hj
  exact execLaunchReady_refused h hn
    (State.refusal_groups hf hlo hhi hc hj (Launch.groupsOk_eq_false hk hg))

end Sys2Proof.Machine
end

section
/-! Misaligned accesses: MEM_ALIGN ranks before every other condition that an access of a lane without a bound port meets,
but for a capability to peer memory (spec/01_machine_state.md, R32, R34). -/

namespace Sys2Proof.Machine

open Sys2Proof

/-! ### Lanes without a bound port -/

/-- No stream port of the thread is bound. -/
def Portless (t : Thread) : Prop := ∀ n, t.boundPort n = none

theorem Portless.pass {t : Thread} (h : Portless t) (n : Nat) : Portless (t.pass n) := h

section
variable {x : Exec} {t : Thread} (h : Portless t)
include h

theorem Portless.get1 (r : VReg) : x.get1 t r = .ok (t.reg r, t) := by simp [Exec.get1, h r.toNat]

theorem Portless.put1 (r : VReg) (v : Word) : x.put1 t r v = .ok ⟨t.setReg r v, []⟩ := by simp [Exec.put1, h r.toNat]

theorem Portless.checkDst (d : VReg) : checkDst x t d = .ok () := by simp [Machine.checkDst, h d.toNat]

theorem Portless.readData (z : Size) (d : VReg) : ∃ v, readData x t z d = .ok (v, t) := by
  cases z <;> simp [Machine.readData, h.get1]

theorem Portless.putData (z : Size) (d : VReg) (v : Nat) : ∃ out, putData x t z d v = .ok out := by
  cases z <;> simp [Machine.putData, h.put1]

theorem Portless.portCauses (uses : List RegUse) : x.portCauses uses t = [] := by
  induction uses with
  | nil => rfl
  | cons u us ih => simp [Exec.portCauses, h u.r.toNat, ih]

theorem Portless.ranked {α : Type} (uses : List RegUse) (r : Except Cause α) : x.ranked uses t r = r := by
  cases r <;> simp [Exec.ranked, h.portCauses]

end

/-! ### An access whose alignment is checked first -/

/-- `r` is what an access of `size` bytes at address `n` comes to: MEM_ALIGN with the address where it is misaligned, else
only what ranks after MEM_ALIGN. -/
structure AlignFirst {α : Type} (size n : Nat) (r : Except Cause α) : Prop where
  odd : n % size ≠ 0 → r = .error { code := .memAlign, addr := BitVec.ofNat 64 n }
  even : n % size = 0 → ∀ e, r = .error e → TrapCode.memAlign.rank < e.code.rank

/-- What follows an access whose alignment is checked first meets only what ranks after it. -/
theorem AlignFirst.bind {α β : Type} {size n : Nat} {r : Except Cause α} {q : Except Cause β} (h : AlignFirst size n r)
    (he : ∀ e, r = .error e → q = .error e)
    (ho : ∀ a, r = .ok a → ∀ e, q = .error e → TrapCode.memAlign.rank < e.code.rank) : AlignFirst size n q where
  odd hn := he _ (h.odd hn)
  even hn e hq := by
    cases hr : r with
    | error k =>
      rw [he k hr] at hq
      exact Except.error.inj hq ▸ h.even hn k hr
    | ok a => exact ho a hr e hq

theorem peerCheck_error {s : State} {pn ctx va pte : Nat} {n : Need} {e : Cause} (h : s.peerCheck pn ctx va pte n = .error e) :
    e.code = .capInvalid ∨ e.code = .capPerm ∨ e.code = .memPerm := by
  simp only [State.peerCheck] at h
  repeat' split at h
  all_goals cases h <;> simp

theorem peerXlat_error {s : State} {pn ctx va pte : Nat} {n : Need} {e : Cause} (h : s.peerXlat pn ctx va pte n = .error e) :
    e.code = .capInvalid ∨ e.code = .capPerm ∨ e.code = .memPerm := by
  unfold State.peerXlat at h
  split at h
  · next c hc => exact Except.error.inj h ▸ peerCheck_error hc
  · split at h
    · cases h
    · cases h; simp

/-- What translation can answer instead of a location. -/
theorem translate_error {s : State} {core : Option Nat} {pn ctx va : Nat} {n : Need} {e : Cause}
    (h : s.translate core pn ctx va n = .error e) :
    e.code = .xlate ∨ e.code = .capInvalid ∨ e.code = .capPerm ∨ e.code = .memPerm := by
  simp only [State.translate] at h
  split at h
  · cases h; simp
  split at h
  · split at h <;> cases h
    simp
  split at h
  · cases h; simp
  split at h
  · cases h; simp
  split at h
  · cases h; simp
  split at h
  · exact .inr (peerXlat_error h)
  split at h
  · cases h; simp
  split at h <;> cases h
  simp

theorem checkGlobal_alignFirst {x : Exec} {va : DWord} {size : Nat} {n : Need}
    (h : ∀ e, x.s.translate (some x.b.core) x.b.pn x.b.ctx va.toNat n = .error e →
      e.code ≠ .capInvalid ∧ e.code ≠ .capPerm) :
    AlignFirst size va.toNat (checkGlobal x va size n) := by
  have hlate : ∀ e, x.s.translate (some x.b.core) x.b.pn x.b.ctx va.toNat n = .error e →
      TrapCode.memAlign.rank < e.code.rank := by
    intro e he
    obtain ⟨hi, hp⟩ := h e he
    rcases translate_error he with hc | hc | hc | hc
    · rw [hc]; decide
    · exact absurd hc hi
    · exact absurd hc hp
    · rw [hc]; decide
  constructor
  · intro hn
    simp only [checkGlobal, if_pos hn, Cause.orEarlier, BitVec.ofNat_toNat, BitVec.setWidth_eq]
    split
    · next k hk => rw [if_neg (Nat.lt_asymm (hlate k hk))]
    · rfl
  · intro hn e he
    rw [checkGlobal, if_neg (not_not_intro hn)] at he
    exact hlate e he

theorem resolveLocal_error {s : State} {b : Block} {addr size : Nat} {e : Cause} (h : s.resolveLocal b addr size = .error e) :
    e.code = .memPerm := by
  simp only [State.resolveLocal] at h
  repeat' split at h
  all_goals cases h <;> rfl

theorem checkLocal_alignFirst (s : State) (b : Block) (addr size : Nat) : AlignFirst size addr (s.checkLocal b addr size) where
  odd hn := if_pos hn
  even hn e he := by
    rw [State.checkLocal, if_neg (not_not_intro hn)] at he
    rw [resolveLocal_error he]
    decide

theorem readWin_error {s : State} {bid off n addr : Nat} {e : Cause} (h : s.readWin bid off n addr = .error e) :
    e.code = .ecc := by
  unfold State.readWin at h
  split at h
  · rw [← Except.error.inj h]
  · cases h

/-! ### The lanes of the memory words -/

section
variable {x : Exec} {t : Thread} (hp : Portless t) {d b : VReg} {z : Size} {o : BitVec 5} {l : Lane}
include hp

theorem loadLane_alignFirst (k : AccKind)
    (h : ∀ e, x.s.translate (some x.b.core) x.b.pn x.b.ctx (gaddr x t b o (sizeBytes z)).toNat .read = .error e →
      e.code ≠ .capInvalid ∧ e.code ≠ .capPerm) :
    AlignFirst (sizeBytes z) (gaddr x t b o (sizeBytes z)).toNat (loadLane x d b z o k l t) := by
  refine (checkGlobal_alignFirst h).bind (fun e he => ?_) fun p hok e hq => ?_
  · simp [loadLane, hp.checkDst, he]
  · simp [loadLane, hp.checkDst, hok] at hq

theorem storeLane_alignFirst (k : AccKind)
    (h : ∀ e, x.s.translate (some x.b.core) x.b.pn x.b.ctx (gaddr x t b o (sizeBytes z)).toNat .write = .error e →
      e.code ≠ .capInvalid ∧ e.code ≠ .capPerm) :
    AlignFirst (sizeBytes z) (gaddr x t b o (sizeBytes z)).toNat (storeLane x d b z o k l t) := by
  obtain ⟨v, hv⟩ := hp.readData (x := x) z d
  refine (checkGlobal_alignFirst h).bind (fun e he => ?_) fun p hok e hq => ?_
  · simp [storeLane, hv, he]
  · simp [storeLane, hv, hok] at hq

/-- The window a lane names, its base read from a register. -/
theorem localAt_alignFirst :
    AlignFirst (sizeBytes z) (laddr x (t.reg b) o (sizeBytes z)) (localAt x t b o z) := by
  refine (checkLocal_alignFirst x.s x.b _ _).bind (fun e he => ?_) fun p hok e hq => ?_
  · simp [localAt, hp.get1, he]
  · simp [localAt, hp.get1, hok] at hq

theorem localAt_thread {u : Thread} {wb off : Nat} (h : localAt x t b o z = .ok (u, wb, off)) : u = t := by
  simp only [localAt, hp.get1] at h
  split at h
  · cases h
  · exact (congrArg Prod.fst (Except.ok.inj h)).symm

theorem ldlLane_alignFirst : AlignFirst (sizeBytes z) (laddr x (t.reg b) o (sizeBytes z)) (ldlLane x d b z o l t) := by
  refine (localAt_alignFirst hp).bind (fun e he => ?_) fun p hok e hq => ?_
  · simp [ldlLane, he]
  · obtain ⟨u, wb, off⟩ := p
    obtain rfl := localAt_thread hp hok
    simp only [ldlLane, hok, hp.checkDst] at hq
    split at hq
    · split at hq
      · next c hc => rw [← Except.error.inj hq, readWin_error hc]; decide
      · next v hv =>
        obtain ⟨out, hout⟩ := hp.putData (x := x) z d v
        simp [hout] at hq
    · cases hq

theorem feLane_alignFirst (clear : Bool) (h : (x.w.thread l).pass x.i.len = t) :
    AlignFirst (sizeBytes z) (laddr x (t.reg b) o (sizeBytes z)) (feLane x d b z clear o l) := by
  refine (localAt_alignFirst hp).bind (fun e he => ?_) fun p hok e hq => ?_
  · simp [feLane, h, he]
  · obtain ⟨u, wb, off⟩ := p
    obtain rfl := localAt_thread hp hok
    simp only [feLane, h, hok, hp.checkDst] at hq
    split at hq
    · split at hq
      · next c hc => rw [← Except.error.inj hq, readWin_error hc]; decide
      · next v hv =>
        obtain ⟨out, hout⟩ := hp.putData (x := x) z d v
        simp [hout] at hq
    · cases hq

theorem stlLane_alignFirst (fs : Bool) :
    AlignFirst (sizeBytes z) (laddr x (t.reg b) o (sizeBytes z)) (stlLane x d b z fs o l t) := by
  refine (localAt_alignFirst hp).bind (fun e he => ?_) fun p hok e hq => ?_
  · simp [stlLane, he]
  · obtain ⟨u, wb, off⟩ := p
    obtain rfl := localAt_thread hp hok
    obtain ⟨v, hv⟩ := hp.readData (x := x) z d
    simp only [stlLane, hok, hv] at hq
    split at hq <;> cases hq

end

/-! ### The trap -/

/-- The condition MEM_ALIGN at an address. -/
def misaligned (n : Nat) : Cause := { code := .memAlign, addr := BitVec.ofNat 64 n }

theorem misaligned_toNat (va : DWord) : misaligned va.toNat = { code := .memAlign, addr := va } := by simp [misaligned]

/-- The active lanes whose address is misaligned. -/
def oddLanes (x : Exec) (size : Nat) (n : Lane → Nat) : Mask := maskOf fun k => inMask x.act k && n k % size != 0

/-- The lanes' results as a word holds them. -/
def laneResults {α : Type} (x : Exec) (r : Lane → Except Cause α) : Vector (Option (Except Cause α)) 32 :=
  lanesOf fun k => if inMask x.act k then some (r k) else none

section
variable {α : Type} {x : Exec} {size : Nat} {n : Lane → Nat} {r : Lane → Except Cause α}
  (hr : ∀ k, inMask x.act k = true → AlignFirst size (n k) (r k)) {l : Lane} (hl : lowLane (oddLanes x size n) = some l)
include hr

theorem foremost_misaligned :
    Foremost (fun k => errorOf (laneResults x r)[k]) (oddLanes x size n) .memAlign fun k => misaligned (n k) where
  here k hk := by
    simp only [oddLanes, inMask_maskOf, Bool.and_eq_true, bne_iff_ne] at hk
    obtain ⟨ha, hn⟩ := hk
    simp [laneResults, ha, (hr k ha).odd hn, errorOf, misaligned]
  later k e hk he := by
    simp only [laneResults, lanesOf_get] at he
    split at he
    · next ha =>
      have hn : n k % size = 0 := by simpa [oddLanes, ha] using hk
      cases hrk : r k with
      | ok a => simp [hrk, errorOf] at he
      | error c =>
        simp only [hrk, errorOf, Option.some.injEq] at he
        exact (hr k ha).even hn e (he ▸ hrk)
    · cases he

include hl

theorem orTrap_misaligned (hb : Undisturbed x) (ts : List Touch) (q : Result) :
    x.orTrap (errList (laneResults x r)) ts q =
      .next (x.s.takeTrap x.i x.b x.w (misaligned (n l)) l.val (oddLanes x size n)) := by
  rw [errList_eq_causesOf]
  exact (foremost_misaligned hr).orTrap hb hl ts (by simp) q

/-- The same of a word with a class check: PROGRESS ranks after MEM_ALIGN. -/
theorem checked_misaligned (hb : Undisturbed x) {cs : List (Lane × Cause)} (hcs : cs = errList (laneResults x r))
    (c : Option Cap) (t : Target) (may met : Bool) (ts : List Touch) (k : Exec → Result) :
    x.checked c t may met cs ts k =
      .next (x.s.takeTrap x.i x.b x.w (misaligned (n l)) l.val (oddLanes x size n)) := by
  subst hcs
  have hne : errList (laneResults x r) ≠ [] := by
    have hk := (mem_lanesIn _ _).1 (List.mem_of_mem_head? hl)
    rw [errList_eq_causesOf]
    exact List.ne_nil_of_mem (a := (l, misaligned (n l))) (mem_causesOf.2 ((foremost_misaligned hr).here l hk).1)
  simp only [Exec.checked, allCauses_sound hb.sound, List.isEmpty_eq_false_iff.2 hne, Bool.not_false, if_true]
  exact orTrap_misaligned hr hl hb ts _

end

section
variable {x : Exec} {uses : List RegUse} (hu : Unhindered x uses)
  (hp : ∀ k, inMask x.act k = true → Portless (x.w.thread k)) {size : Nat} {n : Lane → Nat} {l : Lane}
  (hl : lowLane (oddLanes x size n) = some l)
include hu hp hl

/-- A memory word with a misaligned lane traps there, without a further effect. -/
theorem memRun_misaligned {isLoad counted : Bool} (hc : x.w.counterFull isLoad = false)
    {lane : Lane → Thread → Except Cause MemOut}
    (hr : ∀ k, inMask x.act k = true → AlignFirst size (n k) (lane k (past x k))) (now : List Draft → State → State) :
    x.memRun uses isLoad counted lane now =
      .next (x.s.takeTrap x.i x.b x.w (misaligned (n l)) l.val (oddLanes x size n)) := by
  have hlanes : x.memLanes uses lane = laneResults x fun k => lane k (past x k) := by
    unfold Exec.memLanes laneResults
    congr 1
    funext k
    by_cases hk : inMask x.act k = true
    · simp [hk, hu.regs k hk, (hp k hk).ranked, past]
    · simp [hk]
  simp only [Exec.memRun, hu.free, hc, Bool.false_eq_true, and_false, if_false, hlanes]
  exact orTrap_misaligned hr hl hu.toUndisturbed _ _

/-- The same of LDL.fe and LDL.fec. -/
theorem feWord_misaligned {d b : VReg} {z : Size} {clear : Bool} {o : BitVec 5}
    (huses : uses = [src1 b, ⟨sizeShape z, d, .dst⟩]) (hh : localHold x b o z false = false)
    (hc : x.w.counterFull true = false)
    (hr : ∀ k, inMask x.act k = true → AlignFirst size (n k) (feLane x d b z clear o k)) :
    feWord x d b z clear o = .next (x.s.takeTrap x.i x.b x.w (misaligned (n l)) l.val (oddLanes x size n)) := by
  subst huses
  simp only [feWord, hu.free, hh, hc, Bool.false_eq_true, and_false, if_false]
  refine checked_misaligned hr hl hu.toUndisturbed ?_ ..
  rw [laneCauses_eq_errList]
  unfold laneResults
  congr 2
  funext k
  by_cases hk : inMask x.act k = true
  · simp [hk, hu.regs k hk, (hp k hk).ranked]
  · simp [hk]

end

/-! ### What does not hold the words back -/

theorem counterFull_load {w : Warp} (h : w.ldc < 15) : w.counterFull true = false := by simpa [Warp.counterFull] using h

theorem counterFull_store {w : Warp} (h : w.stc < 15) : w.counterFull false = false := by simpa [Warp.counterFull] using h

section
variable {x : Exec} (ha : ∀ a ∈ x.s.accs, ¬ (a.bid = x.i.bid ∧ a.w = x.i.w))
include ha

theorem accsOf_idle (l : Lane) : x.accsOf l = [] := by
  refine List.filter_eq_nil_iff.2 fun a h => ?_
  simp only [Bool.and_eq_true, beq_iff_eq]
  exact fun hk => ha a h hk.1

theorem mustWait_idle (l : Lane) (ps : List Span) : x.mustWait l ps = false := by
  simp [Exec.mustWait, Exec.acquiring, Exec.spansAhead, Exec.pushesAhead, accsOf_idle ha]

/-- A warp without accesses in flight is not held by its local accesses. -/
theorem localHold_idle (b : VReg) (o : BitVec 5) (z : Size) (later : Bool) : localHold x b o z later = false := by
  refine List.any_eq_false.2 fun l _ => ?_
  unfold localWaits
  split
  · simp [Exec.pushesAhead, accsOf_idle ha, mustWait_idle ha]
  · simp

end

theorem storesDone_fence {x : Exec} {sc : Scope} (h : StoresDone x sc) : fenceDone x sc .stores = true := by
  unfold StoresDone at h
  unfold fenceDone
  split at h
  · next hs =>
    simp only [hs, if_true, List.all_eq_true, List.mem_filter, Bool.and_eq_true, beq_iff_eq, Bool.not_eq_true']
    rintro o ⟨ho, ⟨hb, hw⟩, hl⟩ a ⟨⟨hacc, hab, haw⟩, hop⟩
    exact h o ho hb hw hl a hacc hab haw hop
  · next hs => simpa [hs] using h

theorem loadsDone_fence {x : Exec} {sc : Scope} (h : LoadsDone x) : fenceDone x sc .loads = true := by
  obtain ⟨h0, h⟩ := h
  simp only [fenceDone, h0, List.all_eq_true, List.mem_filter, Bool.and_eq_true, beq_iff_eq, Bool.or_eq_true,
    Bool.not_eq_true', beq_self_eq_true, true_and]
  rintro a ⟨ha, hb, hw⟩
  by_cases hat : a.isAtomic = true
  · exact .inr (h a ha hb hw hat)
  · exact .inl (by simpa using hat)

theorem released_fence {x : Exec} {sc : Scope} (h : Released x sc) : fenceDone x sc .all = true := by
  have hs := storesDone_fence h.1
  have hl := loadsDone_fence (sc := sc) h.2
  unfold fenceDone at hs hl ⊢
  exact Bool.and_eq_true_iff.2 ⟨hs, hl⟩

/-! ### The words -/

section
variable {s : State} {g : PReg} {x : Exec} {l : Lane} (h : Issuing s (some g) x)
  (hp : ∀ k, inMask x.act k = true → Portless (x.w.thread k)) {d b : VReg} {z : Size} {o : BitVec 5}
include h hp

section
variable (ht : ∀ n k e, inMask x.act k = true →
    s.translate (some x.b.core) x.b.pn x.b.ctx (addressOf x b o (sizeBytes z) k).toNat n = .error e →
    e.code ≠ .capInvalid ∧ e.code ≠ .capPerm)
  (hl : lowLane (oddLanes x (sizeBytes z) fun k => (addressOf x b o (sizeBytes z) k).toNat) = some l)
include ht hl

/-- A load of global memory. -/
theorem memRun_load_misaligned (hu : Unhindered x [src2 b, ⟨sizeShape z, d, .dst⟩]) (hc : x.w.ldc < 15) (k : AccKind)
    (now : List Draft → State → State) :
    x.memRun [src2 b, ⟨sizeShape z, d, .dst⟩] true true (loadLane x d b z o k) now =
      .next (s.takeTrap x.i x.b x.w (misaligned (addressOf x b o (sizeBytes z) l).toNat) l.val
        (oddLanes x (sizeBytes z) fun k => (addressOf x b o (sizeBytes z) k).toNat)) := by
  have hs := h.state
  subst hs
  exact memRun_misaligned hu hp hl (counterFull_load hc)
    (fun j hj => loadLane_alignFirst ((hp j hj).pass _) k fun e => ht _ j e hj) now

/-- A store to global memory. -/
theorem memRun_store_misaligned (hu : Unhindered x [src2 b, ⟨sizeShape z, d, .src⟩]) (hc : x.w.stc < 15) (k : AccKind)
    (now : List Draft → State → State) :
    x.memRun [src2 b, ⟨sizeShape z, d, .src⟩] false true (storeLane x d b z o k) now =
      .next (s.takeTrap x.i x.b x.w (misaligned (addressOf x b o (sizeBytes z) l).toNat) l.val
        (oddLanes x (sizeBytes z) fun k => (addressOf x b o (sizeBytes z) k).toNat)) := by
  have hs := h.state
  subst hs
  exact memRun_misaligned hu hp hl (counterFull_store hc)
    (fun j hj => storeLane_alignFirst ((hp j hj).pass _) k fun e => ht _ j e hj) now

end

section
variable (ha : ∀ a ∈ s.accs, ¬ (a.bid = x.i.bid ∧ a.w = x.i.w))
  (hl : lowLane (oddLanes x (sizeBytes z) fun k => laddr x ((past x k).reg b) o (sizeBytes z)) = some l)
include ha hl

theorem execLdl_misaligned (hu : Unhindered x [src1 b, ⟨sizeShape z, d, .dst⟩]) (hc : x.w.ldc < 15) (m : LdlMode) :
    execLdl g d b z m o s = .next (s.takeTrap x.i x.b x.w (misaligned (laddr x ((past x l).reg b) o (sizeBytes z))) l.val
      (oddLanes x (sizeBytes z) fun k => laddr x ((past x k).reg b) o (sizeBytes z))) := by
  have hs := h.state
  subst hs
  unfold execLdl
  rw [withWord_issuing h]
  cases m with
  | plain =>
    simp only [localHold_idle ha, Bool.false_eq_true, if_false]
    exact memRun_misaligned hu hp hl (counterFull_load hc) (fun j hj => ldlLane_alignFirst ((hp j hj).pass _)) nowNothing
  | fe =>
    exact feWord_misaligned hu hp hl rfl (localHold_idle ha ..) (counterFull_load hc) fun j hj =>
      feLane_alignFirst ((hp j hj).pass _) false rfl
  | fec =>
    exact feWord_misaligned hu hp hl rfl (localHold_idle ha ..) (counterFull_load hc) fun j hj =>
      feLane_alignFirst ((hp j hj).pass _) true rfl

theorem execStl_misaligned (hu : Unhindered x [src1 b, ⟨sizeShape z, d, .src⟩]) (hc : x.w.stc < 15) (m : StlMode) :
    execStl g d b z m o s = .next (s.takeTrap x.i x.b x.w (misaligned (laddr x ((past x l).reg b) o (sizeBytes z))) l.val
      (oddLanes x (sizeBytes z) fun k => laddr x ((past x k).reg b) o (sizeBytes z))) := by
  have hs := h.state
  subst hs
  unfold execStl
  rw [withWord_issuing h]
  simp only [localHold_idle ha, Bool.false_eq_true, if_false]
  exact memRun_misaligned hu hp hl (counterFull_store hc)
    (fun j hj => stlLane_alignFirst ((hp j hj).pass _) _) _

end

end

/-- Settles O54: in a lane without a bound port nothing that an access meets ranks before MEM_ALIGN, peer capabilities
aside, so the misaligned lanes lead the word's conditions. -/
theorem alignmentTraps : Obligations.AlignmentTraps := by
  unfold Obligations.AlignmentTraps
  intro s g d b z o x l h hp
  refine ⟨fun ht hl => ⟨fun hu hc => ⟨fun pol => ?_, fun pol sc hsc => ?_⟩,
    fun hu hc => ⟨fun pol => ?_, fun pol sc hsc hrel => ?_⟩⟩,
    fun hl ha => ⟨execLdl_misaligned h hp ha hl, execStl_misaligned h hp ha hl⟩⟩
  · show execLd g d b z pol o s = _
    unfold execLd
    rw [withWord_issuing h, memRun_load_misaligned h hp ht hl hu hc, misaligned_toNat]
    rfl
  · show execLda g d b z pol o s = _
    unfold execLda
    rw [withWord_issuing h, hsc]
    dsimp only
    rw [memRun_load_misaligned h hp ht hl hu hc, misaligned_toNat]
    rfl
  · show execSt g d b z pol o s = _
    unfold execSt
    rw [withWord_issuing h, memRun_store_misaligned h hp ht hl hu hc, misaligned_toNat]
    rfl
  · show execStrl g d b z pol o s = _
    unfold execStrl
    rw [withWord_issuing h, hsc]
    dsimp only
    rw [if_pos (released_fence hrel), memRun_store_misaligned h hp ht hl hu hc, misaligned_toNat]
    rfl

end Sys2Proof.Machine
end

section
/-! Matrix passes and products of zero: a group sum does not see them, so a sparse pass leaves what the dense pass of its
expanded rows leaves (spec/02_number_formats.md, R57). -/

namespace Sys2Proof.Machine

open Sys2Proof

/-! ### Group sums -/

theorem isNaN_not_isZero {p : Num} (h : p.isNaN) : p.isZero = false := by
  cases p with
  | nan q => rfl
  | inf s => cases h
  | fin s m e => cases h

theorem isInf_not_isZero {p : Num} (h : p.isInf) : p.isZero = false := by
  cases p with
  | nan q => cases h
  | inf s => rfl
  | fin s m e => cases h

/-- Without the zero products a group holds the same values of every kind that no zero is of. -/
theorem any_filter_nonzero {f : Num → Bool} (hf : ∀ p : Num, f p → p.isZero = false) (ps : List Num) :
    (ps.filter fun p => !p.isZero).any f = ps.any f := by
  rw [List.any_filter]
  congr 1
  funext p
  cases hp : f p with
  | false => exact Bool.and_false _
  | true => simp [hf p hp]

/-- R57: the special values are no zeros, and the finite sum is over the nonzero products alone. -/
theorem groupSum_filter_nonzero (ps : List Num) : groupSum (ps.filter fun p => !p.isZero) = groupSum ps := by
  have hinf (sgn : Num → Bool) (p : Num) (h : (p.isInf && sgn p) = true) : p.isZero = false :=
    isInf_not_isZero (Bool.and_eq_true_iff.mp h).1
  unfold groupSum
  rw [any_filter_nonzero fun _ => isNaN_not_isZero, any_filter_nonzero fun _ => isInf_not_isZero,
    any_filter_nonzero (hinf Num.sign), any_filter_nonzero (hinf fun p => !p.sign), List.filter_filter]
  simp only [Bool.and_self]

/-! ### Passes -/

/-- The activation rows of a sparse pass are those of a dense pass that reads their expansions. -/
theorem passActs_sparse_eq_dense {sw dw : List Host.Cell} {sn dn : Nat} {sr dr : List Byte} {sf df : List Nat}
    (hs : rowFormats sw sn (mxDesc 3 sr) = some sf) (hd : rowFormats dw dn (mxDesc 2 dr) = some df)
    (hlen : sf.length = df.length)
    (hrow : ∀ r f h, sf[r]? = some f → df[r]? = some h → ∃ bs vals,
      winBytes sw sn ((mxDesc 3 sr).meta' + 16 * r) 16 = some bs ∧ readRow sw sn (mxDesc 3 sr) f true r = some vals ∧
        readRow dw dn (mxDesc 2 dr) h false r = some (expandRow (bytesToNat bs) vals)) :
    passActs 3 sw sn sr = passActs 2 dw dn dr := by
  unfold passActs
  simp only [hs, hd, Option.getD_some]
  refine List.ext_getElem (by simpa using hlen) fun r hrs hrd => ?_
  rw [List.length_mapIdx] at hrs hrd
  obtain ⟨bs, vals, hmeta, hsparse, hdense⟩ :=
    hrow r sf[r] df[r] (List.getElem?_eq_getElem hrs) (List.getElem?_eq_getElem hrd)
  simp [hmeta, hsparse, hdense]

/-- A pass's rows depend on its operation and operands only by the activation rows, ACC0 and CLR. -/
theorem passRows_congr {op op' : Nat} {w w' : List Host.Cell} {n n' : Nat} {raw raw' : List Byte}
    (hacts : passActs op w n raw = passActs op' w' n' raw') (hacc : (mxDesc op raw).acc0 = (mxDesc op' raw').acc0)
    (hclr : (mxDesc op raw).clr = (mxDesc op' raw').clr) (e : EngineCtx) :
    passRows op w n raw e = passRows op' w' n' raw' e := by
  simp only [passRows, hacts, hacc, hclr]

/-- Settles O56: a group sum drops the zero products itself, and the sparse pass works on the expansions that the dense pass
reads. -/
theorem zeroProducts : Obligations.ZeroProducts := by
  unfold Obligations.ZeroProducts
  refine ⟨fun ps => (groupSum_filter_nonzero ps).symm, ?_⟩
  intro sw dw sn dn sr dr e sf df sd dd hs hd hlen hacc hclr hrow
  exact passRows_congr (passActs_sparse_eq_dense hs hd hlen hrow) hacc hclr e

end Sys2Proof.Machine
end

section
/-! Words whose active set is empty: a word of a guarded format decodes, if at all, to an instruction under the guard in its
guard field, and such an instruction runs only where the guard leaves an active lane (spec/03_formats_and_assembly.md, R61,
R71; spec/01_machine_state.md, R35). -/

namespace Sys2Proof

/-! ### The guard field of the guarded formats (R62) -/

section
variable (w : Word)

@[simp] theorem FR.unpack_g : (FR.unpack w).g = guardOf w := rfl
@[simp] theorem FI.unpack_g : (FI.unpack w).g = guardOf w := rfl
@[simp] theorem FI2.unpack_g : (FI2.unpack w).g = guardOf w := rfl
@[simp] theorem FL.unpack_g : (FL.unpack w).g = guardOf w := rfl
@[simp] theorem FM.unpack_g : (FM.unpack w).g = guardOf w := rfl
@[simp] theorem FB.unpack_g : (FB.unpack w).g = guardOf w := rfl
@[simp] theorem FG.unpack_g : (FG.unpack w).g = guardOf w := rfl
@[simp] theorem FP.unpack_g : (FP.unpack w).g = guardOf w := rfl
@[simp] theorem FWF.unpack_g : (FWF.unpack w).g = guardOf w := rfl
@[simp] theorem FC.unpack_g : (FC.unpack w).g = guardOf w := rfl
@[simp] theorem FK.unpack_g : (FK.unpack w).g = guardOf w := rfl

end

end Sys2Proof

namespace Sys2Proof.Machine

open Sys2Proof

/-! ### What a guard governs (R61, R71) -/

/-- The instruction runs only where guard `g` leaves an active lane, or it is a safe point under `g`, which acts without one
too. -/
def GuardedBy (g : PReg) (i : Instr) : Prop :=
  i = .exit g ∨ (∃ k, i = .spt g k) ∨ ∀ s, ∃ k, exec i s = withWord s (some g) k

@[simp] theorem exists_withWord (s : State) (g : Option PReg) (k : Exec → Result) :
    ∃ k', withWord s g k = withWord s g k' := ⟨k, rfl⟩

/-- The instruction that a decoder answers, if it answers one, is guarded by `g`. -/
def AnswersGuarded (g : PReg) (r : Decoded) : Prop := ∀ i, r = .ok i → GuardedBy g i

section
variable {g : PReg}

@[simp] theorem answersGuarded_ok {i : Instr} : AnswersGuarded g (.ok i) ↔ GuardedBy g i := by simp [AnswersGuarded]

@[simp] theorem answersGuarded_error {e : DecErr} : AnswersGuarded g (.error e) := nofun

@[simp] theorem answersGuarded_bad : AnswersGuarded g bad := nofun

@[simp] theorem answersGuarded_ite {c : Prop} [Decidable c] {r r' : Decoded} :
    AnswersGuarded g (if c then r else r') ↔ (c → AnswersGuarded g r) ∧ (¬c → AnswersGuarded g r') := by
  split <;> simp_all

@[simp] theorem answersGuarded_needZero {n : Nat} {z : BitVec n} {r : Decoded} :
    AnswersGuarded g (needZero z r) ↔ (z = 0 → AnswersGuarded g r) := by simp [needZero]

@[simp] theorem answersGuarded_needW {r : VReg} {k : WReg → Decoded} :
    AnswersGuarded g (needW r k) ↔ (r.extractLsb' 6 1 = 0 → AnswersGuarded g (k (r.extractLsb' 0 6))) :=
  answersGuarded_needZero

@[simp] theorem answersGuarded_needP {r : VReg} {k : PReg → Decoded} :
    AnswersGuarded g (needP r k) ↔ (r.extractLsb' 3 4 = 0 → AnswersGuarded g (k (r.extractLsb' 0 3))) :=
  answersGuarded_needZero

@[simp] theorem answersGuarded_needSome {α : Type} {o : Option α} {k : α → Decoded} :
    AnswersGuarded g (needSome o k) ↔ ∀ a, o = some a → AnswersGuarded g (k a) := by
  cases o <;> simp [needSome]

end

/-! ### The decoders of the guarded majors (R80 to R88) -/

section
variable (w : Word)

@[simp] theorem decR4_guarded {i0 i1 i2 i3 : PReg → VReg → VReg → VReg → Instr} {g : PReg} {r : FR} :
    AnswersGuarded g (decR4 r i0 i1 i2 i3) ↔
      (r.f.toNat = 0 → GuardedBy g (i0 r.g r.d r.a r.b)) ∧ (r.f.toNat = 1 → GuardedBy g (i1 r.g r.d r.a r.b)) ∧
      (r.f.toNat = 2 → GuardedBy g (i2 r.g r.d r.a r.b)) ∧ (2 < r.f.toNat → GuardedBy g (i3 r.g r.d r.a r.b)) := by
  unfold decR4
  split
  next h => simp [h]
  next h => simp [h]
  next h => simp [h]
  next h0 h1 h2 =>
    simp only [imp_false] at h0 h1 h2
    simp [h0, h1, h2, show 2 < r.f.toNat by omega]

@[simp] theorem decIntB_guarded : AnswersGuarded (guardOf w) (decIntB (FR.unpack w)) := by
  unfold decIntB
  split <;> simp [GuardedBy, exec, execIminu, execImaxu, execIabs, execIneg, binaryWord, unaryWord]

@[simp] theorem decImmOp_guarded : AnswersGuarded (guardOf w) (decImmOp (FI2.unpack w)) := by
  unfold decImmOp
  split <;> simp [GuardedBy, exec, execShli, execShri, execSari, execAndi, unaryWord]

@[simp] theorem decLogB_guarded : AnswersGuarded (guardOf w) (decLogB (FR.unpack w)) := by
  unfold decLogB
  split <;> simp [GuardedBy, exec, execOrn, execXnor, execNot, binaryWord, unaryWord]

@[simp] theorem decBitA_guarded : AnswersGuarded (guardOf w) (decBitA (FR.unpack w)) := by
  unfold decBitA
  split <;> simp [GuardedBy, exec, execPopc, execClz, execCtz, execBrev, unaryWord]

@[simp] theorem decBitB_guarded : AnswersGuarded (guardOf w) (decBitB (FR.unpack w)) := by
  unfold decBitB
  split <;> simp [GuardedBy, exec, execBfe, execBfeu, execBfi, binaryWord, ternaryWord]

@[simp] theorem decSetp_guarded : AnswersGuarded (guardOf w) (decSetp (FP.unpack w)) := by
  unfold decSetp
  split <;> simp [GuardedBy, exec, execFsetp, execIsetp]

@[simp] theorem decSetpi_guarded : AnswersGuarded (guardOf w) (decSetpi (FP.unpack w)) := by
  unfold decSetpi
  split <;> simp [GuardedBy, exec, execIsetpi]

@[simp] theorem decPred_guarded : AnswersGuarded (guardOf w) (decPred (FR.unpack w)) := by
  unfold decPred
  split <;> simp [GuardedBy, exec, execPand, execPor, execPxor, execPnot, plainWord]

@[simp] theorem decSelMov_guarded : AnswersGuarded (guardOf w) (decSelMov (FR.unpack w)) := by
  unfold decSelMov
  split <;> simp [GuardedBy, exec, execSel, execP2v, execV2p, execMov, unaryWord]

@[simp] theorem decUnif_guarded : AnswersGuarded (guardOf w) (decUnif (FR.unpack w)) := by
  unfold decUnif
  split <;> simp [GuardedBy, exec, execMovw, execWmov, execWmovw, execWadd]

@[simp] theorem decCtrl_guarded : AnswersGuarded (guardOf w) (decCtrl (FG.unpack w)) := by
  unfold decCtrl
  split <;> simp [GuardedBy, exec, execBrx, execCallx, execRet, execNop, execYield, execBkpt, execTrap, execEret,
    ctrlWord]

@[simp] theorem decMask_guarded : AnswersGuarded (guardOf w) (decMask (FK.unpack w)) := by
  unfold decMask
  split <;> simp [GuardedBy, exec, execJoin, execLeave, execWaitm, execMskrd, execMskwr, execMskact, maskWord,
    maskRegWord]

@[simp] theorem decFpb_guarded : AnswersGuarded (guardOf w) (decFpb (FR.unpack w)) := by
  unfold decFpb
  split <;> simp [GuardedBy, exec, execFmin, execFmax, execFcpys, binaryWord]

@[simp] theorem decFuna_guarded : AnswersGuarded (guardOf w) (decFuna (FR.unpack w)) := by
  unfold decFuna
  refine answersGuarded_ite.2 ⟨fun _ => answersGuarded_bad, fun _ => ?_⟩
  split <;> simp [GuardedBy, exec, execFabs, execFneg, execFrndRne, execFrndRtz, execFrndRdn, execFrndRup,
    execFrcp, execFrsq, execFsqrt, execFex2, execFlg2, execFsin, execFcos, execFtanh, execFsigm, unaryWord]

@[simp] theorem decCvt_guarded : AnswersGuarded (guardOf w) (decCvt (FR.unpack w)) := by
  unfold decCvt
  split <;> simp [GuardedBy, exec, execCvtf, execF2i, execI2f, cvtWord]

@[simp] theorem decBx_guarded : AnswersGuarded (guardOf w) (decBx (FR.unpack w)) := by
  unfold decBx
  split <;> simp [GuardedBy, exec, execBxq, execBxd, execBxpk]

@[simp] theorem decVote_guarded : AnswersGuarded (guardOf w) (decVote (FR.unpack w)) := by
  unfold decVote
  split <;> simp [GuardedBy, exec, execVoteAll, execVoteAny, execVoteUni, execVoteBallot, voteWord, plainWord]

@[simp] theorem decRedux_guarded (scan : Bool) : AnswersGuarded (guardOf w) (decRedux scan (FR.unpack w)) := by
  unfold decRedux
  split <;> simp [GuardedBy, exec, execScan, execRedux]

@[simp] theorem decLaneB_guarded : AnswersGuarded (guardOf w) (decLaneB (FR.unpack w)) := by
  unfold decLaneB
  split <;> simp [GuardedBy, exec, execMatchAll, execMatchAny, matchWord]

@[simp] theorem decPdsc_guarded : AnswersGuarded (guardOf w) (decPdsc (FM.unpack w)) := by
  unfold decPdsc
  split <;> simp [GuardedBy, exec, execPref, execDisc]

@[simp] theorem decAtomC_guarded : AnswersGuarded (guardOf w) (decAtomC (FC.unpack w)) := by
  unfold decAtomC
  split <;> simp [GuardedBy, exec, execCasc, execIncc, execMinc, contWord]

@[simp] theorem decRwl_guarded : AnswersGuarded (guardOf w) (decRwl (FC.unpack w)) := by
  unfold decRwl
  split <;> simp [GuardedBy, exec, execRlock, execWlock, execRunlk, execWunlk, execRtry, execWtry, lockWord,
    unlockWord, tryWord]

@[simp] theorem decBar_guarded : AnswersGuarded (guardOf w) (decBar (FC.unpack w)) := by
  unfold decBar
  split <;> simp [GuardedBy, exec, execBara, execBarw, execBaraw, execBarst, execBarx, execBarxw, arriveWord,
    barWord, arriveWaitWord]

@[simp] theorem decQueue_guarded : AnswersGuarded (guardOf w) (decQueue (FC.unpack w)) := by
  unfold decQueue
  split <;> simp [GuardedBy, exec, execEnq, execDeq, execEnqt, execDeqt, execQlen, enqWord, deqWord]

@[simp] theorem decCopy_guarded : AnswersGuarded (guardOf w) (decCopy (FC.unpack w)) := by
  unfold decCopy
  split <;> simp [GuardedBy, exec, execCpy, execCpyt, execCpyim, execCpyg, execCtok, execCsleep, copyWord]

@[simp] theorem decTask_guarded : AnswersGuarded (guardOf w) (decTask (FC.unpack w)) := by
  unfold decTask
  split <;> simp [GuardedBy, exec, execCard, execDeal, execReord]

@[simp] theorem decSeqCtl_guarded : AnswersGuarded (guardOf w) (decSeqCtl (FC.unpack w)) := by
  unfold decSeqCtl
  split <;> simp [GuardedBy, exec, execSqrun, execSqst, execSqstop]

/-- R61: the guard field of a word guards its instruction.  What is left beside the decoders above are the majors of four
words alike or of one word, and those without a guard. -/
theorem decode_guarded (hm : guardedMajor (majorOf w).toNat = true) : AnswersGuarded (guardOf w) (decode w) := by
  revert hm
  unfold decode
  generalize (majorOf w).toNat = m
  split <;> simp [GuardedBy, guardedMajor, reservedMajor, exec, execIadd, execIsub, execImin, execImax, execImul,
    execImulh, execImulhu, execImad, execImadw, execImadwu, execIdiv, execIdivu, execIrem, execIremu, execIadd64,
    execIsub64, execShl, execShr, execSar, execRotl, execAnd, execOr, execXor, execAndn, execIaddi, execMovi,
    execLea, execBra, execCall, execFadd, execFsub, execFmul, execFfma, execDadd, execDsub, execDmul, execDfma,
    execBadd2, execBmul2, execBfma2, execBmax2, execHadd2, execHmul2, execHfma2, execHmax2, execShfli, execShflu,
    execShfld, execShflx, execLd, execSt, execLdl, execStl, execLda, execStrl, execAaddNear, execAminNear,
    execAmaxNear, execAexchNear, execAadd, execAmin, execAmax, execAexch, execAand, execAor, execAxor, execAinc,
    execCas, execCash, execCash64, execCas128, execFaadd, execFamin, execFamax, execBfaadd2, execWaitf, execPoll,
    binaryWord, ternaryWord, wideMad, binaryPair, unaryWord, plainWord, ternaryPair, shflWord, atomWord, casWord,
    fatomWord]

end

/-! ### No active lane (R35, R71) -/

/-- A word of no active lane meets no breakpoint (R373). -/
theorem undisturbed_of_empty {x : Exec} (ha : x.act = 0) (hh : x.hardCauses = []) : Undisturbed x where
  quiet := by
    unfold Exec.bpHits
    split
    · rfl
    · exact if_pos ha
  sound := hh

section
variable {s : State} {g : PReg} {x : Exec} (h : Issued s (some g) x) (ha : x.act = 0) (hh : x.hardCauses = [])
include h ha hh

theorem withWord_empty (k : Exec → Result) : withWord s (some g) k = .next (x.commit id) := by
  unfold withWord
  rw [withIssue_issued h, if_pos ha, orTrap_quiet (undisturbed_of_empty ha hh)]

/-- R71: a guarded instruction that is no safe point is a no-op. -/
theorem GuardedBy.exec_empty {i : Instr} (hi : GuardedBy g i) (he : ∀ g, i ≠ .exit g) (hs : ∀ g k, i ≠ .spt g k) :
    exec i s = .next (x.commit id) := by
  obtain hi | ⟨k, hi⟩ | hi := hi
  · exact absurd hi (he g)
  · exact absurd hi (hs g k)
  · obtain ⟨k, hk⟩ := hi s
    rw [hk, withWord_empty h ha hh]

/-- R118: EXIT then ends no lane, and is a safe point of all the issued ones. -/
theorem execExit_empty :
    execExit g s = .next (x.commit (Warp.safePoint x.i.lanes (s.sptabIndex x.b x.i.wordPc))) := by
  have hp : x.portPending = false := by simp [Exec.portPending, State.portPending, ha, lanesIn, inMask]
  have hl : x.i.lanes &&& ~~~0 = x.i.lanes := BitVec.and_allOnes
  unfold execExit doExit
  rw [withIssue_issued h, if_neg (by simp [ha]), if_neg (by simp [hp]), orTrap_quiet (undisturbed_of_empty ha hh),
    h.state, ha, hl]
  simp [Warp.endLanes]

theorem execSpt_empty (k : BitVec 12) :
    execSpt g k s = .next (x.commit (Warp.safePoint x.i.lanes
      (if 0 ≤ x.i.imm k false ∧ x.i.imm k false < 4096 then (x.i.imm k false).toNat else 0))) := by
  unfold execSpt
  rw [withIssue_issued h, orTrap_quiet (undisturbed_of_empty ha hh)]

end

/-! ### A hint misuse ranks before a soft error (R34, R69) -/

theorem hardCauses_code {x : Exec} {e : Lane × Cause} (he : e ∈ x.hardCauses) : e.2.code = .ecc := by
  unfold Exec.hardCauses at he
  split at he
  · cases he
  · simp only [List.mem_filterMap, Option.map_eq_some_iff] at he
    obtain ⟨l, -, p, -, rfl⟩ := he
    rfl

section
variable {α : Type} {le : α → α → Bool} {p : α → Bool}

theorem mem_insertBy {a b : α} {l : List α} : b ∈ insertBy le a l ↔ b = a ∨ b ∈ l := by
  induction l with
  | nil => exact List.mem_cons
  | cons c l ih =>
    unfold insertBy
    split
    · exact List.mem_cons
    · rw [List.mem_cons, ih, List.mem_cons]
      exact or_left_comm

theorem mem_sortBy {b : α} {l : List α} : b ∈ sortBy le l ↔ b ∈ l := by
  induction l with
  | nil => exact Iff.rfl
  | cons a l ih => exact mem_insertBy.trans ((or_congr_right ih).trans List.mem_cons.symm)

/-- What is kept and comes before all that is kept goes to the front of it. -/
theorem filter_insertBy {a : α} {l : List α} (ha : p a = true) (hl : ∀ b ∈ l, p b = true → le a b = true) :
    (insertBy le a l).filter p = a :: l.filter p := by
  induction l with
  | nil => exact List.filter_cons_of_pos ha
  | cons b l ih =>
    unfold insertBy
    split
    · exact List.filter_cons_of_pos ha
    · next hab =>
      have hb : ¬p b = true := fun hp => hab (hl b List.mem_cons_self hp)
      rw [List.filter_cons_of_neg hb, List.filter_cons_of_neg hb]
      exact ih fun c hc => hl c (List.mem_cons_of_mem b hc)

/-- Elements in order keep it when others are sorted in among them. -/
theorem filter_sortBy_append {as bs : List α} (hs : as.Pairwise fun a b => le a b = true) (ha : ∀ a ∈ as, p a = true)
    (hb : ∀ b ∈ bs, ¬p b = true) : (sortBy le (as ++ bs)).filter p = as := by
  induction as with
  | nil => exact List.filter_eq_nil_iff.2 fun b h => hb b (mem_sortBy.1 h)
  | cons a as ih =>
    obtain ⟨hfirst, hrest⟩ := List.pairwise_cons.1 hs
    have hkept := ih hrest fun c hc => ha c (List.mem_cons_of_mem a hc)
    show (insertBy le a (sortBy le (as ++ bs))).filter p = a :: as
    rw [filter_insertBy (ha a List.mem_cons_self), hkept]
    exact fun b h hp => hfirst b (hkept ▸ List.mem_filter.2 ⟨h, hp⟩)

end

theorem mem_everyLane {x : Exec} {c : Cause} {e : Lane × Cause} :
    e ∈ x.everyLane c ↔ inMask x.act e.1 = true ∧ e.2 = c := by
  obtain ⟨k, d⟩ := e
  simp only [Exec.everyLane, List.mem_map, mem_lanesIn, Prod.mk.injEq]
  constructor
  · rintro ⟨j, hj, rfl, rfl⟩
    exact ⟨hj, rfl⟩
  · rintro ⟨hk, rfl⟩
    exact ⟨k, hk, rfl, rfl⟩

theorem mem_allCauses {x : Exec} {cs : List (Lane × Cause)} {e : Lane × Cause} :
    e ∈ x.allCauses cs ↔ e ∈ cs ∨ e ∈ x.hardCauses := by
  unfold Exec.allCauses
  split
  · next h => simp [h]
  · exact mem_sortBy.trans List.mem_append

section
variable {x : Exec} {c : Cause} (hc : c.code.rank < TrapCode.ecc.rank)
include hc

/-- Sorting the soft errors in keeps the lanes of such a condition in their order. -/
theorem filter_allCauses_everyLane :
    (x.allCauses (x.everyLane c)).filter (fun e => e.2.code.rank == c.code.rank) = x.everyLane c := by
  have hkeep : ∀ e ∈ x.everyLane c, (e.2.code.rank == c.code.rank) = true := fun e he => by
    rw [(mem_everyLane.1 he).2, beq_self_eq_true]
  have hdrop : ∀ e ∈ x.hardCauses, ¬(e.2.code.rank == c.code.rank) = true := fun e he => by
    rw [hardCauses_code he, beq_iff_eq]
    exact Nat.ne_of_gt hc
  have hsorted : (x.everyLane c).Pairwise fun a b => decide (a.1 ≤ b.1) = true :=
    List.pairwise_map.2 (((List.pairwise_lt_finRange 32).filter _).imp fun h => decide_eq_true (Nat.le_of_lt h))
  unfold Exec.allCauses
  split
  · exact List.filter_eq_self.2 hkeep
  · exact filter_sortBy_append hsorted hkeep hdrop

/-- A condition of every active lane that ranks before ECC is the word's trap, whatever registers hold errors. -/
theorem trapAll_before_ecc {l : Lane} (hl : lowLane x.act = some l) :
    x.trapAll c = .next (x.s.takeTrap x.i x.b x.w c l.val x.act) := by
  have hrank : ∀ e ∈ x.allCauses (x.everyLane c), c.code.rank ≤ e.2.code.rank := fun e he =>
    (mem_allCauses.1 he).elim (fun h => Nat.le_of_eq (congrArg (·.code.rank) (mem_everyLane.1 h).2.symm))
      fun h => hardCauses_code h ▸ Nat.le_of_lt hc
  have hfirst : firstCause (x.allCauses (x.everyLane c)) = some (l, c) := by
    refine firstCause_eq_head hrank ?_
    rw [filter_allCauses_everyLane hc, Exec.everyLane, List.head?_map, show (lanesIn x.act).head? = some l from hl]
    rfl
  have hlanes : (maskOf fun j => (x.allCauses (x.everyLane c)).any fun e => e.1 == j && e.2.code == c.code) = x.act := by
    refine mask_ext fun k => ?_
    rw [inMask_maskOf, Bool.eq_iff_iff, List.any_eq_true]
    constructor
    · rintro ⟨e, he, hk⟩
      simp only [Bool.and_eq_true, beq_iff_eq] at hk
      obtain ⟨rfl, hcode⟩ := hk
      refine (mem_allCauses.1 he).elim (fun h => (mem_everyLane.1 h).1) fun h => ?_
      rw [← hcode, hardCauses_code h] at hc
      exact absurd hc (Nat.lt_irrefl _)
    · exact fun hk => ⟨(k, c), mem_allCauses.2 (.inl (mem_everyLane.2 ⟨hk, rfl⟩)), by simp⟩
  have hdebug : ¬(c.code = .bkpt ∨ c.code = .watchpt) := by
    rintro (h | h) <;> simp [h, TrapCode.rank] at hc
  simp only [Exec.trapAll, Exec.orTrap, hfirst, Exec.trapOn, if_neg hdebug, hlanes]

end

/-! ### Words that are no instruction (R71, R81) -/

section
variable {s : State} {w : Word} {x : Exec} (hm : guardedMajor (majorOf w).toNat = true)
  (h : Issued s (some (guardField w)) x)
include hm h

theorem execIllegalWord_empty (ha : x.act = 0) (hh : x.hardCauses = []) (hu : x.i.misuse = false) (hw : majorOf w ≠ 0x3F) :
    execIllegalWord w s = .next (x.commit id) := by
  unfold execIllegalWord
  rw [if_pos hm, withIssue_issued h]
  simp only [hu, hw, ha, Bool.false_eq_true, false_and, if_false, if_true]
  exact orTrap_quiet (undisturbed_of_empty ha hh) _

/-- A misused hint is the trap of all the issued lanes, active or not. -/
theorem execIllegalWord_misuse (hu : x.i.misuse = true) {l : Lane} (hl : lowLane x.i.lanes = some l) :
    execIllegalWord w s = .next (s.takeTrap x.i x.b x.w { code := .illegal, sub := 2 } l.val x.i.lanes) := by
  unfold execIllegalWord
  rw [if_pos hm, withIssue_issued h]
  simp only [hu, if_true]
  rw [trapAll_before_ecc (by decide) hl, h.state]

end

/-- Settles O51: every instruction of a guarded format but EXIT and SPT runs through its guard, which lets a word without an
active lane do nothing; EXIT and SPT are then safe points and no more, and a misused hint ranks before any soft error. -/
theorem emptyActiveSet : Obligations.EmptyActiveSet := by
  unfold Obligations.EmptyActiveSet
  refine ⟨fun s w i x hd hm he hs h ha hh => ?_, fun s g x h ha hh => ⟨?_, fun k => ?_⟩,
    fun s w x hm h ha hh => ⟨fun hu hw => ?_, fun hu l hl => ?_⟩⟩
  · exact ⟨_, (decode_guarded w hm i hd).exec_empty h ha hh he hs, commit_done h id⟩
  · exact ⟨_, execExit_empty h ha hh, commit_done h _⟩
  · exact ⟨_, execSpt_empty h ha hh k, commit_done h _⟩
  · exact ⟨_, execIllegalWord_empty hm h ha hh hu hw, commit_done h id⟩
  · exact execIllegalWord_misuse hm h hu hl

end Sys2Proof.Machine
end
